-- ==== Sys2Proof/Word.lean ====
section
/-!
DEFINITION. The word types of the machine: bytes, 32-bit words, 64-bit registers and pointers (R6, R12, R48).
-/
namespace Sys2Proof

abbrev Byte := BitVec 8
abbrev W32 := BitVec 32
abbrev W64 := BitVec 64

/-- What an access does to memory (R333, access kinds). -/
inductive AccKind where
  | load | store | atomic | fetch
  deriving DecidableEq, Repr

/-- A link between dies or between packages (R391). -/
inductive Link where
  | hem (edge : Nat)
  | stitch (port : Nat)
  deriving DecidableEq, Repr

end Sys2Proof
end

