-- ==== Sys2Proof/Syntax.lean ====
section
/-!
DEFINITION. The abstract syntax: one constructor per row of spec/opcode_table.json. The first rows are the
C-class words and the long forms (R55, R51), the next the A-class words (R54), and the rest the steps that the device's
engines and outside parties take (95_what_each_step_holds.md).
-/
namespace Sys2Proof

/-- One step of the opcode table. -/
inductive Instr where
  /-- C_NOP (R52). -/
  | cNop (g : BitVec 4)
  /-- BR (R95). -/
  | br (d : BitVec 21) (g : BitVec 4)
  /-- CALL (R98). -/
  | call (d : BitVec 21) (g : BitVec 4)
  /-- JMPR (R97). -/
  | jmpr (b : BitVec 5) (o : BitVec 11) (g : BitVec 4)
  /-- CALLR (R97). -/
  | callr (b : BitVec 5) (o : BitVec 11) (g : BitVec 4)
  /-- RET (R20). -/
  | ret (g : BitVec 4)
  /-- LOOP (R99). -/
  | loop (d : BitVec 5) (o : BitVec 11) (g : BitVec 4)
  /-- LD_B (R101). -/
  | ldB (d : BitVec 5) (b : BitVec 5) (o : BitVec 11) (g : BitVec 4)
  /-- LD_BU (R101). -/
  | ldBu (d : BitVec 5) (b : BitVec 5) (o : BitVec 11) (g : BitVec 4)
  /-- LD_H (R101). -/
  | ldH (d : BitVec 5) (b : BitVec 5) (o : BitVec 11) (g : BitVec 4)
  /-- LD_HU (R101). -/
  | ldHu (d : BitVec 5) (b : BitVec 5) (o : BitVec 11) (g : BitVec 4)
  /-- LD_W (R101). -/
  | ldW (d : BitVec 5) (b : BitVec 5) (o : BitVec 11) (g : BitVec 4)
  /-- LD_WU (R101). -/
  | ldWu (d : BitVec 5) (b : BitVec 5) (o : BitVec 11) (g : BitVec 4)
  /-- LD_D (R101). -/
  | ldD (d : BitVec 5) (b : BitVec 5) (o : BitVec 11) (g : BitVec 4)
  /-- ST_B (R101). -/
  | stB (d : BitVec 5) (b : BitVec 5) (o : BitVec 11) (g : BitVec 4)
  /-- ST_H (R101). -/
  | stH (d : BitVec 5) (b : BitVec 5) (o : BitVec 11) (g : BitVec 4)
  /-- ST_W (R101). -/
  | stW (d : BitVec 5) (b : BitVec 5) (o : BitVec 11) (g : BitVec 4)
  /-- ST_D (R101). -/
  | stD (d : BitVec 5) (b : BitVec 5) (o : BitVec 11) (g : BitVec 4)
  /-- LDX (R102). -/
  | ldx (d : BitVec 5) (b : BitVec 5) (c : BitVec 5) (s : BitVec 2) (g : BitVec 4)
  /-- LDX_U (R102). -/
  | ldxU (d : BitVec 5) (b : BitVec 5) (c : BitVec 5) (s : BitVec 2) (g : BitVec 4)
  /-- STX (R102). -/
  | stx (d : BitVec 5) (b : BitVec 5) (c : BitVec 5) (s : BitVec 2) (g : BitVec 4)
  /-- LD_ORDERED (R245). -/
  | ldOrdered (d : BitVec 5) (b : BitVec 5) (o : BitVec 2) (s : BitVec 3) (z : BitVec 2) (g : BitVec 4)
  /-- LD_U_ORDERED (R245). -/
  | ldUOrdered (d : BitVec 5) (b : BitVec 5) (o : BitVec 2) (s : BitVec 3) (z : BitVec 2) (g : BitVec 4)
  /-- ST_ORDERED (R245). -/
  | stOrdered (d : BitVec 5) (b : BitVec 5) (o : BitVec 2) (s : BitVec 3) (z : BitVec 2) (g : BitVec 4)
  /-- AMADD (R105). -/
  | amadd (d : BitVec 5) (b : BitVec 5) (w : BitVec 1) (o : BitVec 2) (s : BitVec 3) (g : BitVec 4)
  /-- AMFADD (R106). -/
  | amfadd (d : BitVec 5) (b : BitVec 5) (o : BitVec 2) (s : BitVec 3) (g : BitVec 4)
  /-- AMMIN (R105). -/
  | ammin (d : BitVec 5) (b : BitVec 5) (w : BitVec 1) (o : BitVec 2) (s : BitVec 3) (g : BitVec 4)
  /-- AMMAX (R105). -/
  | ammax (d : BitVec 5) (b : BitVec 5) (w : BitVec 1) (o : BitVec 2) (s : BitVec 3) (g : BitVec 4)
  /-- AMAND (R105). -/
  | amand (d : BitVec 5) (b : BitVec 5) (w : BitVec 1) (o : BitVec 2) (s : BitVec 3) (g : BitVec 4)
  /-- AMOR (R105). -/
  | amor (d : BitVec 5) (b : BitVec 5) (w : BitVec 1) (o : BitVec 2) (s : BitVec 3) (g : BitVec 4)
  /-- AMXOR (R105). -/
  | amxor (d : BitVec 5) (b : BitVec 5) (w : BitVec 1) (o : BitVec 2) (s : BitVec 3) (g : BitVec 4)
  /-- AMXCHG (R105). -/
  | amxchg (d : BitVec 5) (b : BitVec 5) (w : BitVec 1) (o : BitVec 2) (s : BitVec 3) (g : BitVec 4)
  /-- AMCAS (R107). -/
  | amcas (d : BitVec 5) (b : BitVec 5) (w : BitVec 1) (o : BitVec 2) (s : BitVec 3) (g : BitVec 4)
  /-- LDV (R188). -/
  | ldv (d : BitVec 4) (b : BitVec 5) (c : BitVec 5) (g : BitVec 4)
  /-- STV (R188). -/
  | stv (d : BitVec 4) (b : BitVec 5) (c : BitVec 5) (g : BitVec 4)
  /-- LDVS (R249). -/
  | ldvs (d : BitVec 4) (b : BitVec 5) (c : BitVec 5) (g : BitVec 4)
  /-- STVS (R249). -/
  | stvs (d : BitVec 4) (b : BitVec 5) (c : BitVec 5) (g : BitVec 4)
  /-- LDVG (R249). -/
  | ldvg (d : BitVec 4) (b : BitVec 5) (c : BitVec 4) (g : BitVec 4)
  /-- STVG (R249). -/
  | stvg (d : BitVec 4) (b : BitVec 5) (c : BitVec 4) (g : BitVec 4)
  /-- IVLD (R113). -/
  | ivld (d : BitVec 4) (b : BitVec 5) (o : BitVec 11) (g : BitVec 4)
  /-- IVST (R113). -/
  | ivst (d : BitVec 4) (b : BitVec 5) (o : BitVec 11) (g : BitVec 4)
  /-- FENCE (R248). -/
  | fence (k : BitVec 2) (s : BitVec 3) (g : BitVec 4)
  /-- PREF (R255). -/
  | pref (h : BitVec 5) (b : BitVec 5) (g : BitVec 4)
  /-- VAPPEND (R253). -/
  | vappend (d : BitVec 5) (b : BitVec 5) (c : BitVec 3) (n : BitVec 1) (g : BitVec 4)
  /-- VAPPEND_M (R253). -/
  | vappendM (d : BitVec 5) (b : BitVec 5) (c : BitVec 3) (n : BitVec 1) (g : BitVec 4)
  /-- BASTE (R259). -/
  | baste (d : BitVec 5) (g : BitVec 4)
  /-- TACK (R260). -/
  | tack (d : BitVec 5) (b : BitVec 5) (g : BitVec 4)
  /-- UNPICK (R261). -/
  | unpick (d : BitVec 5) (b : BitVec 5) (g : BitVec 4)
  /-- BWIN (R263). -/
  | bwin (d : BitVec 5) (b : BitVec 5) (s : BitVec 11) (g : BitVec 4)
  /-- SPAWN (R158). -/
  | spawn (a : BitVec 5) (b : BitVec 5) (g : BitVec 4)
  /-- SPAWN_C (R158). -/
  | spawnC (a : BitVec 5) (b : BitVec 5) (c : BitVec 5) (g : BitVec 4)
  /-- FORK (R159). -/
  | fork (p : BitVec 3) (g : BitVec 4)
  /-- FORK_C (R159). -/
  | forkC (p : BitVec 3) (c : BitVec 5) (g : BitVec 4)
  /-- QUIT (R161). -/
  | quit (g : BitVec 4)
  /-- YIELD (R162). -/
  | yield (g : BitVec 4)
  /-- YIELD_H (R162). -/
  | yieldH (g : BitVec 4)
  /-- MEET (R163). -/
  | meet (b : BitVec 5) (m : BitVec 10) (g : BitVec 4)
  /-- MEET_T (R163). -/
  | meetT (a : BitVec 5) (b : BitVec 5) (m : BitVec 10) (g : BitVec 4)
  /-- MOVM (R160). -/
  | movm (p : BitVec 3) (b : BitVec 5) (g : BitVec 4)
  /-- BARA (R166). -/
  | bara (d : BitVec 5) (b : BitVec 5) (g : BitVec 4)
  /-- BARW (R167). -/
  | barw (a : BitVec 5) (b : BitVec 5) (g : BitVec 4)
  /-- BARG (R168). -/
  | barg (e : BitVec 8) (g : BitVec 4)
  /-- LAUNCH (R169). -/
  | launch (p : BitVec 3) (b : BitVec 5) (o : BitVec 11) (g : BitVec 4)
  /-- LAUNCHW (R170). -/
  | launchw (b : BitVec 5) (o : BitVec 11) (g : BitVec 4)
  /-- TASK_ARM (R172). -/
  | taskArm (a : BitVec 5) (g : BitVec 4)
  /-- TASK_DIS (R172). -/
  | taskDis (a : BitVec 5) (g : BitVec 4)
  /-- QPUSH (R295). -/
  | qpush (q : BitVec 3) (k : BitVec 4) (g : BitVec 4)
  /-- QPOP (R296). -/
  | qpop (q : BitVec 3) (k : BitVec 4) (g : BitVec 4)
  /-- QTRY (R297). -/
  | qtry (q : BitVec 3) (k : BitVec 4) (p : BitVec 3) (g : BitVec 4)
  /-- WAITC (R298). -/
  | waitc (l : BitVec 5) (s : BitVec 5) (c : BitVec 5) (t : BitVec 5) (g : BitVec 4)
  /-- BATCH (R299). -/
  | batch (d : BitVec 5) (g : BitVec 4)
  /-- WAITB (R300). -/
  | waitb (n : BitVec 5) (g : BitVec 4)
  /-- SBIND (R301). -/
  | sbind (s : BitVec 3) (z : BitVec 5) (g : BitVec 4)
  /-- SBIND_X (R301). -/
  | sbindX (s : BitVec 3) (g : BitVec 4)
  /-- MOVS (R302). -/
  | movs (d : BitVec 5) (s : BitVec 3) (g : BitVec 4)
  /-- VMOVS (R302). -/
  | vmovs (d : BitVec 4) (s : BitVec 3) (g : BitVec 4)
  /-- GNEXT (R303). -/
  | gnext (d : BitVec 5) (b : BitVec 5) (c : BitVec 5) (p : BitVec 3) (k : BitVec 3) (g : BitVec 4)
  /-- WAKEON (R304). -/
  | wakeon (a : BitVec 5) (p : BitVec 3) (g : BitVec 4)
  /-- WAKEON_X (R304). -/
  | wakeonX (p : BitVec 3) (g : BitVec 4)
  /-- CRPASS (R393). -/
  | crpass (d : BitVec 5) (b : BitVec 5) (g : BitVec 4)
  /-- CRTAKE (R393). -/
  | crtake (d : BitVec 5) (b : BitVec 5) (g : BitVec 4)
  /-- TRAP (R363). -/
  | trap (i : BitVec 11) (g : BitVec 4)
  /-- BRK (R363). -/
  | brk (i : BitVec 11) (g : BitVec 4)
  /-- RETT (R364). -/
  | rett (g : BitVec 4)
  /-- RDSR (R365). -/
  | rdsr (d : BitVec 5) (s : BitVec 11) (g : BitVec 4)
  /-- WRSR (R365). -/
  | wrsr (b : BitVec 5) (s : BitVec 11) (g : BitVec 4)
  /-- SWAPWP (R366). -/
  | swapwp (d : BitVec 5) (b : BitVec 5) (g : BitVec 4)
  /-- LIVE_P (R367). -/
  | liveP (o : BitVec 11) (g : BitVec 4)
  /-- LIVE_D (R367). -/
  | liveD (b : BitVec 5) (g : BitVec 4)
  /-- SLOTW (R370). -/
  | slotw (a : BitVec 5) (b : BitVec 5) (g : BitVec 4)
  /-- STINV (R373). -/
  | stinv (a : BitVec 5) (b : BitVec 5) (k : BitVec 6) (g : BitVec 4)
  /-- STINV_ALL (R373). -/
  | stinvAll (a : BitVec 5) (g : BitVec 4)
  /-- KILL (R374). -/
  | kill (d : BitVec 5) (b : BitVec 5) (g : BitVec 4)
  /-- KILL_T (R374). -/
  | killT (d : BitVec 5) (b : BitVec 5) (g : BitVec 4)
  /-- GANG (R375). -/
  | gang (d : BitVec 5) (b : BitVec 5) (g : BitVec 4)
  /-- MXRS (R376). -/
  | mxrs (d : BitVec 5) (b : BitVec 5) (g : BitVec 4)
  /-- MXRS_PAGE (R376). -/
  | mxrsPage (d : BitVec 5) (b : BitVec 5) (g : BitVec 4)
  /-- MXRS_POISON (R376). -/
  | mxrsPoison (d : BitVec 5) (b : BitVec 5) (g : BitVec 4)
  /-- RDTS (R371). -/
  | rdts (d : BitVec 5) (g : BitVec 4)
  /-- RDCTR (R372). -/
  | rdctr (d : BitVec 5) (n : BitVec 8) (g : BitVec 4)
  /-- RDCTR_LO (R372). -/
  | rdctrLo (d : BitVec 5) (n : BitVec 8) (g : BitVec 4)
  /-- RDCTR_HI (R372). -/
  | rdctrHi (d : BitVec 5) (n : BitVec 8) (g : BitVec 4)
  /-- BR_LONG (R95). -/
  | brLong (ext : W32) (g : BitVec 4)
  /-- CALL_LONG (R98). -/
  | callLong (ext : W32) (g : BitVec 4)
  /-- JMP (R96). -/
  | jmp (ext : W32) (g : BitVec 4)
  /-- LI (R81). -/
  | li (d : BitVec 5) (ext : W32) (g : BitVec 4)
  /-- LIH (R81). -/
  | lih (d : BitVec 5) (ext : W32) (g : BitVec 4)
  /-- ADDI_L (R82). -/
  | addiL (d : BitVec 5) (a : BitVec 5) (ext : W32) (g : BitVec 4)
  /-- CMPI_L (R84). -/
  | cmpiL (p : BitVec 3) (a : BitVec 5) (c : BitVec 4) (ext : W32) (g : BitVec 4)
  /-- LD_B_LONG (R101). -/
  | ldBLong (d : BitVec 5) (b : BitVec 5) (ext : W32) (g : BitVec 4)
  /-- LD_BU_LONG (R101). -/
  | ldBuLong (d : BitVec 5) (b : BitVec 5) (ext : W32) (g : BitVec 4)
  /-- LD_H_LONG (R101). -/
  | ldHLong (d : BitVec 5) (b : BitVec 5) (ext : W32) (g : BitVec 4)
  /-- LD_HU_LONG (R101). -/
  | ldHuLong (d : BitVec 5) (b : BitVec 5) (ext : W32) (g : BitVec 4)
  /-- LD_W_LONG (R101). -/
  | ldWLong (d : BitVec 5) (b : BitVec 5) (ext : W32) (g : BitVec 4)
  /-- LD_WU_LONG (R101). -/
  | ldWuLong (d : BitVec 5) (b : BitVec 5) (ext : W32) (g : BitVec 4)
  /-- LD_D_LONG (R101). -/
  | ldDLong (d : BitVec 5) (b : BitVec 5) (ext : W32) (g : BitVec 4)
  /-- ST_B_LONG (R101). -/
  | stBLong (d : BitVec 5) (b : BitVec 5) (ext : W32) (g : BitVec 4)
  /-- ST_H_LONG (R101). -/
  | stHLong (d : BitVec 5) (b : BitVec 5) (ext : W32) (g : BitVec 4)
  /-- ST_W_LONG (R101). -/
  | stWLong (d : BitVec 5) (b : BitVec 5) (ext : W32) (g : BitVec 4)
  /-- ST_D_LONG (R101). -/
  | stDLong (d : BitVec 5) (b : BitVec 5) (ext : W32) (g : BitVec 4)
  /-- LD_ORDERED_LONG (R245). -/
  | ldOrderedLong (d : BitVec 5) (b : BitVec 5) (o : BitVec 2) (s : BitVec 3) (z : BitVec 2) (ext : W32) (g : BitVec 4)
  /-- LD_U_ORDERED_LONG (R245). -/
  | ldUOrderedLong (d : BitVec 5) (b : BitVec 5) (o : BitVec 2) (s : BitVec 3) (z : BitVec 2) (ext : W32) (g : BitVec 4)
  /-- ST_ORDERED_LONG (R245). -/
  | stOrderedLong (d : BitVec 5) (b : BitVec 5) (o : BitVec 2) (s : BitVec 3) (z : BitVec 2) (ext : W32) (g : BitVec 4)
  /-- IVLD_LONG (R113). -/
  | ivldLong (d : BitVec 4) (b : BitVec 5) (ext : W32) (g : BitVec 4)
  /-- IVST_LONG (R113). -/
  | ivstLong (d : BitVec 4) (b : BitVec 5) (ext : W32) (g : BitVec 4)
  /-- MEET_LONG (R163). -/
  | meetLong (a : BitVec 5) (b : BitVec 5) (ext : W32) (g : BitVec 4)
  /-- LAUNCH_LONG (R169). -/
  | launchLong (p : BitVec 3) (b : BitVec 5) (ext : W32) (g : BitVec 4)
  /-- A_NOP (R52). -/
  | aNop (g : BitVec 4)
  /-- ADD (R74). -/
  | add (d : BitVec 5) (a : BitVec 5) (b : BitVec 5) (g : BitVec 4)
  /-- SUB (R74). -/
  | sub (d : BitVec 5) (a : BitVec 5) (b : BitVec 5) (g : BitVec 4)
  /-- MUL (R74). -/
  | mul (d : BitVec 5) (a : BitVec 5) (b : BitVec 5) (g : BitVec 4)
  /-- MULH (R74). -/
  | mulh (d : BitVec 5) (a : BitVec 5) (b : BitVec 5) (g : BitVec 4)
  /-- MULHU (R74). -/
  | mulhu (d : BitVec 5) (a : BitVec 5) (b : BitVec 5) (g : BitVec 4)
  /-- DIV (R75). -/
  | div (d : BitVec 5) (a : BitVec 5) (b : BitVec 5) (g : BitVec 4)
  /-- DIVU (R75). -/
  | divu (d : BitVec 5) (a : BitVec 5) (b : BitVec 5) (g : BitVec 4)
  /-- REM (R75). -/
  | rem (d : BitVec 5) (a : BitVec 5) (b : BitVec 5) (g : BitVec 4)
  /-- REMU (R75). -/
  | remu (d : BitVec 5) (a : BitVec 5) (b : BitVec 5) (g : BitVec 4)
  /-- AND (R76). -/
  | and (d : BitVec 5) (a : BitVec 5) (b : BitVec 5) (g : BitVec 4)
  /-- OR (R76). -/
  | or (d : BitVec 5) (a : BitVec 5) (b : BitVec 5) (g : BitVec 4)
  /-- XOR (R76). -/
  | xor (d : BitVec 5) (a : BitVec 5) (b : BitVec 5) (g : BitVec 4)
  /-- ANDN (R76). -/
  | andn (d : BitVec 5) (a : BitVec 5) (b : BitVec 5) (g : BitVec 4)
  /-- SHL (R77). -/
  | shl (d : BitVec 5) (a : BitVec 5) (b : BitVec 5) (g : BitVec 4)
  /-- SHR (R77). -/
  | shr (d : BitVec 5) (a : BitVec 5) (b : BitVec 5) (g : BitVec 4)
  /-- SAR (R77). -/
  | sar (d : BitVec 5) (a : BitVec 5) (b : BitVec 5) (g : BitVec 4)
  /-- MIN (R78). -/
  | min (d : BitVec 5) (a : BitVec 5) (b : BitVec 5) (g : BitVec 4)
  /-- MAX (R78). -/
  | max (d : BitVec 5) (a : BitVec 5) (b : BitVec 5) (g : BitVec 4)
  /-- MINU (R78). -/
  | minu (d : BitVec 5) (a : BitVec 5) (b : BitVec 5) (g : BitVec 4)
  /-- MAXU (R78). -/
  | maxu (d : BitVec 5) (a : BitVec 5) (b : BitVec 5) (g : BitVec 4)
  /-- CLZ (R79). -/
  | clz (d : BitVec 5) (a : BitVec 5) (g : BitVec 4)
  /-- POPC (R79). -/
  | popc (d : BitVec 5) (a : BitVec 5) (g : BitVec 4)
  /-- BREV (R79). -/
  | brev (d : BitVec 5) (a : BitVec 5) (g : BitVec 4)
  /-- EXTR (R79). -/
  | extr (d : BitVec 5) (a : BitVec 5) (b : BitVec 5) (g : BitVec 4)
  /-- EXTR_S (R79). -/
  | extrS (d : BitVec 5) (a : BitVec 5) (b : BitVec 5) (g : BitVec 4)
  /-- INS (R79). -/
  | ins (d : BitVec 5) (a : BitVec 5) (b : BitVec 5) (g : BitVec 4)
  /-- SEL (R79). -/
  | sel (d : BitVec 5) (a : BitVec 5) (b : BitVec 5) (n : BitVec 3) (g : BitVec 4)
  /-- RNDC (R86). -/
  | rndc (d : BitVec 5) (a : BitVec 5) (b : BitVec 5) (g : BitVec 4)
  /-- RNDC_U (R86). -/
  | rndcU (d : BitVec 5) (a : BitVec 5) (b : BitVec 5) (g : BitVec 4)
  /-- ADDI (R80). -/
  | addi (d : BitVec 5) (a : BitVec 5) (i : BitVec 12) (g : BitVec 4)
  /-- ANDI (R80). -/
  | andi (d : BitVec 5) (a : BitVec 5) (i : BitVec 12) (g : BitVec 4)
  /-- ORI (R80). -/
  | ori (d : BitVec 5) (a : BitVec 5) (i : BitVec 12) (g : BitVec 4)
  /-- XORI (R80). -/
  | xori (d : BitVec 5) (a : BitVec 5) (i : BitVec 12) (g : BitVec 4)
  /-- SHLI (R80). -/
  | shli (d : BitVec 5) (a : BitVec 5) (s : BitVec 6) (g : BitVec 4)
  /-- SHRI (R80). -/
  | shri (d : BitVec 5) (a : BitVec 5) (s : BitVec 6) (g : BitVec 4)
  /-- SARI (R80). -/
  | sari (d : BitVec 5) (a : BitVec 5) (s : BitVec 6) (g : BitVec 4)
  /-- CMP (R83). -/
  | cmp (p : BitVec 3) (a : BitVec 5) (b : BitVec 5) (c : BitVec 4) (g : BitVec 4)
  /-- CMPI (R84). -/
  | cmpi (c : BitVec 2) (p : BitVec 3) (a : BitVec 5) (i : BitVec 12) (g : BitVec 4)
  /-- CMPI_LE_GT_LTU_GEU (R84). -/
  | cmpiLeGtLtuGeu (c : BitVec 2) (p : BitVec 3) (a : BitVec 5) (i : BitVec 12) (g : BitVec 4)
  /-- PLOG (R85). -/
  | plog (d : BitVec 3) (a : BitVec 3) (b : BitVec 3) (t : BitVec 4) (g : BitVec 4)
  /-- FADD (R87). -/
  | fadd (d : BitVec 5) (a : BitVec 5) (b : BitVec 5) (g : BitVec 4)
  /-- FSUB (R87). -/
  | fsub (d : BitVec 5) (a : BitVec 5) (b : BitVec 5) (g : BitVec 4)
  /-- FMUL (R87). -/
  | fmul (d : BitVec 5) (a : BitVec 5) (b : BitVec 5) (g : BitVec 4)
  /-- FDIV (R87). -/
  | fdiv (d : BitVec 5) (a : BitVec 5) (b : BitVec 5) (g : BitVec 4)
  /-- FSQRT (R87). -/
  | fsqrt (d : BitVec 5) (a : BitVec 5) (g : BitVec 4)
  /-- FMIN (R89). -/
  | fmin (d : BitVec 5) (a : BitVec 5) (b : BitVec 5) (g : BitVec 4)
  /-- FMAX (R89). -/
  | fmax (d : BitVec 5) (a : BitVec 5) (b : BitVec 5) (g : BitVec 4)
  /-- FSGN_J (R90). -/
  | fsgnJ (d : BitVec 5) (a : BitVec 5) (b : BitVec 5) (g : BitVec 4)
  /-- FSGN_JN (R90). -/
  | fsgnJn (d : BitVec 5) (a : BitVec 5) (b : BitVec 5) (g : BitVec 4)
  /-- FSGN_JX (R90). -/
  | fsgnJx (d : BitVec 5) (a : BitVec 5) (b : BitVec 5) (g : BitVec 4)
  /-- FSGN_J_PRED (R90). -/
  | fsgnJPred (d : BitVec 5) (a : BitVec 5) (p : BitVec 3) (g : BitVec 4)
  /-- FSGN_JN_PRED (R90). -/
  | fsgnJnPred (d : BitVec 5) (a : BitVec 5) (p : BitVec 3) (g : BitVec 4)
  /-- FSGN_JX_PRED (R90). -/
  | fsgnJxPred (d : BitVec 5) (a : BitVec 5) (p : BitVec 3) (g : BitVec 4)
  /-- FFMA (R88). -/
  | ffma (d : BitVec 5) (a : BitVec 5) (b : BitVec 5) (c : BitVec 5) (g : BitVec 4)
  /-- FCMP (R91). -/
  | fcmp (p : BitVec 3) (a : BitVec 5) (b : BitVec 5) (c : BitVec 3) (g : BitVec 4)
  /-- FCLASS (R91). -/
  | fclass (d : BitVec 5) (a : BitVec 5) (g : BitVec 4)
  /-- FCVT (R92). -/
  | fcvt (d : BitVec 5) (a : BitVec 5) (t : BitVec 3) (s : BitVec 3) (g : BitVec 4)
  /-- FRND (R93). -/
  | frnd (d : BitVec 5) (a : BitVec 5) (m : BitVec 3) (g : BitVec 4)
  /-- IVMK (R111). -/
  | ivmk (d : BitVec 4) (a : BitVec 5) (b : BitVec 5) (g : BitVec 4)
  /-- IVMK_R (R111). -/
  | ivmkR (d : BitVec 4) (a : BitVec 5) (b : BitVec 5) (g : BitVec 4)
  /-- IVLO (R112). -/
  | ivlo (d : BitVec 5) (a : BitVec 4) (g : BitVec 4)
  /-- IVHI (R112). -/
  | ivhi (d : BitVec 5) (a : BitVec 4) (g : BitVec 4)
  /-- IWID (R112). -/
  | iwid (d : BitVec 5) (a : BitVec 4) (g : BitVec 4)
  /-- IMID (R112). -/
  | imid (d : BitVec 5) (a : BitVec 4) (g : BitVec 4)
  /-- IVLO_NS (R112). -/
  | ivloNs (d : BitVec 5) (g : BitVec 4)
  /-- IVLO_NSC (R112). -/
  | ivloNsc (d : BitVec 5) (g : BitVec 4)
  /-- IADD (R114). -/
  | iadd (d : BitVec 4) (a : BitVec 4) (b : BitVec 4) (g : BitVec 4)
  /-- ISUB (R114). -/
  | isub (d : BitVec 4) (a : BitVec 4) (b : BitVec 4) (g : BitVec 4)
  /-- IMUL (R114). -/
  | imul (d : BitVec 4) (a : BitVec 4) (b : BitVec 4) (g : BitVec 4)
  /-- IDIV (R115). -/
  | idiv (d : BitVec 4) (a : BitVec 4) (b : BitVec 4) (g : BitVec 4)
  /-- ISQ (R116). -/
  | isq (d : BitVec 4) (a : BitVec 4) (g : BitVec 4)
  /-- ISQRT (R116). -/
  | isqrt (d : BitVec 4) (a : BitVec 4) (g : BitVec 4)
  /-- IEXP2 (R116). -/
  | iexp2 (d : BitVec 4) (a : BitVec 4) (g : BitVec 4)
  /-- IMAX (R117). -/
  | imax (d : BitVec 4) (a : BitVec 4) (b : BitVec 4) (g : BitVec 4)
  /-- IMIN (R117). -/
  | imin (d : BitVec 4) (a : BitVec 4) (b : BitVec 4) (g : BitVec 4)
  /-- IHULL (R117). -/
  | ihull (d : BitVec 4) (a : BitVec 4) (b : BitVec 4) (g : BitVec 4)
  /-- IISECT (R117). -/
  | iisect (d : BitVec 4) (a : BitVec 4) (b : BitVec 4) (g : BitVec 4)
  /-- ICMP (R118). -/
  | icmp (k : BitVec 4) (a : BitVec 4) (b : BitVec 4) (c : BitVec 2) (g : BitVec 4)
  /-- ICONT (R119). -/
  | icont (k : BitVec 4) (a : BitVec 4) (b : BitVec 4) (g : BitVec 4)
  /-- IADDC (R120). -/
  | iaddc (z : BitVec 4) (x : BitVec 4) (y : BitVec 4) (n : BitVec 3) (g : BitVec 4)
  /-- IMULC (R120). -/
  | imulc (z : BitVec 4) (x : BitVec 4) (y : BitVec 4) (n : BitVec 3) (g : BitVec 4)
  /-- ISQC (R120). -/
  | isqc (z : BitVec 4) (x : BitVec 4) (n : BitVec 3) (g : BitVec 4)
  /-- IMAXC (R120). -/
  | imaxc (z : BitVec 4) (x : BitVec 4) (y : BitVec 4) (n : BitVec 3) (g : BitVec 4)
  /-- IEXP2C (R120). -/
  | iexp2c (z : BitVec 4) (x : BitVec 4) (n : BitVec 3) (g : BitVec 4)
  /-- VADD (R175). -/
  | vadd (d : BitVec 4) (a : BitVec 4) (b : BitVec 4) (t : BitVec 1) (g : BitVec 4)
  /-- VSUB (R175). -/
  | vsub (d : BitVec 4) (a : BitVec 4) (b : BitVec 4) (t : BitVec 1) (g : BitVec 4)
  /-- VMUL (R175). -/
  | vmul (d : BitVec 4) (a : BitVec 4) (b : BitVec 4) (t : BitVec 1) (g : BitVec 4)
  /-- VMIN (R175). -/
  | vmin (d : BitVec 4) (a : BitVec 4) (b : BitVec 4) (t : BitVec 1) (g : BitVec 4)
  /-- VMAX (R175). -/
  | vmax (d : BitVec 4) (a : BitVec 4) (b : BitVec 4) (t : BitVec 1) (g : BitVec 4)
  /-- VFMA (R176). -/
  | vfma (d : BitVec 4) (a : BitVec 4) (b : BitVec 4) (c : BitVec 4) (g : BitVec 4)
  /-- VFMA_LNS (R176). -/
  | vfmaLns (d : BitVec 4) (a : BitVec 4) (b : BitVec 4) (c : BitVec 4) (g : BitVec 4)
  /-- VAND (R177). -/
  | vand (d : BitVec 4) (a : BitVec 4) (b : BitVec 4) (g : BitVec 4)
  /-- VOR (R177). -/
  | vor (d : BitVec 4) (a : BitVec 4) (b : BitVec 4) (g : BitVec 4)
  /-- VXOR (R177). -/
  | vxor (d : BitVec 4) (a : BitVec 4) (b : BitVec 4) (g : BitVec 4)
  /-- VSHL (R177). -/
  | vshl (d : BitVec 4) (a : BitVec 4) (b : BitVec 4) (g : BitVec 4)
  /-- VSHR (R177). -/
  | vshr (d : BitVec 4) (a : BitVec 4) (b : BitVec 4) (g : BitVec 4)
  /-- VSHR_A (R177). -/
  | vshrA (d : BitVec 4) (a : BitVec 4) (b : BitVec 4) (g : BitVec 4)
  /-- VCMP (R178). -/
  | vcmp (d : BitVec 4) (a : BitVec 4) (b : BitVec 4) (t : BitVec 1) (c : BitVec 4) (g : BitVec 4)
  /-- VSEL (R179). -/
  | vsel (d : BitVec 4) (a : BitVec 4) (b : BitVec 4) (c : BitVec 4) (g : BitVec 4)
  /-- VCVT (R180). -/
  | vcvt (d : BitVec 4) (a : BitVec 4) (c : BitVec 4) (x : BitVec 3) (y : BitVec 3) (g : BitVec 4)
  /-- VEXP2 (R181). -/
  | vexp2 (d : BitVec 4) (a : BitVec 4) (g : BitVec 4)
  /-- VLOG2 (R182). -/
  | vlog2 (d : BitVec 4) (a : BitVec 4) (g : BitVec 4)
  /-- VRCP (R182). -/
  | vrcp (d : BitVec 4) (a : BitVec 4) (g : BitVec 4)
  /-- VRSQ (R182). -/
  | vrsq (d : BitVec 4) (a : BitVec 4) (g : BitVec 4)
  /-- VREDSUM (R183). -/
  | vredsum (d : BitVec 4) (a : BitVec 4) (t : BitVec 1) (g : BitVec 4)
  /-- VREDMAX (R183). -/
  | vredmax (d : BitVec 4) (a : BitVec 4) (t : BitVec 1) (g : BitVec 4)
  /-- VSCAN (R183). -/
  | vscan (d : BitVec 4) (a : BitVec 4) (t : BitVec 1) (g : BitVec 4)
  /-- VPERM (R184). -/
  | vperm (d : BitVec 4) (a : BitVec 4) (b : BitVec 4) (c : BitVec 4) (g : BitVec 4)
  /-- VIDX (R184). -/
  | vidx (d : BitVec 4) (g : BitVec 4)
  /-- VIDX_F (R184). -/
  | vidxF (d : BitVec 4) (g : BitVec 4)
  /-- VMOVX (R185). -/
  | vmovx (d : BitVec 5) (a : BitVec 4) (b : BitVec 5) (g : BitVec 4)
  /-- VINS (R185). -/
  | vins (d : BitVec 4) (a : BitVec 5) (b : BitVec 5) (g : BitVec 4)
  /-- VBCAST (R185). -/
  | vbcast (d : BitVec 4) (a : BitVec 5) (g : BitVec 4)
  /-- VSORTK (R186). -/
  | vsortk (d : BitVec 3) (a : BitVec 4) (r : BitVec 1) (k : BitVec 4) (g : BitVec 4)
  /-- VMASKBM (R187). -/
  | vmaskbm (d : BitVec 4) (a : BitVec 4) (g : BitVec 4)
  /-- VMASKBM_X (R187). -/
  | vmaskbmX (d : BitVec 4) (a : BitVec 4) (g : BitVec 4)
  /-- VIADD (R189). -/
  | viadd (d : BitVec 3) (a : BitVec 3) (b : BitVec 3) (g : BitVec 4)
  /-- VIMUL (R189). -/
  | vimul (d : BitVec 3) (a : BitVec 3) (b : BitVec 3) (g : BitVec 4)
  /-- VIFMA (R190). -/
  | vifma (d : BitVec 3) (a : BitVec 3) (b : BitVec 3) (c : BitVec 3) (g : BitVec 4)
  /-- VIMAX (R189). -/
  | vimax (d : BitVec 3) (a : BitVec 3) (b : BitVec 3) (g : BitVec 4)
  /-- VICMP (R191). -/
  | vicmp (d : BitVec 3) (a : BitVec 3) (b : BitVec 3) (c : BitVec 2) (g : BitVec 4)
  /-- VAPPEND_RESERVE (R253). -/
  | vappendReserve (id : Nat)
  /-- SLOT_TABLE_UPDATE (R370). -/
  | slotTableUpdate (core : Nat)
  /-- LOAD_DATA_LANDS (R71). -/
  | loadDataLands (id : Nat)
  /-- STORE_PERFORMED (R227). -/
  | storePerformed (id : Nat)
  /-- PAGE_WALK (R207). -/
  | pageWalk (tid : Nat) (va : W64) (kind : AccKind)
  /-- RO_BUFFER_FILL (R199). -/
  | roBufferFill (cluster : Nat) (pid : BitVec 16) (va : BitVec 57)
  /-- NBR_ACCESS (R198). -/
  | nbrAccess (id : Nat)
  /-- ACTIVE_MESSAGE (R139). -/
  | activeMessage (core : Nat) (tid : Nat)
  /-- SLOT_FILL (R128). -/
  | slotFill (core : Nat) (slot : Nat)
  /-- SPOOL_KEY_AGING (R140). -/
  | spoolKeyAging (tid : Nat)
  /-- LAUNCH_CHECK (R132). -/
  | launchCheck (h : Nat)
  /-- LAUNCH_COMPLETION (R144). -/
  | launchCompletion (h : Nat)
  /-- LAUNCHW_WAKE (R170). -/
  | launchwWake (part : Nat)
  /-- SEAM_ARRIVAL (R148). -/
  | seamArrival (tid : Nat)
  /-- SEAM_ROUND_CLOSE (R149). -/
  | seamRoundClose (pid : BitVec 16) (tbl : W64)
  /-- SEAM_DEADLINE_RELEASE (R150). -/
  | seamDeadlineRelease (pid : BitVec 16) (tbl : W64) (idx : Nat)
  /-- SLOT_WAIT_TIMEOUT (R167). -/
  | slotWaitTimeout (tid : Nat)
  /-- STINV_COMPLETION (R208). -/
  | stinvCompletion (id : Nat)
  /-- STATION_REVOKE_ACK (R210). -/
  | stationRevokeAck (station : Nat) (pid : BitVec 16)
  /-- MXU_TILE (R276). -/
  | mxuTile (core : Nat)
  /-- MXU_DRAIN (R278). -/
  | mxuDrain (core : Nat)
  /-- MXU_CTX (R273). -/
  | mxuCtx (core : Nat)
  /-- MXU_STEP (R274). -/
  | mxuStep (core : Nat)
  /-- MXU_ROW_DRAIN (R278). -/
  | mxuRowDrain (core : Nat)
  /-- COPY (R283). -/
  | copy (core : Nat)
  /-- COPY_PACKET (R282). -/
  | copyPacket (id : Nat) (dest : Nat)
  /-- LANDING_HANDLER_START (R288). -/
  | landingHandlerStart (core : Nat)
  /-- COPY_BARRIER_ARRIVAL (R285). -/
  | copyBarrierArrival (id : Nat) (core : Nat)
  /-- COPY_COMPLETION (R286). -/
  | copyCompletion (id : Nat)
  /-- COLSUM (R388). -/
  | colsum (core : Nat)
  /-- COLUMN_SUM_ADD (R386). -/
  | columnSumAdd (id : Nat) (row : Nat)
  /-- COLSUM_LANDING (R389). -/
  | colsumLanding (id : Nat)
  /-- OBJ (R322). -/
  | obj (core : Nat)
  /-- LOAD (R322). -/
  | load (core : Nat)
  /-- DETACH (R322). -/
  | detach (core : Nat)
  /-- ARM (R320). -/
  | arm (core : Nat)
  /-- CLEAR (R322). -/
  | clear (core : Nat)
  /-- SNAP (R322). -/
  | snap (core : Nat)
  /-- FREE (R322). -/
  | free (core : Nat)
  /-- MEASURE_EVENT (R316). -/
  | measureEvent (cluster : Nat) (tenant : BitVec 8) (words : List W32)
  /-- ROUTER_SAMPLE (R315). -/
  | routerSample (cluster : Nat)
  /-- FILTER_RUN (R317). -/
  | filterRun (cluster : Nat)
  /-- BUDGET_WINDOW (R317). -/
  | budgetWindow (cluster : Nat)
  /-- FAULT_NOTIFICATION (R333). -/
  | faultNotification (pid : BitVec 16) (x1 : W64) (x2 : W64) (x3 : W64) (x4 : W64)
  /-- CCGO_RESUME (R334). -/
  | ccgoResume (pid : BitVec 16) (rec : W64)
  /-- CCGO_TRAP (R334). -/
  | ccgoTrap (pid : BitVec 16) (rec : W64) (cause : BitVec 8)
  /-- CCGO_RETIRE (R334). -/
  | ccgoRetire (pid : BitVec 16) (rec : W64)
  /-- CCGO_STOP (R334). -/
  | ccgoStop (pid : BitVec 16) (rec : W64)
  /-- CCGO_CRESUME (R336). -/
  | ccgoCresume (pid : BitVec 16) (rec : W64) (seq : W32)
  /-- CCGO_CEND (R336). -/
  | ccgoCend (pid : BitVec 16) (rec : W64) (seq : W32) (cause : BitVec 8)
  /-- ASYNC (R336). -/
  | async (tid : Nat)
  /-- WORLD_SWITCH (R341). -/
  | worldSwitch (part : Nat)
  /-- PREEMPT_TURN_LIMIT (R342). -/
  | preemptTurnLimit (tid : Nat)
  /-- WORLD_RESTORE (R343). -/
  | worldRestore (part : Nat)
  /-- CLASS0_SWITCH (R345). -/
  | class0Switch (part : Nat)
  /-- RETURN_SWITCH (R345). -/
  | returnSwitch (part : Nat)
  /-- QUANTUM_SLICE_END (R349). -/
  | quantumSliceEnd (part : Nat)
  /-- KILL_COMPLETION (R351). -/
  | killCompletion (id : Nat)
  /-- DCMD_HALT (R352). -/
  | dcmdHalt (core : Nat) (pid : BitVec 16)
  /-- DCMD_STOP (R354). -/
  | dcmdStop (core : Nat) (slot : Nat) (pid : BitVec 16)
  /-- DCMD_STEP (R352). -/
  | dcmdStep (core : Nat) (slot : Nat) (pid : BitVec 16) (n : Nat)
  /-- DCMD_RSTEP (R355). -/
  | dcmdRstep (core : Nat) (slot : Nat) (pid : BitVec 16) (n : Nat)
  /-- DCMD_GO (R352). -/
  | dcmdGo (core : Nat) (slot : Nat) (pid : BitVec 16)
  /-- DCMD_DLOG_ON (R352). -/
  | dcmdDlogOn (core : Nat) (slot : Nat) (pid : BitVec 16)
  /-- DCMD_DLOG_OFF (R352). -/
  | dcmdDlogOff (core : Nat) (slot : Nat) (pid : BitVec 16)
  /-- DCMD_MARK (R355). -/
  | dcmdMark (core : Nat) (slot : Nat) (pid : BitVec 16)
  /-- DCMD_TRIM (R355). -/
  | dcmdTrim (core : Nat) (slot : Nat) (pid : BitVec 16)
  /-- CROWN_PASS_MESSAGE (R393): the core and ring. -/
  | crownPassMessage (core : Nat) (ring : Nat)
  /-- CRTAKE_RECHECK (R393). -/
  | crtakeRecheck (tid : Nat)
  /-- FLIT_CRC_ERROR (R399). -/
  | flitCrcError (die : Nat) (resends : Nat) (acc : Option Nat)
  /-- LINK_REPLAY (R399). -/
  | linkReplay (link : Link) (replays : Nat)
  /-- LINK_RETRAIN (R391). -/
  | linkRetrain (link : Link)
  /-- LINK_DOWN (R391). -/
  | linkDown (link : Link)
  /-- INBOUND_REQUEST (R404). -/
  | inboundRequest (rid : BitVec 16) (pasid : BitVec 16) (va : W64) (wr : Option (List Byte)) (len : Nat)
  /-- MSI (R404). -/
  | msi (vec : Nat) (data : W32)
  /-- SURPRISE_DOWN (R403). -/
  | surpriseDown (port : Nat)
  /-- RESET (R409). -/
  | reset
  /-- EXTI (R410). -/
  | exti (i : W64)
  /-- QGO (R410). -/
  | qgo
  /-- QUOTE_COMPLETE (R410). -/
  | quoteComplete
  /-- FVADV (R411). -/
  | fvadv (v : W64)
  /-- TADM (R396). -/
  | tadm (t : W64)
  /-- POWER_WINDOW (R415). -/
  | powerWindow (watts : Nat)
  /-- CURRENT_LIMIT (R415). -/
  | currentLimit
  /-- REGISTER_WRITE (R407). -/
  | registerWrite (addr : Nat) (bytes : List Byte) (level : Nat)
  /-- ARITHMETIC_CYCLE (R122). -/
  | arithmeticCycle (core : Nat)
  /-- ILLEG (R60). -/
  | illeg (bundle : W64)
  /-- LINK_RETRAINED (R391). -/
  | linkRetrained (link : Link)
  /-- AER_ERROR (R403). -/
  | aerError (port : Nat) (code : W64)
  deriving DecidableEq, Repr

end Sys2Proof
end

