-- ==== Sys2Proof/Machine/Event.lean ====
section
/-!
DEFINITION. The pending steps of the device: what an instruction or an engine has begun and some unit still has to do.
One constructor per row of spec/opcode_table.json that is no instruction word, with the operands that row has in
`Instr`; a Crown message also carries the router it comes from and whether a class-0 thread sent it, which decide its order (R383, R384).
State holds a list of them (its agenda), apart from `Instr` so that the agenda is small plain data.
-/
namespace Sys2Proof.Machine

/-- A step the device will take. -/
inductive Event where
  | vappendReserve (id : Nat)
  | slotTableUpdate (core : Nat)
  | loadDataLands (id : Nat)
  | storePerformed (id : Nat)
  | pageWalk (tid : Nat) (va : W64) (kind : AccKind)
  | roBufferFill (cluster : Nat) (pid : BitVec 16) (va : BitVec 57)
  | nbrAccess (id : Nat)
  | activeMessage (core : Nat) (tid : Nat)
  | slotFill (core : Nat) (slot : Nat)
  | spoolKeyAging (tid : Nat)
  | launchCheck (h : Nat)
  | launchCompletion (h : Nat)
  | launchwWake (part : Nat)
  | seamArrival (tid : Nat)
  | seamRoundClose (pid : BitVec 16) (tbl : W64)
  | seamDeadlineRelease (pid : BitVec 16) (tbl : W64) (idx : Nat)
  | slotWaitTimeout (tid : Nat)
  | stinvCompletion (id : Nat)
  | stationRevokeAck (station : Nat) (pid : BitVec 16)
  | mxuTile (core : Nat)
  | mxuDrain (core : Nat)
  | mxuCtx (core : Nat)
  | mxuStep (core : Nat)
  | mxuRowDrain (core : Nat)
  | copy (core : Nat)
  | copyPacket (id : Nat) (dest : Nat)
  | landingHandlerStart (core : Nat)
  | copyBarrierArrival (id : Nat) (core : Nat)
  | copyCompletion (id : Nat)
  | colsum (core : Nat)
  | columnSumAdd (id : Nat) (row : Nat)
  | colsumLanding (id : Nat)
  | obj (core : Nat)
  | load (core : Nat)
  | detach (core : Nat)
  | arm (core : Nat)
  | clear (core : Nat)
  | snap (core : Nat)
  | free (core : Nat)
  | measureEvent (cluster : Nat) (tenant : BitVec 8) (words : List W32)
  | routerSample (cluster : Nat)
  | filterRun (cluster : Nat)
  | budgetWindow (cluster : Nat)
  | faultNotification (pid : BitVec 16) (x1 : W64) (x2 : W64) (x3 : W64) (x4 : W64)
  | ccgoResume (pid : BitVec 16) (rec : W64)
  | ccgoTrap (pid : BitVec 16) (rec : W64) (cause : BitVec 8)
  | ccgoRetire (pid : BitVec 16) (rec : W64)
  | ccgoStop (pid : BitVec 16) (rec : W64)
  | ccgoCresume (pid : BitVec 16) (rec : W64) (seq : W32)
  | ccgoCend (pid : BitVec 16) (rec : W64) (seq : W32) (cause : BitVec 8)
  | async (tid : Nat)
  | worldSwitch (part : Nat)
  | preemptTurnLimit (tid : Nat)
  | worldRestore (part : Nat)
  | class0Switch (part : Nat)
  | returnSwitch (part : Nat)
  | quantumSliceEnd (part : Nat)
  | killCompletion (id : Nat)
  | dcmdHalt (core : Nat) (pid : BitVec 16)
  | dcmdStop (core : Nat) (slot : Nat) (pid : BitVec 16)
  | dcmdStep (core : Nat) (slot : Nat) (pid : BitVec 16) (n : Nat)
  | dcmdRstep (core : Nat) (slot : Nat) (pid : BitVec 16) (n : Nat)
  | dcmdGo (core : Nat) (slot : Nat) (pid : BitVec 16)
  | dcmdDlogOn (core : Nat) (slot : Nat) (pid : BitVec 16)
  | dcmdDlogOff (core : Nat) (slot : Nat) (pid : BitVec 16)
  | dcmdMark (core : Nat) (slot : Nat) (pid : BitVec 16)
  | dcmdTrim (core : Nat) (slot : Nat) (pid : BitVec 16)
  | crownPassMessage (core : Nat) (ring : Nat) (src : Nat) (class0 : Bool)
  | crtakeRecheck (tid : Nat)
  | flitCrcError (die : Nat) (resends : Nat) (acc : Option Nat)
  | linkReplay (link : Link) (replays : Nat)
  | linkRetrain (link : Link)
  | linkDown (link : Link)
  | inboundRequest (rid : BitVec 16) (pasid : BitVec 16) (va : W64) (wr : Option (List Byte)) (len : Nat)
  | msi (vec : Nat) (data : W32)
  | surpriseDown (port : Nat)
  | reset
  | exti (i : W64)
  | qgo
  | quoteComplete
  | fvadv (v : W64)
  | tadm (t : W64)
  | powerWindow (watts : Nat)
  | currentLimit
  | registerWrite (addr : Nat) (bytes : List Byte) (level : Nat)
  | arithmeticCycle (core : Nat)
  | illeg (bundle : W64)
  | linkRetrained (link : Link)
  | aerError (port : Nat) (code : W64)
  deriving DecidableEq, Repr

/-- The row of the opcode table that a pending step is. -/
noncomputable def eventInstr : Event → Instr
  | .vappendReserve id => .vappendReserve id
  | .slotTableUpdate core => .slotTableUpdate core
  | .loadDataLands id => .loadDataLands id
  | .storePerformed id => .storePerformed id
  | .pageWalk tid va kind => .pageWalk tid va kind
  | .roBufferFill cluster pid va => .roBufferFill cluster pid va
  | .nbrAccess id => .nbrAccess id
  | .activeMessage core tid => .activeMessage core tid
  | .slotFill core slot => .slotFill core slot
  | .spoolKeyAging tid => .spoolKeyAging tid
  | .launchCheck h => .launchCheck h
  | .launchCompletion h => .launchCompletion h
  | .launchwWake part => .launchwWake part
  | .seamArrival tid => .seamArrival tid
  | .seamRoundClose pid tbl => .seamRoundClose pid tbl
  | .seamDeadlineRelease pid tbl idx => .seamDeadlineRelease pid tbl idx
  | .slotWaitTimeout tid => .slotWaitTimeout tid
  | .stinvCompletion id => .stinvCompletion id
  | .stationRevokeAck station pid => .stationRevokeAck station pid
  | .mxuTile core => .mxuTile core
  | .mxuDrain core => .mxuDrain core
  | .mxuCtx core => .mxuCtx core
  | .mxuStep core => .mxuStep core
  | .mxuRowDrain core => .mxuRowDrain core
  | .copy core => .copy core
  | .copyPacket id dest => .copyPacket id dest
  | .landingHandlerStart core => .landingHandlerStart core
  | .copyBarrierArrival id core => .copyBarrierArrival id core
  | .copyCompletion id => .copyCompletion id
  | .colsum core => .colsum core
  | .columnSumAdd id row => .columnSumAdd id row
  | .colsumLanding id => .colsumLanding id
  | .obj core => .obj core
  | .load core => .load core
  | .detach core => .detach core
  | .arm core => .arm core
  | .clear core => .clear core
  | .snap core => .snap core
  | .free core => .free core
  | .measureEvent cluster tenant words => .measureEvent cluster tenant words
  | .routerSample cluster => .routerSample cluster
  | .filterRun cluster => .filterRun cluster
  | .budgetWindow cluster => .budgetWindow cluster
  | .faultNotification pid x1 x2 x3 x4 => .faultNotification pid x1 x2 x3 x4
  | .ccgoResume pid rec => .ccgoResume pid rec
  | .ccgoTrap pid rec cause => .ccgoTrap pid rec cause
  | .ccgoRetire pid rec => .ccgoRetire pid rec
  | .ccgoStop pid rec => .ccgoStop pid rec
  | .ccgoCresume pid rec seq => .ccgoCresume pid rec seq
  | .ccgoCend pid rec seq cause => .ccgoCend pid rec seq cause
  | .async tid => .async tid
  | .worldSwitch part => .worldSwitch part
  | .preemptTurnLimit tid => .preemptTurnLimit tid
  | .worldRestore part => .worldRestore part
  | .class0Switch part => .class0Switch part
  | .returnSwitch part => .returnSwitch part
  | .quantumSliceEnd part => .quantumSliceEnd part
  | .killCompletion id => .killCompletion id
  | .dcmdHalt core pid => .dcmdHalt core pid
  | .dcmdStop core slot pid => .dcmdStop core slot pid
  | .dcmdStep core slot pid n => .dcmdStep core slot pid n
  | .dcmdRstep core slot pid n => .dcmdRstep core slot pid n
  | .dcmdGo core slot pid => .dcmdGo core slot pid
  | .dcmdDlogOn core slot pid => .dcmdDlogOn core slot pid
  | .dcmdDlogOff core slot pid => .dcmdDlogOff core slot pid
  | .dcmdMark core slot pid => .dcmdMark core slot pid
  | .dcmdTrim core slot pid => .dcmdTrim core slot pid
  | .crownPassMessage core ring _ _ => .crownPassMessage core ring
  | .crtakeRecheck tid => .crtakeRecheck tid
  | .flitCrcError die resends acc => .flitCrcError die resends acc
  | .linkReplay link replays => .linkReplay link replays
  | .linkRetrain link => .linkRetrain link
  | .linkDown link => .linkDown link
  | .inboundRequest rid pasid va wr len => .inboundRequest rid pasid va wr len
  | .msi vec data => .msi vec data
  | .surpriseDown port => .surpriseDown port
  | .reset => .reset
  | .exti i => .exti i
  | .qgo => .qgo
  | .quoteComplete => .quoteComplete
  | .fvadv v => .fvadv v
  | .tadm t => .tadm t
  | .powerWindow watts => .powerWindow watts
  | .currentLimit => .currentLimit
  | .registerWrite addr bytes level => .registerWrite addr bytes level
  | .arithmeticCycle core => .arithmeticCycle core
  | .illeg bundle => .illeg bundle
  | .linkRetrained link => .linkRetrained link
  | .aerError port code => .aerError port code

end Sys2Proof.Machine
end

