-- ==== Sys2Proof/Machine/Bits.lean ====
section
/-!
DEFINITION. Bit fields, extensions and integer helpers of the pseudocode (R62, R63), and the counter hash (R86).
-/
namespace Sys2Proof.Machine

/-- The low `n` bits of `v`, sign-extended to 64 bits (SEXT of R63). -/
def sextN (v n : Nat) : W64 :=
  if n = 0 then 0
  else if v / 2 ^ (n - 1) % 2 = 1 then BitVec.ofNat 64 (v % 2 ^ n + (2 ^ 64 - 2 ^ n))
  else BitVec.ofNat 64 (v % 2 ^ n)

/-- The low `n` bits of `v`, zero-extended (ZEXT of R63). -/
def zextN (v n : Nat) : W64 := BitVec.ofNat 64 (v % 2 ^ n)

/-- A field of `len` bits at `lo`. -/
def bits (v lo len : Nat) : Nat := v / 2 ^ lo % 2 ^ len

/-- One bit. -/
def bitAt (v i : Nat) : Bool := v / 2 ^ i % 2 == 1

/-- `v` with the field of `len` bits at `lo` set to `f`. -/
def setBits (v lo len f : Nat) : Nat := v - bits v lo len * 2 ^ lo + f % 2 ^ len * 2 ^ lo

/-- A Boolean as a bit. -/
def b2n (b : Bool) : Nat := if b then 1 else 0

/-- A list of bits, the lowest first, as a number. -/
def bitsNat : List Bool → Nat
  | [] => 0
  | b :: rest => b2n b + 2 * bitsNat rest

/-- The largest `k ≤ n` with `2^k ≤ v`, or 0. -/
def log2Up : Nat → Nat → Nat
  | 0, _ => 0
  | k + 1, v => if 2 ^ (k + 1) ≤ v then k + 1 else log2Up k v

/-- Number of one bits among the low `n`. -/
def popcount : Nat → Nat → Nat
  | 0, _ => 0
  | n + 1, v => v % 2 + popcount n (v / 2)

/-- Number of zero bits above the top one bit, of `n` bits. -/
def leadingZeros : Nat → Nat → Nat
  | 0, _ => 0
  | n + 1, v => if v / 2 ^ n % 2 = 1 then 0 else 1 + leadingZeros n v

/-- The low `n` bits in the opposite order. -/
def reverseBits : Nat → Nat → Nat
  | 0, _ => 0
  | n + 1, v => v % 2 * 2 ^ n + reverseBits n (v / 2)

/-- Quotient truncated toward zero, saturating (R75). -/
def divS (a b : W64) : W64 :=
  if b = 0 then
    if a = 0 then 0 else if a.toInt < 0 then 0x8000000000000000 else 0x7FFFFFFFFFFFFFFF
  else if a = 0x8000000000000000 ∧ b = 0xFFFFFFFFFFFFFFFF then 0x7FFFFFFFFFFFFFFF
  else BitVec.ofInt 64 (Int.tdiv a.toInt b.toInt)

/-- Signed remainder (R75). -/
def remS (a b : W64) : W64 := if b = 0 then a else BitVec.ofInt 64 (Int.tmod a.toInt b.toInt)

/-- Unsigned quotient, saturating (R75). -/
def divU (a b : W64) : W64 :=
  if b = 0 then (if a = 0 then 0 else 0xFFFFFFFFFFFFFFFF) else BitVec.ofNat 64 (a.toNat / b.toNat)

/-- Unsigned remainder (R75). -/
def remU (a b : W64) : W64 := if b = 0 then a else BitVec.ofNat 64 (a.toNat % b.toNat)

/-- Integer conditions 0 to 9 (R58, the table before R83). -/
def icond (cc : Nat) (a b : W64) : Bool :=
  match cc with
  | 0 => a == b
  | 1 => a != b
  | 2 => decide (a.toInt < b.toInt)
  | 3 => decide (b.toInt ≤ a.toInt)
  | 4 => decide (a.toInt ≤ b.toInt)
  | 5 => decide (b.toInt < a.toInt)
  | 6 => decide (a.toNat < b.toNat)
  | 7 => decide (b.toNat ≤ a.toNat)
  | 8 => decide (a.toNat ≤ b.toNat)
  | 9 => decide (b.toNat < a.toNat)
  | _ => false

/-- The mixing function of the counter hash (R86), mod 2^32. -/
def mix (a : W32) : W32 :=
  let a1 := a ^^^ (a >>> 16)
  let a2 := a1 * 0x2B79C3A5
  let a3 := a2 ^^^ (a2 >>> 15)
  let a4 := a3 * 0x6E4D1F37
  a4 ^^^ (a4 >>> 15)

/-- The counter hash RNDC of a key and a counter (R86). -/
def rndc (key ctr : W64) : W32 :=
  let k0 : W32 := key.setWidth 32
  let k1 : W32 := (key >>> 32).setWidth 32
  let c0 : W32 := ctr.setWidth 32
  let c1 : W32 := (ctr >>> 32).setWidth 32
  mix (mix (c0 ^^^ k0) ^^^ c1 ^^^ k1)

/-- EXTR (R79). -/
def extract (a d : W64) : Nat :=
  let pos := bits d.toNat 0 6
  let len := if bits d.toNat 8 6 = 0 then 64 else bits d.toNat 8 6
  bits a.toNat pos len

/-- EXTR.S (R79): the sign is the field's top existing bit. -/
def extractS (a d : W64) : W64 :=
  let pos := bits d.toNat 0 6
  let len := if bits d.toNat 8 6 = 0 then 64 else bits d.toNat 8 6
  sextN (extract a d) (Nat.min len (64 - pos))

/-- INS (R79): `old` with the field replaced by the low bits of `a`. -/
def insertField (old a d : W64) : W64 :=
  let pos := bits d.toNat 0 6
  let len := if bits d.toNat 8 6 = 0 then 64 else bits d.toNat 8 6
  let m : W64 := BitVec.ofNat 64 ((2 ^ len - 1) * 2 ^ pos)
  (old &&& ~~~m) ||| ((a <<< pos) &&& m)

/-- Remove the first element that satisfies `p`. -/
def eraseFirst {α : Type} (p : α → Bool) : List α → List α
  | [] => []
  | x :: rest => if p x then rest else x :: eraseFirst p rest

/-- The numbers `lo, lo + 1, …` (`n` of them). -/
def upFrom : Nat → Nat → List Nat
  | _, 0 => []
  | lo, n + 1 => lo :: upFrom (lo + 1) n

/-- The `n` numbers `0 … n - 1`. -/
def upTo (n : Nat) : List Nat := upFrom 0 n

end Sys2Proof.Machine
end

