-- ==== Sys2Proof/Machine/Float.lean ====
section
/-!
DEFINITION. The number formats and their rounding (02_number_formats.md, R24 to R45). A finite value is an exact
dyadic number; a real that is no dyadic number (a quotient, a root, a power of two) is a magnitude with many bits
and a mark that something is left below them. Bit patterns are natural numbers here.
-/
namespace Sys2Proof.Machine

/-- The rounding modes (R9, R25). -/
inductive Rm where
  | rne | rtz | rup | rdn | rna
  deriving DecidableEq, Repr

/-- The mode a code of FMODE.RM selects; 5 to 7 are reserved (R9). -/
def rmOf (n : Nat) : Option Rm :=
  match n with
  | 0 => some .rne
  | 1 => some .rtz
  | 2 => some .rup
  | 3 => some .rdn
  | 4 => some .rna
  | _ => none

/-- IEEE flags in the bit order of FFLAGS: NV 4, DZ 3, OF 2, UF 1, NX 0 (R9). -/
abbrev Flags := BitVec 5

/-- NV. -/
def fNV : Flags := 0x10
/-- DZ. -/
def fDZ : Flags := 0x08
/-- OF. -/
def fOF : Flags := 0x04
/-- UF. -/
def fUF : Flags := 0x02
/-- NX. -/
def fNX : Flags := 0x01

/-- Flags, or none. -/
def flagIf (c : Bool) (f : Flags) : Flags := if c then f else 0

/-- A value of a floating format: a NaN (signalling or not), an infinity, or `(-1)^neg * m * 2^e`. -/
inductive Fv where
  | nan (signalling : Bool)
  | inf (neg : Bool)
  | fin (neg : Bool) (m : Nat) (e : Int)
  deriving DecidableEq, Repr

/-- A binary format: exponent bits, fraction bits, bias (R24). -/
structure Fmt where
  eb : Nat
  fb : Nat
  bias : Int
  deriving DecidableEq, Repr

/-- FP32. -/
def fp32 : Fmt := { eb := 8, fb := 23, bias := 127 }
/-- FP16. -/
def fp16 : Fmt := { eb := 5, fb := 10, bias := 15 }
/-- BF16. -/
def bf16 : Fmt := { eb := 8, fb := 7, bias := 127 }
/-- FP8 E4M3 (R29). -/
def e4m3 : Fmt := { eb := 4, fb := 3, bias := 7 }
/-- FP8 E5M2 (R30). -/
def e5m2 : Fmt := { eb := 5, fb := 2, bias := 15 }

/-- The exponent of the format's smallest step. -/
def Fmt.qmin (f : Fmt) : Int := 1 - f.bias - f.fb

/-- The code of infinity in an IEEE-like format. -/
def Fmt.infCode (f : Fmt) : Nat := (2 ^ f.eb - 1) * 2 ^ f.fb

/-- The finite value of exponent and fraction fields. -/
def Fmt.finite (f : Fmt) (neg : Bool) (ef fr : Nat) : Fv :=
  if ef = 0 then .fin neg fr f.qmin else .fin neg (fr + 2 ^ f.fb) (f.qmin + ef - 1)

/-- The value of a bit pattern of an IEEE-like format. -/
def Fmt.value (f : Fmt) (v : Nat) : Fv :=
  let neg := bitAt v (f.eb + f.fb)
  let ef := bits v f.fb f.eb
  let fr := bits v 0 f.fb
  if ef = 2 ^ f.eb - 1 then (if fr = 0 then .inf neg else .nan (!bitAt fr (f.fb - 1))) else f.finite neg ef fr

/-- The value of an E4M3 code (R29). -/
def e4m3Value (v : Nat) : Fv :=
  if bits v 0 7 = 0x7F then .nan false else e4m3.finite (bitAt v 7) (bits v 3 4) (bits v 0 3)

/-- The value of an FP32 pattern (FP of R63). -/
def fpv (v : Nat) : Fv := fp32.value v

/-- Is a value a NaN. -/
def Fv.isNan : Fv → Bool
  | .nan _ => true
  | _ => false

/-- Is a value a signalling NaN. -/
def Fv.isSnan : Fv → Bool
  | .nan s => s
  | _ => false

/-- The opposite value. -/
def Fv.negate : Fv → Fv
  | .nan s => .nan s
  | .inf n => .inf !n
  | .fin n m e => .fin (!n) m e

/-- The exponent of the top bit of `m * 2^e`. -/
def magExp (m : Nat) (e : Int) : Int := (Nat.log2 m : Int) + e

/-- The whole steps of `2^q` in `m * 2^e`, and where the rest lies: 0 nothing, 1 below half, 2 half, 3 above half. `st`
says that a little, less than one unit of `2^e`, is left over; then `e` must lie below `q`. -/
def quantize (m : Nat) (e q : Int) (st : Bool) : Nat × Nat :=
  if q ≤ e then (m * 2 ^ (e - q).toNat, b2n st)
  else
    let d := (q - e).toNat
    let k := m / 2 ^ d
    let r := m % 2 ^ d
    let h := 2 ^ (d - 1)
    (k, if r = 0 then b2n st else if r < h then 1 else if r = h then (if st then 3 else 2) else 3)

/-- Does the mode round the magnitude `k` and its rest up (R25). -/
def roundsUp (rm : Rm) (neg : Bool) (k pos : Nat) : Bool :=
  match rm with
  | .rne => pos == 3 || (pos == 2 && k % 2 == 1)
  | .rtz => false
  | .rup => !neg && pos != 0
  | .rdn => neg && pos != 0
  | .rna => decide (2 ≤ pos)

/-- Rounded magnitude. -/
def roundMag (rm : Rm) (neg : Bool) (kp : Nat × Nat) : Nat := kp.1 + b2n (roundsUp rm neg kp.1 kp.2)

/-- The result of rounding a magnitude to a format whose exponent has no upper limit: the code, and whether it is
inexact and tiny (R26: tiny after rounding with an unbounded exponent). -/
structure Rounded where
  code : Nat
  inexact : Bool
  tiny : Bool
  deriving DecidableEq, Repr

/-- The code of `k` steps of `2^q` in a format; a carry out of the fraction runs into the exponent field. -/
def Fmt.code (f : Fmt) (k : Nat) (q : Int) : Nat := (q - f.qmin).toNat * 2 ^ f.fb + k

/-- Round a magnitude to the format (R25, R26). -/
def Fmt.round (f : Fmt) (rm : Rm) (neg : Bool) (m : Nat) (e : Int) (st : Bool) : Rounded :=
  if m = 0 then { code := 0, inexact := false, tiny := false }
  else
    let top := magExp m e
    let qn := top - f.fb
    let q := max qn f.qmin
    let kp := quantize m e q st
    let carried := roundMag rm neg (quantize m e qn st) == 2 ^ (f.fb + 1)
    { code := f.code (roundMag rm neg kp) q
      inexact := kp.2 != 0
      tiny := decide (top < 1 - f.bias) && !(decide (top = - f.bias) && carried) }

/-- Does IEEE 754 give infinity (and not the largest finite value) on overflow. -/
def overflowsToInf (rm : Rm) (neg : Bool) : Bool :=
  match rm with
  | .rne => true
  | .rna => true
  | .rtz => false
  | .rup => !neg
  | .rdn => neg

/-- The sign bit of a format. -/
def Fmt.sign (f : Fmt) (neg : Bool) : Nat := b2n neg * 2 ^ (f.eb + f.fb)

/-- Round a finite magnitude into an IEEE-like format, with its flags (R26, R28). -/
def Fmt.finish (f : Fmt) (rm : Rm) (neg : Bool) (m : Nat) (e : Int) (st : Bool) : Nat × Flags :=
  let r := f.round rm neg m e st
  if f.infCode ≤ r.code then
    (f.sign neg + (if overflowsToInf rm neg then f.infCode else f.infCode - 1), fOF ||| fNX)
  else (f.sign neg + r.code, flagIf r.inexact fNX ||| flagIf (r.inexact && r.tiny) fUF)

/-- The default NaN of a format (R26). -/
def Fmt.defaultNan (f : Fmt) : Nat := f.infCode + 2 ^ (f.fb - 1)

/-- The default NaN of FP32. -/
def nan32 : Nat := 0x7FC00000

/-- FP32 infinity of a sign. -/
def inf32 (neg : Bool) : Nat := if neg then 0xFF800000 else 0x7F800000

/-- Round `m * 2^e` (and a rest) to FP32: RND32 of R63. -/
def rnd32 (rm : Rm) (neg : Bool) (m : Nat) (e : Int) (st : Bool) : Nat × Flags := fp32.finish rm neg m e st

/-- The sign of an exact zero sum of opposite signs (R87). -/
def zeroSum (rm : Rm) : Bool := rm == .rdn

/-- `(-1)^neg * m` as an integer. -/
def signed (neg : Bool) (m : Nat) : Int := if neg then - (m : Int) else m

/-- Exact sum of two finite values, at the lower exponent. -/
def addFin (n1 : Bool) (m1 : Nat) (e1 : Int) (n2 : Bool) (m2 : Nat) (e2 : Int) : Int × Int :=
  let e := min e1 e2
  (signed n1 (m1 * 2 ^ (e1 - e).toNat) + signed n2 (m2 * 2 ^ (e2 - e).toNat), e)

/-- Sum of two values, rounded once (R87). -/
def addV (rm : Rm) (a b : Fv) : Nat × Flags :=
  match a, b with
  | .nan s, y => (nan32, flagIf (s || y.isSnan) fNV)
  | _, .nan s => (nan32, flagIf s fNV)
  | .inf n1, .inf n2 => if n1 = n2 then (inf32 n1, 0) else (nan32, fNV)
  | .inf n, _ => (inf32 n, 0)
  | _, .inf n => (inf32 n, 0)
  | .fin n1 m1 e1, .fin n2 m2 e2 =>
    let (i, e) := addFin n1 m1 e1 n2 m2 e2
    if i = 0 then
      if m1 = 0 ∧ m2 = 0 ∧ n1 = n2 then (b2n n1 * 2 ^ 31, 0) else (b2n (zeroSum rm) * 2 ^ 31, 0)
    else rnd32 rm (decide (i < 0)) i.natAbs e false

/-- Product of two values, not rounded; a NaN of `0 * ∞` is told by `none`. -/
def mulV (a b : Fv) : Option Fv :=
  match a, b with
  | .nan s, y => some (.nan (s || y.isSnan))
  | _, .nan s => some (.nan s)
  | .inf n1, .inf n2 => some (.inf (n1 != n2))
  | .inf n1, .fin n2 m _ => if m = 0 then none else some (.inf (n1 != n2))
  | .fin n1 m _, .inf n2 => if m = 0 then none else some (.inf (n1 != n2))
  | .fin n1 m1 e1, .fin n2 m2 e2 => some (.fin (n1 != n2) (m1 * m2) (e1 + e2))

/-- A value rounded to FP32. -/
def roundV (rm : Rm) (v : Fv) : Nat × Flags :=
  match v with
  | .nan s => (nan32, flagIf s fNV)
  | .inf n => (inf32 n, 0)
  | .fin n m e => if m = 0 then (b2n n * 2 ^ 31, 0) else rnd32 rm n m e false

/-- FADD on bit patterns (R87). -/
def fadd32 (rm : Rm) (a b : Nat) : Nat × Flags := addV rm (fpv a) (fpv b)

/-- FSUB (R87). -/
def fsub32 (rm : Rm) (a b : Nat) : Nat × Flags := addV rm (fpv a) (fpv b).negate

/-- FMUL (R87). -/
def fmul32 (rm : Rm) (a b : Nat) : Nat × Flags :=
  match mulV (fpv a) (fpv b) with
  | none => (nan32, fNV)
  | some v => roundV rm v

/-- FFMA: product and sum exact, rounded once (R88). -/
def ffma32 (rm : Rm) (a b c : Nat) : Nat × Flags :=
  match mulV (fpv a) (fpv b) with
  | none => (nan32, fNV)
  | some p => addV rm p (fpv c)

/-- Quotient of two finite magnitudes with 80 bits or more, and its rest. -/
def divMag (m1 : Nat) (e1 : Int) (m2 : Nat) (e2 : Int) : Nat × Int × Bool :=
  let s := 80 + Nat.log2 m2
  let n := m1 * 2 ^ s
  (n / m2, e1 - e2 - s, n % m2 != 0)

/-- Quotient of two values (R87). -/
def divV (rm : Rm) (a b : Fv) : Nat × Flags :=
  match a, b with
  | .nan s, y => (nan32, flagIf (s || y.isSnan) fNV)
  | _, .nan s => (nan32, flagIf s fNV)
  | .inf _, .inf _ => (nan32, fNV)
  | .inf n1, .fin n2 _ _ => (inf32 (n1 != n2), 0)
  | .fin n1 _ _, .inf n2 => (b2n (n1 != n2) * 2 ^ 31, 0)
  | .fin n1 m1 e1, .fin n2 m2 e2 =>
    if m2 = 0 then (if m1 = 0 then (nan32, fNV) else (inf32 (n1 != n2), fDZ))
    else if m1 = 0 then (b2n (n1 != n2) * 2 ^ 31, 0)
    else
      let (k, e, st) := divMag m1 e1 m2 e2
      rnd32 rm (n1 != n2) k e st

/-- FDIV (R87). -/
def fdiv32 (rm : Rm) (a b : Nat) : Nat × Flags := divV rm (fpv a) (fpv b)

/-- Bits `k - 1` down to 0 of the integer square root of `n`, above the bits found so far. -/
def isqrtFrom : Nat → Nat → Nat → Nat
  | 0, _, r => r
  | k + 1, n, r => if (r + 2 ^ k) * (r + 2 ^ k) ≤ n then isqrtFrom k n (r + 2 ^ k) else isqrtFrom k n r

/-- The integer square root. -/
def isqrt (n : Nat) : Nat := isqrtFrom (Nat.log2 n / 2 + 1) n 0

/-- Square root of `m * 2^e` with `w` bits or more, and its rest. -/
def sqrtMag (w m : Nat) (e : Int) : Nat × Int × Bool :=
  let s := 2 * w + (e % 2).toNat
  let n := m * 2 ^ s
  let r := isqrt n
  (r, (e - s) / 2, r * r != n)

/-- Square root of a value (R87). -/
def sqrtV (rm : Rm) (a : Fv) : Nat × Flags :=
  match a with
  | .nan s => (nan32, flagIf s fNV)
  | .inf n => if n then (nan32, fNV) else (inf32 false, 0)
  | .fin n m e =>
    if m = 0 then (b2n n * 2 ^ 31, 0)
    else if n then (nan32, fNV)
    else
      let (k, q, st) := sqrtMag 40 m e
      rnd32 rm false k q st

/-- FSQRT (R87). -/
def fsqrt32 (rm : Rm) (a : Nat) : Nat × Flags := sqrtV rm (fpv a)

/-- The order of two values that are no NaN, −0 equal to +0. -/
def cmpV (a b : Fv) : Ordering :=
  match a, b with
  | .inf n1, .inf n2 => if n1 = n2 then .eq else if n1 then .lt else .gt
  | .inf n, _ => if n then .lt else .gt
  | _, .inf n => if n then .gt else .lt
  | .fin n1 m1 e1, .fin n2 m2 e2 =>
    let (i, _) := addFin n1 m1 e1 (!n2) m2 e2
    if i = 0 then .eq else if i < 0 then .lt else .gt
  | _, _ => .eq

/-- Ordered and less. -/
def ltV (a b : Fv) : Bool := !a.isNan && !b.isNan && cmpV a b == .lt

/-- Ordered and equal. -/
def eqV (a b : Fv) : Bool := !a.isNan && !b.isNan && cmpV a b == .eq

/-- Ordered and less or equal. -/
def leV (a b : Fv) : Bool := ltV a b || eqV a b

/-- The minimum (`least`) or maximum of two FP32 patterns as R89 gives it: −0 counts as less than +0. -/
def fminmax (least : Bool) (a b : Nat) : Nat × Flags :=
  let x := fpv a
  let y := fpv b
  let f := flagIf (x.isSnan || y.isSnan) fNV
  if x.isNan && y.isNan then (nan32, f)
  else if x.isNan then (b, f)
  else if y.isNan then (a, f)
  else
    let aLess := ltV x y || (eqV x y && bitAt a 31 && !bitAt b 31)
    (if aLess == least then a else b, f)

/-- FCMP conditions eq, ne, lt, le, un and the NV each raises (R91). -/
def fcmp32 (cc a b : Nat) : Bool × Flags :=
  let x := fpv a
  let y := fpv b
  let anyNan := x.isNan || y.isNan
  let anySnan := x.isSnan || y.isSnan
  match cc with
  | 0 => (eqV x y, flagIf anySnan fNV)
  | 1 => (!eqV x y, flagIf anySnan fNV)
  | 2 => (ltV x y, flagIf anyNan fNV)
  | 3 => (leV x y, flagIf anyNan fNV)
  | _ => (anyNan, flagIf anySnan fNV)

/-- Round a finite magnitude to an integer; the rest is told as `quantize` tells it. -/
def roundInt (rm : Rm) (neg : Bool) (m : Nat) (e : Int) : Nat × Bool :=
  let kp := quantize m e 0 false
  (roundMag rm neg kp, kp.2 != 0)

/-- FRND (R93). -/
def frnd32 (rm : Rm) (a : Nat) : Nat × Flags :=
  match fpv a with
  | .nan s => (nan32, flagIf s fNV)
  | .inf n => (inf32 n, 0)
  | .fin n m e =>
    let (k, ix) := roundInt rm n m e
    (b2n n * 2 ^ 31 + (fp32.round .rtz n k 0 false).code, flagIf ix fNX)

/-- FCLASS (R91). -/
def fclass32 (a : Nat) : Nat :=
  let ef := bits a 23 8
  let fr := bits a 0 23
  let kind :=
    if ef = 255 then (if fr = 0 then 3 else if bitAt fr 22 then 4 else 5)
    else if ef = 0 then (if fr = 0 then 0 else 1) else 2
  let pow2 := (kind == 2 && fr == 0) || (kind == 1 && popcount 23 fr == 1)
  let intg := match fpv a with
    | .fin _ m e => (quantize m e 0 false).2 == 0
    | _ => false
  kind + b2n (bitAt a 31) * 8 + ef * 16 + b2n intg * 4096 + b2n pow2 * 8192

/-- Is an FP32 pattern a non-zero subnormal (R27). -/
def subnormal32 (a : Nat) : Bool := bits a 23 8 == 0 && bits a 0 23 != 0

/-- How a conversion rounds: RM, stochastic or not, saturating FP8 or not (R9), and the 24-bit draw (R34). -/
structure CvtMode where
  rm : Rm
  srnd : Bool
  sat8 : Bool
  draw : Nat
  deriving DecidableEq, Repr

/-- Stochastic rounding of a magnitude to whole steps of `2^q`: up when the draw lies below the rest (R34). -/
def stochMag (draw m : Nat) (e q : Int) : Nat × Bool :=
  if q ≤ e then (m * 2 ^ (e - q).toNat, false)
  else
    let d := (q - e).toNat
    let k := m / 2 ^ d
    let r := m % 2 ^ d
    (k + b2n (decide (draw * 2 ^ d < r * 2 ^ 24)), r != 0)

/-- Round a magnitude to the format under a conversion mode; tiny is decided on the delivered result where the
rounding is stochastic (R26). `always` is set where the rounding is stochastic whatever SRND holds (R32). -/
def Fmt.cvt (f : Fmt) (md : CvtMode) (always neg : Bool) (m : Nat) (e : Int) : Rounded :=
  if m = 0 then { code := 0, inexact := false, tiny := false }
  else if md.srnd || always then
    let q := max (magExp m e - f.fb) f.qmin
    let (k, ix) := stochMag md.draw m e q
    { code := f.code k q, inexact := ix, tiny := decide (f.code k q < 2 ^ f.fb) }
  else f.round md.rm neg m e false

/-- Conversion to FP16 or BF16 (R28, R33). The positions above the largest finite value stand in a stochastic rounding as if
the exponent had no upper limit (log entry 10, DEDUCED). -/
def toHalf (f : Fmt) (md : CvtMode) (v : Fv) : Nat × Flags :=
  match v with
  | .nan s => (f.defaultNan, flagIf s fNV)
  | .inf n => (f.sign n + f.infCode, 0)
  | .fin n m e =>
    let r := f.cvt md false n m e
    if f.infCode ≤ r.code then
      (f.sign n + (if md.srnd || overflowsToInf md.rm n then f.infCode else f.infCode - 1), fOF ||| fNX)
    else (f.sign n + r.code, flagIf r.inexact fNX ||| flagIf (r.inexact && r.tiny) fUF)

/-- The largest finite code of an FP8 format. -/
def fp8Max (isE4 : Bool) : Nat := if isE4 then 0x7E else 0x7B

/-- Conversion to FP8 (R31 to R33). -/
def toFp8 (isE4 : Bool) (md : CvtMode) (v : Fv) : Nat × Flags :=
  let f := if isE4 then e4m3 else e5m2
  let infOrNan := if isE4 then 0x7F else 0x7C
  match v with
  | .nan s => (if isE4 then 0x7F else 0x7E, flagIf s fNV)
  | .inf n =>
    if md.sat8 then (f.sign n + fp8Max isE4, 0)
    else if isE4 then (0x7F, fNV) else (f.sign n + 0x7C, 0)
  | .fin n m e =>
    let below := m != 0 && decide (magExp m e < f.qmin)
    let r := f.cvt md below n m e
    if below then (f.sign n + r.code, fUF ||| fNX)
    else if fp8Max isE4 < r.code then
      if md.sat8 then (f.sign n + fp8Max isE4, fOF ||| fNX)
      else if md.srnd || overflowsToInf md.rm n then
        ((if isE4 then 0x7F else f.sign n + infOrNan), fOF ||| fNX)
      else (f.sign n + fp8Max isE4, fOF ||| fNX)
    else (f.sign n + r.code, flagIf r.inexact fNX ||| flagIf (r.inexact && r.tiny) fUF)

/-- The LNS6 table TBL as 24-bit significands (R40). -/
def lnsTbl (j : Nat) : Nat :=
  match j % 4 with
  | 0 => 0x800000
  | 1 => 0x9837F0
  | 2 => 0xB504F3
  | _ => 0xD744FD

/-- L of an LNS6 code, in quarters. -/
def lnsL (c : Nat) : Int := if bitAt c 4 then (bits c 0 5 : Int) - 32 else bits c 0 5

/-- Value of an LNS6 code (R40, R42). -/
def lnsValue (c : Nat) : Fv :=
  if bits c 0 5 = 0x10 then .fin (bitAt c 5) 0 0
  else .fin (bitAt c 5) (lnsTbl ((lnsL c) % 4).toNat) (lnsL c / 4 - 23)

/-- FP32 pattern of the power `(-1)^neg * 2^(l/4)` by the table (R40), `l` in quarters. -/
def lnsPow (neg : Bool) (l : Int) : Nat :=
  b2n neg * 2 ^ 31 + ((l / 4) + 127).toNat * 2 ^ 23 + (lnsTbl (l % 4).toNat - 2 ^ 23)

/-- Product of two LNS6 codes as an FP32 pattern (R40). -/
def lnsMul (a b : Nat) : Nat :=
  let neg := bitAt a 5 != bitAt b 5
  if bits a 0 5 = 0x10 ∨ bits b 0 5 = 0x10 then b2n neg * 2 ^ 31 else lnsPow neg (lnsL a + lnsL b)

/-- The quarter of a significand `m` with top bit `t`, nearest in the logarithm: the count of the four thresholds
`2^(1/8), 2^(3/8), 2^(5/8), 2^(7/8)` at or below it (R41, step 3). -/
def lnsNearest (m t : Nat) : Nat :=
  let p := m ^ 8
  let at' (k : Nat) : Nat := b2n (decide (2 ^ (8 * t + k) ≤ p))
  at' 1 + at' 3 + at' 5 + at' 7

/-- The highest quarter whose value is at or below the significand. -/
def lnsBelow (m t : Nat) : Nat :=
  let at' (j : Nat) : Nat := b2n (decide (lnsTbl j * 2 ^ t ≤ m * 2 ^ 23))
  at' 1 + at' 2 + at' 3

/-- The code of a logarithm in quarters, below 16. -/
def lnsCode (neg : Bool) (l : Int) : Nat := b2n neg * 32 + (l % 32).toNat

/-- Conversion to LNS6 (R41). -/
def toLns6 (md : CvtMode) (v : Fv) : Nat × Flags :=
  match v with
  | .nan _ => (0x10, fNV)
  | .inf n => (lnsCode n 15, fOF ||| fNX)
  | .fin n m e =>
    if m = 0 then (b2n n * 32 + 0x10, 0)
    else
      let t := Nat.log2 m
      let top := magExp m e
      let hiCmp := cmpV (.fin false m e) (.fin false (lnsTbl 1) (-27))
      if hiCmp == .lt then
        -- p = |x| / 2^-3.75, compared with the draw over a common power of two
        let ex := min (e + 24) (-27 : Int)
        let up := decide (md.draw * (lnsTbl 1 * 2 ^ ((-27 : Int) - ex).toNat) < m * 2 ^ ((e + 24) - ex).toNat)
        (if up then lnsCode n (-15) else b2n n * 32 + 0x10, fUF ||| fNX)
      else if md.srnd then
        let j := lnsBelow m t
        let l := 4 * top + j
        -- the significand over 2^(t + 23): positions lo and hi of the two neighbours
        let x := m * 2 ^ 23
        let lo := lnsTbl j * 2 ^ t
        let hi := (if j = 3 then 2 ^ 24 else lnsTbl (j + 1)) * 2 ^ t
        if x = lo ∧ l ≤ 15 then (lnsCode n l, 0)
        else
          let up := decide (md.draw * (hi - lo) < (x - lo) * 2 ^ 24)
          let l' := if up then l + 1 else l
          if 16 ≤ l' then (lnsCode n 15, fOF ||| fNX) else (lnsCode n l', fNX)
      else
        let l := 4 * top + lnsNearest m t
        if 16 ≤ l then (lnsCode n 15, fOF ||| fNX)
        else (lnsCode n l, flagIf (!eqV (.fin false m e) (lnsValue (lnsCode false l))) fNX)

/-- Conversion of an FP32 value to a two's complement integer of `w` bits, sign-extended to 64 (R38). -/
def toIntN (w : Nat) (rm : Rm) (v : Fv) : W64 × Flags :=
  let top : Int := 2 ^ (w - 1) - 1
  let bot : Int := - 2 ^ (w - 1)
  match v with
  | .nan _ => (0, fNV)
  | .inf n => (BitVec.ofInt 64 (if n then bot else top), fNV)
  | .fin n m e =>
    let (k, ix) := roundInt rm n m e
    let i := signed n k
    if i < bot then (BitVec.ofInt 64 bot, fNV)
    else if top < i then (BitVec.ofInt 64 top, fNV)
    else (BitVec.ofInt 64 i, flagIf ix fNX)

/-- An integer rounded to FP32 (R38). -/
def ofInt32 (rm : Rm) (i : Int) : Nat × Flags := if i = 0 then (0, 0) else rnd32 rm (decide (i < 0)) i.natAbs 0 false

/-- The value of a source pattern of a conversion format (codes of R92; 6 and 7 are integers). -/
def cvtValue (fmt v : Nat) : Fv :=
  match fmt with
  | 0 => fpv v
  | 1 => fp16.value v
  | 2 => bf16.value v
  | 3 => e4m3Value v
  | 4 => e5m2.value v
  | 5 => lnsValue v
  | 6 => let i := (BitVec.ofNat 8 v).toInt; .fin (decide (i < 0)) i.natAbs 0
  | _ => let i := (BitVec.ofNat 32 v).toInt; .fin (decide (i < 0)) i.natAbs 0

/-- Does a conversion to this format take a draw (R34). -/
def cvtDraws (dst : Nat) : Bool := 1 ≤ dst && dst ≤ 5

/-- A conversion (R92): the result as 64 bits, zero-extended for floating formats and sign-extended for integers. -/
def convert (dst src : Nat) (md : CvtMode) (v : Nat) : W64 × Flags :=
  let x := cvtValue src v
  let z (r : Nat × Flags) : W64 × Flags := (BitVec.ofNat 64 r.1, r.2)
  match dst with
  | 0 =>
    if src = 6 ∨ src = 7 then
      z (ofInt32 md.rm (match x with | .fin n m _ => signed n m | _ => 0))
    else z (roundV md.rm x)
  | 1 => z (toHalf fp16 md x)
  | 2 => z (toHalf bf16 md x)
  | 3 => z (toFp8 true md x)
  | 4 => z (toFp8 false md x)
  | 5 => z (toLns6 md x)
  | 6 => toIntN 8 md.rm x
  | _ => toIntN 32 md.rm x

/-- Does the conversion pair round under FMODE (R10). -/
def cvtRounds (dst src : Nat) : Bool :=
  (src == 0 && dst != 0) || (src == 7 && dst == 0) || (dst == 5 && src != 0) || (src == 5 && dst != 0)

/-- Does the conversion have an FP32 side, so that a subnormal of it costs turns (R27). -/
def cvtCounts (dst src : Nat) : Bool := dst == 0 || src == 0

/-- Tree sum of FP32 patterns (R46), with the flags of all additions. -/
def treeLevel (rm : Rm) : List Nat → List Nat × Flags
  | a :: b :: rest =>
    let (s, f) := fadd32 rm a b
    let (l, g) := treeLevel rm rest
    (s :: l, f ||| g)
  | l => (l, 0)

/-- `k` levels of the tree sum: `2^k` patterns to one. -/
def treeSum (rm : Rm) : Nat → List Nat → Nat × Flags
  | 0, l => (l.headD 0, 0)
  | k + 1, l =>
    let (l', f) := treeLevel rm l
    let (r, g) := treeSum rm k l'
    (r, f ||| g)

/-- The three BF16 terms of a split (R45). -/
def bf16Rne (x : Nat) : Nat :=
  let r := (toHalf bf16 { rm := .rne, srnd := false, sat8 := false, draw := 0 } (fpv x)).1
  match fpv x with
  | .fin n _ _ => if bits r 0 15 = 0x7F80 then b2n n * 2 ^ 15 + 0x7F7F else r
  | _ => r

/-- BF16×3 split of an FP32 pattern: hi, mi, lo (R45). -/
def bf16Split (x : Nat) : Nat × Nat × Nat :=
  let hi := bf16Rne x
  match fpv x with
  | .fin _ _ _ =>
    let r1 := (fsub32 .rne x (hi * 2 ^ 16)).1
    let mi := bf16Rne r1
    let r2 := (fsub32 .rne r1 (mi * 2 ^ 16)).1
    (hi, mi, bf16Rne r2)
  | _ => (hi, 0, 0)

end Sys2Proof.Machine
end

