-- ==== Sys2Proof/Machine/IntervalArith.lean ====
section
/-!
DEFINITION. Interval pairs (R43, R44), the forward operations (R114 to R117), the comparisons (R118, R119) and the
contractors (R120, R121), and the powers and logarithms of base two they and the vector unit share.
An end of a real set is held by its two roundings, downward and upward, which decide every comparison with an FP32
number exactly.
-/
namespace Sys2Proof.Machine

/-- An interval register: the FP32 patterns of its bounds (R43). -/
structure Ival where
  lo : Nat
  hi : Nat
  deriving DecidableEq, Repr

/-- The classes of R43. -/
inductive IvClass where
  | nai | empty | real
  deriving DecidableEq, Repr

/-- The canonical codes of R44. -/
def naiPair : Ival := { lo := 0x7FC00000, hi := 0x7FC00000 }
/-- The empty interval. -/
def emptyPair : Ival := { lo := 0x7F800000, hi := 0xFF800000 }
/-- All reals. -/
def entirePair : Ival := { lo := 0xFF800000, hi := 0x7F800000 }

/-- CLASS of R110. -/
def ivClass (i : Ival) : IvClass :=
  if (fpv i.lo).isNan || (fpv i.hi).isNan then .nai
  else if i.lo = 0x7F800000 ∧ i.hi = 0xFF800000 then .empty
  else if leV (fpv i.lo) (fpv i.hi) && i.lo != 0x7F800000 && i.hi != 0xFF800000 then .real
  else .nai

/-- CANON of R110. -/
def ivCanon (i : Ival) : Ival :=
  match ivClass i with
  | .nai => naiPair
  | .empty => emptyPair
  | .real =>
    { lo := if bits i.lo 0 31 = 0 then 0x80000000 else i.lo
      hi := if bits i.hi 0 31 = 0 then 0 else i.hi }

/-- OUTLO of R63: toward −∞. -/
def outLo (v : Fv) : Nat := (roundV .rdn v).1
/-- OUTHI of R63: toward +∞. -/
def outHi (v : Fv) : Nat := (roundV .rup v).1

/-- The lesser of two FP32 patterns that are no NaN. -/
def minP (a b : Nat) : Nat := if ltV (fpv b) (fpv a) then b else a
/-- The greater. -/
def maxP (a b : Nat) : Nat := if ltV (fpv a) (fpv b) then b else a
/-- Less, on patterns. -/
def ltP (a b : Nat) : Bool := ltV (fpv a) (fpv b)
/-- Less or equal, on patterns. -/
def leP (a b : Nat) : Bool := leV (fpv a) (fpv b)
/-- Equal in value, on patterns. -/
def eqP (a b : Nat) : Bool := eqV (fpv a) (fpv b)

/-- An end of a real set: its roundings down and up, and whether the end itself is left out of the set. -/
structure End where
  dn : Nat
  up : Nat
  out : Bool
  deriving DecidableEq, Repr

/-- The end at an exact value. -/
def endOf (v : Fv) : End := { dn := outLo v, up := outHi v, out := false }

/-- The end at an FP32 number. -/
def endP (p : Nat) : End := { dn := p, up := p, out := false }

/-- The lesser end; where two are equal, the one that belongs to the set. -/
def minEnd (a b : End) : End :=
  if ltP b.dn a.dn || ltP b.up a.up then b else if ltP a.dn b.dn || ltP a.up b.up then a else if a.out then b else a

/-- The greater end; where two are equal, the one that belongs to the set. -/
def maxEnd (a b : End) : End :=
  if ltP a.dn b.dn || ltP a.up b.up then b else if ltP b.dn a.dn || ltP b.up a.up then a else if a.out then b else a

/-- A set of reals between two ends. -/
structure Span where
  lo : End
  hi : End
  deriving DecidableEq, Repr

/-- SET of a real pair (R110). -/
def spanOf (i : Ival) : Span := { lo := endP i.lo, hi := endP i.hi }

/-- HULL of a span (R110), canonical. -/
def hullSpan (s : Span) : Ival := ivCanon { lo := s.lo.dn, hi := s.hi.up }

/-- `SET(i)` cut by a span, as its hull before canonical coding; empty where nothing is left. -/
def cutBy (i : Ival) (s : Span) : Ival :=
  if ltP i.hi s.lo.up || ltP s.hi.dn i.lo || (s.lo.out && eqP s.lo.up i.hi) || (s.hi.out && eqP s.hi.dn i.lo) then emptyPair
  else { lo := maxP i.lo s.lo.dn, hi := minP i.hi s.hi.up }

/-- The hull of two pairs, empty ones left out. -/
def joinPairs (a b : Ival) : Ival :=
  if a = emptyPair then b else if b = emptyPair then a else { lo := minP a.lo b.lo, hi := maxP a.hi b.hi }

/-- Exact sum of two bounds; infinities of one sign only meet here. -/
def addB (a b : Fv) : Fv :=
  match a, b with
  | .inf n, _ => .inf n
  | _, .inf n => .inf n
  | .fin n1 m1 e1, .fin n2 m2 e2 => let (i, e) := addFin n1 m1 e1 n2 m2 e2; .fin (decide (i < 0)) i.natAbs e
  | x, _ => x

/-- Exact product of two bounds, with `0 * ∞` the product 0 (R110). -/
def mulB (a b : Fv) : Fv := (mulV a b).getD (.fin false 0 0)

/-- Ends of a quotient of two bounds. An infinite divisor gives the limit 0, which no member of the set reaches
unless the dividend is 0. -/
def divB (a b : Fv) : End :=
  match a, b with
  | .inf _, .inf _ => { dn := 0, up := 0, out := true }
  | .inf n1, .fin n2 _ _ => endP (inf32 (n1 != n2))
  | .fin _ m _, .inf _ => { dn := 0, up := 0, out := m != 0 }
  | .fin n1 m1 e1, .fin n2 m2 e2 =>
    if m1 = 0 then endP 0
    else
      let (k, e, st) := divMag m1 e1 m2 e2
      { dn := (rnd32 .rdn (n1 != n2) k e st).1, up := (rnd32 .rup (n1 != n2) k e st).1, out := false }
  | _, _ => endP 0

/-- The span of the sums. -/
def addSpan (a b : Ival) : Span :=
  { lo := endOf (addB (fpv a.lo) (fpv b.lo)), hi := endOf (addB (fpv a.hi) (fpv b.hi)) }

/-- The interval of the opposite numbers. -/
def negPair (a : Ival) : Ival := { lo := a.hi ^^^ 0x80000000, hi := a.lo ^^^ 0x80000000 }

/-- The span of the differences. -/
def subSpan (a b : Ival) : Span := addSpan a (negPair b)

/-- The span of the products. -/
def mulSpan (a b : Ival) : Span :=
  let p := endOf (mulB (fpv a.lo) (fpv b.lo))
  let q := endOf (mulB (fpv a.lo) (fpv b.hi))
  let r := endOf (mulB (fpv a.hi) (fpv b.lo))
  let t := endOf (mulB (fpv a.hi) (fpv b.hi))
  { lo := minEnd (minEnd p q) (minEnd r t), hi := maxEnd (maxEnd p q) (maxEnd r t) }

/-- Zero in value. -/
def isZeroP (p : Nat) : Bool := bits p 0 31 == 0
/-- Does a real pair hold 0. -/
def hasZero (i : Ival) : Bool := leP i.lo 0 && leP 0 i.hi

/-- The span of the quotients where the divisor holds no zero. -/
def divSpan (a b : Ival) : Span :=
  let p := divB (fpv a.lo) (fpv b.lo)
  let q := divB (fpv a.lo) (fpv b.hi)
  let r := divB (fpv a.hi) (fpv b.lo)
  let t := divB (fpv a.hi) (fpv b.hi)
  let z (e : End) : End := if hasZero a ∧ e.dn = 0 ∧ e.up = 0 then { e with out := false } else e
  { lo := minEnd (minEnd (z p) (z q)) (minEnd (z r) (z t)), hi := maxEnd (maxEnd (z p) (z q)) (maxEnd (z r) (z t)) }

/-- Minus infinity as an end. -/
def negInfEnd : End := endP 0xFF800000
/-- Plus infinity as an end. -/
def posInfEnd : End := endP 0x7F800000

/-- The quotient set in pieces, where the dividend may hold zero and the divisor too (R115, and the two rays of R121). -/
def quotPieces (a b : Ival) : List Span :=
  if !hasZero b then [divSpan a b]
  else if isZeroP b.lo && isZeroP b.hi then []
  else if isZeroP a.lo && isZeroP a.hi then [{ lo := endP 0, hi := endP 0 }]
  else if hasZero a then [{ lo := negInfEnd, hi := posInfEnd }]
  else
    let neg : List Span := if isZeroP b.lo then []
      else if ltP 0 a.lo then [{ lo := negInfEnd, hi := divB (fpv a.lo) (fpv b.lo) }]
      else [{ lo := divB (fpv a.hi) (fpv b.lo), hi := posInfEnd }]
    let pos : List Span := if isZeroP b.hi then []
      else if ltP 0 a.lo then [{ lo := divB (fpv a.lo) (fpv b.hi), hi := posInfEnd }]
      else [{ lo := negInfEnd, hi := divB (fpv a.hi) (fpv b.hi) }]
    neg ++ pos

/-- Hull of pieces. -/
def hullPieces : List Span → Ival
  | [] => emptyPair
  | s :: rest => joinPairs { lo := s.lo.dn, hi := s.hi.up } (hullPieces rest)

/-- `SET(i)` cut by the union of pieces (V := HULL(SET(V) ∩ S) of R120). -/
def cutPieces (i : Ival) : List Span → Ival
  | [] => emptyPair
  | s :: rest => joinPairs (cutBy i s) (cutPieces i rest)

/-- Binary forward operation on real sets, with R114's classes. -/
def ivBin (f : Ival → Ival → Ival) (a b : Ival) : Ival :=
  if ivClass a = .nai ∨ ivClass b = .nai then naiPair
  else if ivClass a = .empty ∨ ivClass b = .empty then emptyPair
  else ivCanon (f a b)

/-- IADD (R114). -/
def ivAdd : Ival → Ival → Ival := ivBin fun a b => hullSpan (addSpan a b)
/-- ISUB (R114). -/
def ivSub : Ival → Ival → Ival := ivBin fun a b => hullSpan (subSpan a b)
/-- IMUL (R114). -/
def ivMul : Ival → Ival → Ival := ivBin fun a b => hullSpan (mulSpan a b)
/-- IDIV (R114, R115). -/
def ivDiv : Ival → Ival → Ival := ivBin fun a b => hullPieces (quotPieces a b)

/-- The span of the squares. -/
def sqSpan (a : Ival) : Span :=
  let l := endOf (mulB (fpv a.lo) (fpv a.lo))
  let h := endOf (mulB (fpv a.hi) (fpv a.hi))
  { lo := if hasZero a then endP 0 else minEnd l h, hi := maxEnd l h }

/-- The root of a bound that is not negative. -/
def sqrtB (v : Fv) : End :=
  match v with
  | .fin _ m e =>
    if m = 0 then endP 0
    else
      let (k, q, st) := sqrtMag 40 m e
      { dn := (rnd32 .rdn false k q st).1, up := (rnd32 .rup false k q st).1, out := false }
  | _ => posInfEnd

/-- The opposite end. -/
def negEnd (e : End) : End := { dn := e.up ^^^ 0x80000000, up := e.dn ^^^ 0x80000000, out := e.out }

/-- The roots of the members of a real pair that are not negative. -/
def sqrtPieces (a : Ival) : List Span :=
  if ltP a.hi 0 then []
  else [{ lo := if ltP a.lo 0 then endP 0 else sqrtB (fpv a.lo), hi := sqrtB (fpv a.hi) }]

/-- Fixed-point roots: `c` is `2^(2^-i)` in units of `2^-160`; multiplies the ones whose bit of the fraction is set. The
fraction has `k` bits left, the highest first. -/
def exp2Frac : Nat → Nat → Nat → Nat → Nat
  | 0, _, _, acc => acc
  | k + 1, f, c, acc =>
    let c' := isqrt (c * 2 ^ 160)
    exp2Frac k f c' (if f / 2 ^ k % 2 = 1 then acc * c' / 2 ^ 160 else acc)

/-- `2^x` of a finite value: significand, exponent, and a mark that something is left below. The power is computed to
150 bits, which decides every rounding to 24 bits (log entry 11, DEDUCED). -/
def exp2Mag (neg : Bool) (m : Nat) (e : Int) : Nat × Int × Bool :=
  if m = 0 then (1, 0, false)
  else if magExp m e < -40 then
    (if neg then (2 ^ 100 - 1, -100, true) else (2 ^ 100, -100, true))
  else if 12 ≤ magExp m e then (if neg then (1, -4096, false) else (1, 4096, false))
  else
    let x : Int := signed neg (if 0 ≤ e + 64 then m * 2 ^ (e + 64).toNat else m / 2 ^ (-(e + 64)).toNat)
    let n := x / 2 ^ 64
    let f := (x % 2 ^ 64).toNat
    if f = 0 then (1, n, false)
    else (exp2Frac 64 f (2 * 2 ^ 160) (2 ^ 160), n - 160, true)

/-- `2^x` rounded to FP32. -/
def exp2Round (rm : Rm) (v : Fv) : Nat × Flags :=
  match v with
  | .nan s => (nan32, flagIf s fNV)
  | .inf n => if n then (0, 0) else (inf32 false, 0)
  | .fin n m e =>
    let (k, q, st) := exp2Mag n m e
    rnd32 rm false k q st

/-- The end at a power of two; a limit 0 is reached by no power. -/
def exp2B (v : Fv) : End :=
  match v with
  | .inf true => { dn := 0, up := 0, out := true }
  | x => { dn := (exp2Round .rdn x).1, up := (exp2Round .rup x).1, out := false }

/-- The span of the powers of two. -/
def exp2Span (a : Ival) : Span := { lo := exp2B (fpv a.lo), hi := exp2B (fpv a.hi) }

/-- `k` further bits of the binary logarithm of `m / 2^255`, `1 ≤ m / 2^255 < 2`, after those in `acc`. -/
def log2Bits : Nat → Nat → Nat → Nat
  | 0, _, acc => acc
  | k + 1, m, acc =>
    let s := m * m / 2 ^ 255
    if 2 ^ 256 ≤ s then log2Bits k (s / 2) (2 * acc + 1) else log2Bits k s (2 * acc)

/-- `log2` of a positive finite magnitude as sign, significand of `2^-100` and mark of a rest. -/
def log2Mag (m : Nat) (e : Int) : Bool × Nat × Bool :=
  let t := Nat.log2 m
  let top := magExp m e
  if m = 2 ^ t then (decide (top < 0), top.natAbs * 2 ^ 100, false)
  else
    let i : Int := top * 2 ^ 100 + log2Bits 100 (m * 2 ^ (255 - t)) 0
    if 0 ≤ i then (false, i.natAbs, true) else (true, i.natAbs - 1, true)

/-- `log2` of a positive value, rounded to FP32. -/
def log2Round (rm : Rm) (v : Fv) : Nat × Flags :=
  match v with
  | .fin _ m e =>
    let (n, k, st) := log2Mag m e
    if k = 0 ∧ !st then (0, 0) else rnd32 rm n k (-100) st
  | _ => (inf32 false, 0)

/-- The end at a logarithm of a positive bound. -/
def log2B (v : Fv) : End := { dn := (log2Round .rdn v).1, up := (log2Round .rup v).1, out := false }

/-- The logarithms of the positive members of a real pair. -/
def log2Pieces (a : Ival) : List Span :=
  if leP a.hi 0 then []
  else [{ lo := if leP a.lo 0 then negInfEnd else log2B (fpv a.lo), hi := log2B (fpv a.hi) }]

/-- Unary forward operation (R116). -/
def ivUn (f : Ival → Ival) (a : Ival) : Ival :=
  match ivClass a with
  | .nai => naiPair
  | .empty => emptyPair
  | .real => ivCanon (f a)

/-- ISQ (R116). -/
def ivSq : Ival → Ival := ivUn fun a => hullSpan (sqSpan a)
/-- ISQRT (R116). -/
def ivSqrt : Ival → Ival := ivUn fun a => hullPieces (sqrtPieces a)
/-- IEXP2 (R116). -/
def ivExp2 : Ival → Ival := ivUn fun a => hullSpan (exp2Span a)

/-- IMAX (R117). -/
def ivMax : Ival → Ival → Ival := ivBin fun a b => { lo := maxP a.lo b.lo, hi := maxP a.hi b.hi }
/-- IMIN (R117). -/
def ivMin : Ival → Ival → Ival := ivBin fun a b => { lo := minP a.lo b.lo, hi := minP a.hi b.hi }

/-- IHULL (R117). -/
def ivHull (a b : Ival) : Ival :=
  if ivClass a = .nai ∨ ivClass b = .nai then naiPair
  else if ivClass a = .empty then ivCanon b
  else if ivClass b = .empty then ivCanon a
  else ivCanon { lo := minP a.lo b.lo, hi := maxP a.hi b.hi }

/-- IISECT (R117). -/
def ivIsect : Ival → Ival → Ival := ivBin fun a b =>
  let l := maxP a.lo b.lo
  let h := minP a.hi b.hi
  if ltP h l then emptyPair else { lo := l, hi := h }

/-- IVMK.R (R111). -/
def ivMkR (c r : Nat) : Ival :=
  let cv := fpv c
  let rv := fpv r
  if cv.isNan || rv.isNan || ltP r 0 || (match cv with | .inf _ => true | _ => false) then naiPair
  else if r = 0x7F800000 then entirePair
  else ivCanon { lo := outLo (addB cv rv.negate), hi := outHi (addB cv rv) }

/-- IWID (R112). -/
def ivWid (a : Ival) : Nat :=
  match ivClass a with
  | .real => outHi (addB (fpv a.hi) (fpv a.lo).negate)
  | _ => nan32

/-- IMID (R112). -/
def ivMid (a : Ival) : Nat :=
  match ivClass a with
  | .real =>
    if a.lo = 0xFF800000 ∧ a.hi = 0x7F800000 then 0
    else if a.lo = 0xFF800000 then 0xFF7FFFFF
    else if a.hi = 0x7F800000 then 0x7F7FFFFF
    else
      match addB (fpv a.lo) (fpv a.hi) with
      | .fin n m e => if m = 0 then 0 else
          let r := (rnd32 .rne n m (e - 1) false).1
          if isZeroP r then 0 else r
      | _ => 0
  | _ => nan32

/-- The outcome of a three-valued comparison (R118): certainly true, certainly false. -/
def ivCmp (cc : Nat) (a b : Ival) : Bool × Bool :=
  if ivClass a = .nai ∨ ivClass b = .nai then (false, false)
  else if ivClass a = .empty ∨ ivClass b = .empty then (true, true)
  else
    let point := eqP a.lo a.hi && eqP b.lo b.hi && eqP a.lo b.lo
    let apart := ltP a.hi b.lo || ltP b.hi a.lo
    match cc with
    | 0 => (ltP a.hi b.lo, leP b.hi a.lo)
    | 1 => (leP a.hi b.lo, ltP b.hi a.lo)
    | 2 => (point, apart)
    | _ => (apart, point)

/-- ICONT (R119). -/
def ivCont (a b : Ival) : Bool × Bool :=
  if ivClass a = .nai ∨ ivClass b = .nai then (false, false)
  else if ivClass a = .empty ∨ ivClass b = .empty then (true, true)
  else (leP a.lo b.lo && leP b.hi a.hi, ltP a.hi b.lo || ltP b.hi a.lo)

/-- The relations of the contractors (R120). -/
inductive Relation where
  | addR | mulR | sqR | maxR | exp2R
  deriving DecidableEq, Repr

/-- The `Z` projection (R121). -/
def projZ (r : Relation) (x y : Ival) : List Span :=
  match r with
  | .addR => [addSpan x y]
  | .mulR => [mulSpan x y]
  | .sqR => [sqSpan x]
  | .maxR => [spanOf { lo := maxP x.lo y.lo, hi := maxP x.hi y.hi }]
  | .exp2R => [exp2Span x]

/-- The set of one factor: `{v : v * w = z for some w, z}` (R121). -/
def projFactor (z w v : Ival) : List Span :=
  if hasZero w && hasZero z then [spanOf v] else quotPieces z w

/-- The set of one argument of a maximum (R121). -/
def projMax (z w : Ival) : List Span :=
  let below := { lo := maxP w.lo z.lo, hi := minP w.hi z.hi : Ival }
  let own := { lo := maxP z.lo w.lo, hi := z.hi : Ival }
  (if leP below.lo below.hi then [{ lo := negInfEnd, hi := endP below.hi : Span }] else []) ++
  (if leP own.lo own.hi then [spanOf own] else [])

/-- The `X` projection (R121). -/
def projX (r : Relation) (z x y : Ival) : List Span :=
  match r with
  | .addR => [subSpan z y]
  | .mulR => projFactor z y x
  | .sqR => (sqrtPieces z).flatMap fun s => [{ lo := negEnd s.hi, hi := negEnd s.lo : Span }, s]
  | .maxR => projMax z y
  | .exp2R => log2Pieces z

/-- The `Y` projection (R121); the unary relations have none. -/
def projY (r : Relation) (z x y : Ival) : List Span :=
  match r with
  | .addR => [subSpan z x]
  | .mulR => projFactor z x y
  | .maxR => projMax z x
  | _ => [spanOf y]

/-- Is a relation between two operands and a result. -/
def Relation.binary : Relation → Bool
  | .addR | .mulR | .maxR => true
  | .sqR | .exp2R => false

/-- Do two pairs differ in value or class, −0 equal to +0. -/
def ivDiffers (a b : Ival) : Bool :=
  if ivClass a = .real ∧ ivClass b = .real then !(eqP a.lo b.lo && eqP a.hi b.hi) else decide (ivClass a ≠ ivClass b)

/-- What a contractor leaves (R120): the three intervals, moved, and whether all written ones are empty. -/
structure Contracted where
  z : Ival
  x : Ival
  y : Ival
  moved : Bool
  emptied : Bool
  nai : Bool
  deriving DecidableEq, Repr

/-- The narrowing steps in the order Z, X, Y on real sets; any empty one makes all empty. -/
def narrow (r : Relation) (z x y : Ival) : Ival × Ival × Ival :=
  let z' := cutPieces z (projZ r x y)
  if z' = emptyPair then (emptyPair, emptyPair, emptyPair)
  else
    let x' := cutPieces x (projX r z' x y)
    if x' = emptyPair then (emptyPair, emptyPair, emptyPair)
    else
      let y' := cutPieces y (projY r z' x' y)
      if y' = emptyPair then (emptyPair, emptyPair, emptyPair) else (z', x', y')

/-- A contractor (R120). For a unary relation `y` is any real pair; it is not written. -/
def contract (r : Relation) (z x y0 : Ival) : Contracted :=
  let y := if r.binary then y0 else entirePair
  if ivClass z = .nai ∨ ivClass x = .nai ∨ ivClass y = .nai then
    { z := naiPair, x := naiPair, y := naiPair, moved := false, emptied := false, nai := true }
  else
    let (z', x', y') :=
      if ivClass z = .empty ∨ ivClass x = .empty ∨ ivClass y = .empty then (emptyPair, emptyPair, emptyPair)
      else narrow r z x y
    let moved := ivDiffers z z' || ivDiffers x x' || (r.binary && ivDiffers y y')
    { z := ivCanon z', x := ivCanon x', y := ivCanon y', moved := moved
      emptied := moved && decide (z' = emptyPair), nai := false }

/-- Is some bound of the list a non-zero subnormal (R27). -/
def anySubnormal (l : List Nat) : Bool := l.any subnormal32

end Sys2Proof.Machine
end

