-- ==== Sys2Proof/Config.lean ====
section
/-!
DEFINITION. What the spec leaves open: constants without a body, so that no proof can lean on a value of theirs.
Each is named in the assumption log.
-/
namespace Sys2Proof.Config

/-- A byte the spec calls undefined (the words of a fresh frame, R17; blocks outside LMASK, R127; bytes outside the
extents, R342): the `id`-th undefined range of the run, at address `a`. Log entry 3, DESIGN CHOICE. -/
opaque freeByte (id a : Nat) : BitVec 8

/-- The `k`-th draw of the uniform hardware generator that picks a spool (R140, R141), a streamer (R282) or a live
stitch port, when the state's own oracle list is used up. Log entry 4, DESIGN CHOICE. -/
opaque hardwareRandom (k : Nat) : Nat

/-- The occupied flits of a router's four channels at its `k`-th sample (R315, class 9). Log entry 5, DESIGN CHOICE. -/
opaque routerOccupancy (cluster k : Nat) : BitVec 32

/-- Where in its context's memory the device keeps the saved image of a thread's workspace (R126): the spec gives the place to the
device. Log entry 49, DESIGN CHOICE. -/
opaque imagePlace (tid : Nat) : Nat

/-- How many bytes of its save area the `k`-th WORLD save writes (R343, R347): the spec does not give the area's layout. Log entry 64, DESIGN
CHOICE. -/
opaque saveSize (k : Nat) : Nat

/-- What an open read outside the package returns (a device behind a root port, R404): the `k`-th such read. Log entry 6, DESIGN CHOICE. -/
opaque outboundByte (k a : Nat) : BitVec 8

/-- What a read of a write-only register or of an unreadable log byte returns: the byte at address `a` in cycle `ts`
(R201, R334, R352, R410). Log entry 6, DESIGN CHOICE. -/
opaque openByte (ts a : Nat) : BitVec 8

/-- ML-DSA-87 verification of a signature over a digest under a public key (R409): the spec names the standard
and does not state the algorithm. Log entry 7, PRESUMED. -/
opaque mldsaVerify (pk digest sig : List (BitVec 8)) : Bool

/-- ML-DSA-87 signature made with the device identity key (R410), 4,627 bytes are taken from it. Log entry 7, PRESUMED. -/
opaque mldsaSign (digest : List (BitVec 8)) : List (BitVec 8)

/-- The 64-byte key hash fused into die K (R409). Log entry 7, PRESUMED. -/
opaque fusedKeyHash : List (BitVec 8)

/-- The public half of the device identity key, 2,592 bytes at IDPK (R410). Log entry 7, PRESUMED. -/
opaque identityKey (i : Nat) : BitVec 8

/-- The state kept by a write that is neither wholly ordered before nor after a link failure (R391): true when the
unanswered store was performed. Log entry 8, DESIGN CHOICE. -/
opaque unansweredStorePerformed (k : Nat) : Bool

/-- The compute die at whose memory edge a stack of HBM lies (R202, R382): the spec does not place the stacks. Log entry 30, DESIGN CHOICE. -/
opaque stackDie (stack : Nat) : Nat

/-- The hash of a line address that picks a stitch port of a mask (R390): the spec does not state it. Log entry 30, DESIGN CHOICE. -/
opaque portHash (line : Nat) : Nat

/-- Word `i` of what an interrupt table, as its 4 KiB hold it, says of a vector (R404): the spec gives the table no layout. Words 0 to 2
are the control core, the identifier and the entry PC, words 3 to 6 are x1 to x4. Log entry 31, DESIGN CHOICE. -/
opaque interruptEntry (table : List (BitVec 8)) (vec : Nat) (data : BitVec 32) (i : Nat) : BitVec 64

/-- Word `i` of a message that the device makes of itself: a root port's report (kind 0 surprise-down, 1 AER; R403) or the power
controller's (kind 2; R415). The spec gives these no contents. Log entry 31, DESIGN CHOICE. -/
opaque deviceMessage (kind port : Nat) (code : BitVec 64) (i : Nat) : BitVec 64

/-- Average package power of the `k`-th window, in watts (R415). Log entry 32, DESIGN CHOICE. -/
opaque averagePower (k : Nat) : Nat

end Sys2Proof.Config
end

