-- ==== Sys2Proof/Machine/Mem.lean ====
section
/-!
DEFINITION. Byte memory in one canonical form. A memory lists the bytes that are not zero, at strictly rising
addresses, and the ranges of bytes the spec calls undefined. Every other address reads as zero (log entry 9, DESIGN CHOICE). A byte of an
undefined range reads as a free value until it is written (log entry 3, DESIGN CHOICE). Byte order is little-endian (R48), decided
here once.
-/
namespace Sys2Proof.Machine

/-- A memory: the listed bytes, and the undefined ranges (first address, end, number of the free value). -/
structure Memory where
  cells : List Host.Cell
  undef : List (Nat × Nat × Nat)
  deriving DecidableEq, Repr

/-- Memory with nothing listed. -/
def Memory.empty : Memory := { cells := [], undef := [] }

/-- The listed byte at an address. -/
def cellAt : List Host.Cell → Nat → Option Byte
  | [], _ => none
  | (k, v) :: rest, a => if k = a then some v else cellAt rest a

/-- The undefined range that holds an address. -/
def undefAt : List (Nat × Nat × Nat) → Nat → Option Nat
  | [], _ => none
  | (lo, hi, id) :: rest, a => if lo ≤ a ∧ a < hi then some id else undefAt rest a

/-- What one byte reads as. -/
def Memory.read (m : Memory) (a : Nat) : Byte :=
  match cellAt m.cells a with
  | some v => v
  | none =>
    match undefAt m.undef a with
    | some id => Config.freeByte id a
    | none => 0

/-- The listed bytes without the one at `a`. -/
def cellErase : List Host.Cell → Nat → List Host.Cell
  | [], _ => []
  | (k, v) :: rest, a => if k = a then rest else if a < k then (k, v) :: rest else (k, v) :: cellErase rest a

/-- The listed bytes with `v` at `a`, in order. -/
def cellInsert : List Host.Cell → Nat → Byte → List Host.Cell
  | [], a, v => [(a, v)]
  | (k, w) :: rest, a, v =>
    if a < k then (a, v) :: (k, w) :: rest
    else if k = a then (a, v) :: rest
    else (k, w) :: cellInsert rest a v

/-- One undefined range without the address `a`. -/
def rangeErase (r : Nat × Nat × Nat) (a : Nat) : List (Nat × Nat × Nat) :=
  if r.1 ≤ a ∧ a < r.2.1 then
    (if r.1 < a then [(r.1, a, r.2.2)] else []) ++ (if a + 1 < r.2.1 then [(a + 1, r.2.1, r.2.2)] else [])
  else [r]

/-- The undefined ranges without the address `a`. -/
def undefErase : List (Nat × Nat × Nat) → Nat → List (Nat × Nat × Nat)
  | [], _ => []
  | r :: rest, a => rangeErase r a ++ undefErase rest a

/-- Write one byte. -/
def Memory.write (m : Memory) (a : Nat) (v : Byte) : Memory :=
  { cells := if v = 0 then cellErase m.cells a else cellInsert m.cells a v, undef := undefErase m.undef a }

/-- `n` bytes from `a`, lowest address first. -/
def Memory.readBytes (m : Memory) : Nat → Nat → List Byte
  | _, 0 => []
  | a, n + 1 => m.read a :: Memory.readBytes m (a + 1) n

/-- Write bytes from `a` up. -/
def Memory.writeBytes (m : Memory) : Nat → List Byte → Memory
  | _, [] => m
  | a, b :: rest => Memory.writeBytes (m.write a b) (a + 1) rest

/-- The little-endian value of bytes. -/
def leNat : List Byte → Nat
  | [] => 0
  | b :: rest => b.toNat + 256 * leNat rest

/-- The `n` low bytes of a value, lowest first. -/
def leBytes : Nat → Nat → List Byte
  | 0, _ => []
  | n + 1, v => BitVec.ofNat 8 v :: leBytes n (v / 256)

/-- A little-endian read of `n` bytes. -/
def Memory.readNat (m : Memory) (a n : Nat) : Nat := leNat (m.readBytes a n)

/-- A little-endian write of the `n` low bytes of `v`. -/
def Memory.writeNat (m : Memory) (a n v : Nat) : Memory := m.writeBytes a (leBytes n v)

/-- The bytes from `lo` to `hi` become undefined: the `id`-th free value of the run. -/
def Memory.forget (m : Memory) (lo hi id : Nat) : Memory :=
  if lo < hi then
    { cells := m.cells.filter fun c => ¬ (lo ≤ c.1 ∧ c.1 < hi)
      undef := (m.undef.flatMap fun r =>
        (if r.1 < min r.2.1 lo then [(r.1, min r.2.1 lo, r.2.2)] else []) ++
        (if max r.1 hi < r.2.1 then [(max r.1 hi, r.2.1, r.2.2)] else [])) ++ [(lo, hi, id)] }
  else m

/-- The bytes from `lo` to `hi` become zero. -/
def Memory.clear (m : Memory) (lo hi : Nat) : Memory :=
  { cells := m.cells.filter fun c => ¬ (lo ≤ c.1 ∧ c.1 < hi)
    undef := m.undef.flatMap fun r =>
      (if r.1 < min r.2.1 lo then [(r.1, min r.2.1 lo, r.2.2)] else []) ++
      (if max r.1 hi < r.2.1 then [(max r.1 hi, r.2.1, r.2.2)] else []) }

/-- Copy `n` bytes between two memories. An undefined byte is copied as the free value it reads as. -/
def Memory.copyFrom (dst : Memory) (da : Nat) (src : Memory) (sa n : Nat) : Memory :=
  if src.undef.all fun r => r.2.1 ≤ sa || sa + n ≤ r.1 then
    (src.cells.filter fun c => sa ≤ c.1 ∧ c.1 < sa + n).foldl (fun d c => d.write (c.1 - sa + da) c.2)
      (dst.clear da (da + n))
  else dst.writeBytes da (src.readBytes sa n)

/-- Strictly rising addresses, no listed zero, no listed byte of an undefined range. -/
def cellsOk (undef : List (Nat × Nat × Nat)) : List Host.Cell → Bool
  | [] => true
  | (a, v) :: rest =>
    v != 0 && undefAt undef a == none &&
      (match rest with
        | [] => true
        | (b, _) :: _ => decide (a < b)) && cellsOk undef rest

/-- The canonical form. -/
def Memory.wf (m : Memory) : Bool := cellsOk m.undef m.cells

end Sys2Proof.Machine
end

