-- ==== Sys2Proof/Machine/State.lean ====
section
/-!
DEFINITION. The state of the package, as plain data: the threads and their registers (the registers are bytes of the
pools, R6), the cores, engines and seam units, the launches and partitions, main memory, the system registers, and
what is still under way. The last fields are the model's own: the oracle lists, the counters of the free values, and what
holds while one bundle runs.
-/
namespace Sys2Proof.Machine

/-- Why the machine stops with a fault: nothing does. What the spec stops is a trap, a suspension, a rejected command or a
core without a thread, and each of them is a next state. A device step whose thread, access, copy or launch is gone has no effect. -/
inductive Fault where
  deriving DecidableEq, Repr

/-- Why the model gives no meaning. -/
inductive Refusal where
  /-- Raised by a refused arm of `exec`: the instruction has no meaning here yet. Safe: nothing can be proved of it. -/
  | notModelled (mnemonic : String)
  deriving DecidableEq, Repr

/-- STATE of a continuation (R126), by its code. -/
inductive TState where
  | free | ready | running | seam | waiting | fault | preempted | stopped
  deriving DecidableEq, Repr

/-- An architectural register that an instruction names as a source or destination (R50). -/
inductive RegName where
  | x (n : Nat)
  | iv (n : Nat)
  | v (n : Nat)
  | p (n : Nat)
  deriving DecidableEq, Repr

/-- A register of the workspace at `base` that an access has still to write (R71). -/
structure Pending where
  base : Nat
  reg : RegName
  id : Nat
  deriving DecidableEq, Repr

/-- A register written lately, and the first cycle at which a bundle that names it may issue (R123, R174). -/
structure Spacing where
  base : Nat
  reg : RegName
  ready : Nat
  deriving DecidableEq, Repr

/-- Where a continuation waits for a slot (R139 to R141). -/
inductive Place where
  | nowhere
  | spool (n : Nat)
  | fifo (core : Nat)
  | pinned (core : Nat)
  deriving DecidableEq, Repr

/-- What a thread waits for inside an instruction that waits (R123, R127). -/
inductive Wait where
  | barrier (core off : Nat) (phase : Nat)
  | group (g : Nat)
  | record (q : Nat)
  | counts (ld st cp tl : Nat)
  | batches (n : Nat)
  | batchRoom
  | queueRoom (q : Nat)
  | element (sreg : Nat)
  | pool (part need : Nat)
  | seamAnswer
  | stinv (id : Nat)
  | kill (id : Nat)
  | crown (ring : Nat) (recheck : Nat)
  | append (id : Nat)
  | literal (id : Nat)
  | drainEngines
  | walk
  | released
  deriving DecidableEq, Repr

/-- Which thread of a reserved slot this is (R279, R288, R291). -/
inductive Handler where
  | row
  | landing (copy : Nat)
  | sampling
  deriving DecidableEq, Repr

/-- An entry of the dispatch ring (R335), and the slot whose SEQ it holds. -/
structure RingEntry where
  slot : Nat
  seq : Nat
  tag : Nat
  q : Nat
  st : Nat
  status : Nat
  deriving DecidableEq, Repr

/-- A stream register (R287, R301): armed, or bound to the copy with this key (`Cmd.key`), whose destination starts at the pool
key `dst` and has `total` bytes; the next element. -/
structure Stream where
  sreg : Nat
  size : Nat
  bound : Option Nat
  dst : Nat
  total : Nat
  next : Nat
  deriving DecidableEq, Repr

/-- A sealed batch: its number and the keys (`Cmd.key`) of its copies not yet complete (R286). -/
structure Batch where
  num : Nat
  open' : List Nat
  deriving DecidableEq, Repr

/-- A fence in force: kind 0 acq, 1 rel, 2 full, 3 ro, and the accesses it waits for (R248); kind 4 is an acquire in
flight (R247). -/
structure FenceHold where
  kind : Nat
  waits : List Nat
  deriving DecidableEq, Repr

/-- A MEET that has issued and is not answered yet (R148, R163): table pointer, state words, the deadline, and the workspace at its keys of the
pool with its poison marks, and DRAW, from before its bundle. -/
structure SeamReq where
  tbl : W64
  words : List W64
  dln : W64
  undo : Memory
  undoPoison : List Nat
  draw : W32
  deriving DecidableEq, Repr

/-- A continuation: the record of R126, and what travels with the thread. `idleTs` is when it last left a slot (R128), `sender` the router
that its active message comes from (R384), `imgPoison` the poisoned granules of its image by offset (R400), `fences` how many FENCEs it has
issued (R226), `crownWait` the ring that its CRTAKE waits for (R393), `queueWait` the queue at which its QPUSH or QPOP
waits and since when (R315), `roFrom` the number of the first fill of a read-only buffer that may serve it (R225), and `slotHeld` says that its stop keeps
its slot vacant (R354). `answer` holds what a device step has answered to the waiting bundle, `heldStores` the element stores of a VAPPEND that
wait for the fault service (R215, R254), and `fetched` the PC and words of a bundle that has begun and waits: it is not fetched again. -/
structure Thread where
  tid : Nat
  state : TState
  pc : W64
  npc : W64
  core : Nat
  slot : Nat
  home : Bool
  priv : Nat
  pid : BitVec 16
  part : Nat
  wp : Nat
  ring : Nat
  spilled : Nat
  lmask : W32
  mcnt : W32
  unitid : W32
  unitidx : W64
  draw : W32
  spill : W64
  slim : W64
  lnch : Nat
  grps : W64
  depth : BitVec 8
  key : Nat
  prio : Nat
  pclass : Nat
  enq : Nat
  enqTs : Nat
  idleTs : Nat
  sender : Nat
  place : Place
  recd : W64
  img : Option Memory
  imgPoison : List Nat
  extents : Option (List (Nat × Nat))
  wincur : W32
  unpicking : Bool
  forfeit : Nat
  pend : List Pending
  wrote : List Spacing
  holds : List FenceHold
  wait : Option Wait
  waitFrom : Nat
  held : List Nat
  ibnd : W64
  forf : W64
  memw : W64
  msgw : W64
  qpsh : W64
  latch : Option (Nat × W32)
  fences : Nat
  roFrom : Nat
  dispatch : List RingEntry
  bnext : Nat
  unsealed : List Nat
  batches : List Batch
  streams : List Stream
  heldAsync : List W64
  trapNext : Option (Nat × W64)
  lastFault : W64
  crowns : List Nat
  crownWait : Option Nat
  queueWait : Option (Nat × Nat)
  handler : Option Handler
  stepsLeft : Option Nat
  stopNext : Bool
  slotHeld : Bool
  turnsLeft : Option Nat
  retireNext : Bool
  seam : Option SeamReq
  answer : List Nat
  fetched : Option (W64 × W64)
  heldStores : List (W64 × Nat)
  deriving DecidableEq, Repr

/-- The place of a piece of an access once its pointer has been checked and translated. -/
inductive Loc where
  | mem (pa : Nat)
  | pool (key : Nat)
  | sys (addr : Nat)
  | log (pid : BitVec 16) (off : Nat)
  | meas (tenant off : Nat)
  | dropped
  deriving DecidableEq, Repr

/-- One piece of an access: its pointer, its place, its size, the bytes a store writes, and whether those came poisoned (R220, R399). -/
structure Piece where
  ptr : W64
  loc : Loc
  n : Nat
  data : List Byte
  bad : Bool := false
  deriving DecidableEq, Repr

/-- What an access does at memory. -/
inductive AccOp where
  | load
  | store
  | rmw (aop : Nat) (operand cmp : Nat) (mcnt : Nat)
  deriving DecidableEq, Repr

/-- Where the value of an access goes. -/
inductive Dest where
  | none
  | x (n size : Nat) (signed : Bool)
  | iv (n : Nat)
  | v (n : Nat)
  | fixed (vals : List (RegName × Nat))
  deriving DecidableEq, Repr

/-- An undo entry appended for an access: its byte offset in the log area, the place it records, its size, and its window (R211, R213). -/
structure LogRef where
  off : Nat
  loc : Loc
  n : Nat
  win : Nat
  deriving DecidableEq, Repr

/-- An access of a thread that is not yet performed or not yet landed (R71); `amo` marks an atomic, `fences` says how many FENCEs the
thread had issued, `pc` is that of its bundle, `done` lists the places that it has performed; `early` says that its pool has done its part, and
`poison` that a byte read was poisoned (R400); `level` is the
thread's privilege at issue. -/
structure Access where
  id : Nat
  tid : Nat
  core : Nat
  path : Nat
  op : AccOp
  pieces : List Piece
  base : Nat
  dst : Dest
  ord : Nat
  scope : Nat
  early : Bool
  poison : Bool
  level : Nat
  logs : List LogRef
  pid : BitVec 16
  amo : Bool
  fences : Nat
  pc : W64
  done : List (Loc × Nat)
  deriving DecidableEq, Repr

/-- A translation a station caches (R204): station, identifier, virtual page number at the entry's size, level, the leaf
entry and its physical address. -/
structure TlbEntry where
  station : Nat
  pid : BitVec 16
  level : Nat
  vpn : Nat
  leaf : W64
  at' : Nat
  deriving DecidableEq, Repr

/-- A line of a read-only buffer (R199): cluster, identifier, line number of the virtual address, the bytes, and the number of
the fill that brought it in. -/
structure RoLine where
  cluster : Nat
  pid : BitVec 16
  line : Nat
  bytes : List Byte
  fill : Nat
  deriving DecidableEq, Repr

/-- A release of a narrow scope that has left before an access it follows was performed (R219, R236, R247): its thread, the core it was
issued on, its scope, its bytes, and the accesses. The parties of its instance do not see it before those are performed; those of the release of a
MEET are all but the units of seams (R233). -/
structure OpenRelease where
  tid : Nat
  core : Nat
  scope : Nat
  loc : Loc
  n : Nat
  waits : List Nat
  meet : Bool
  deriving DecidableEq, Repr

/-- A write of an engine that it makes in parts (R220): the parts left, and the places written. -/
structure Writing where
  left : List (Loc × List Byte)
  done : List (Loc × Nat)
  deriving DecidableEq, Repr

/-- A command of a queue (R267 to R269): queue, pushing thread and bundle, its record, context, level, unit id, groups and slot,
sequence number, the 64 bytes as a number, a stream binding, and the accesses that its release waits for (R231, R268); the bytes of its next read
that the engine has read, and the write under way (R220). -/
structure Cmd where
  q : Nat
  tid : Nat
  pc : W64
  recd : W64
  pid : BitVec 16
  level : Nat
  unitid : W32
  grps : W64
  slot : Nat
  seq : Nat
  words : Nat
  bind : Option Nat
  behind : List Nat
  got : List (Option Byte) := []
  writing : Writing := { left := [], done := [] }
  deriving DecidableEq, Repr

/-- A completion record in a queue, tagged with its thread (R270). -/
structure Record where
  q : Nat
  tid : Nat
  words : Nat
  deriving DecidableEq, Repr

/-- What the MXU does for one core: the accepted command, the format context it was accepted under, its next step and row, the
flags so far, whether a row handler runs, the status it ends with where it is rejected or ended (R272 to R281), and the write of a step or a row
under way (R220). -/
structure MxuRun where
  cmd : Cmd
  ctx : BitVec 128
  step : Nat
  row : Nat
  flags : Flags
  handling : Bool
  status : Nat
  stopped : Option Nat
  faddr : W64
  writing : Writing := { left := [], done := [] }
  deriving DecidableEq, Repr

/-- The watch of a core (R291). -/
structure Watch where
  start : Nat
  len : Nat
  need : Nat
  count : Nat
  pc : W64
  arg : W64
  unitid : W32
  pid : BitVec 16
  deriving DecidableEq, Repr

/-- A core: its slot table, partition word in force, histograms, queues, and the registers its engines keep for it; `slotSeq` holds the
SEQ of each slot (R11, R295). -/
structure CoreSt where
  table : BitVec 128
  newTables : List (BitVec 128 × Nat)
  tenantTable : Option (BitVec 128)
  pword : W64
  hist : List (Nat × Nat)
  slotSeq : List (Nat × Nat)
  cmds : List Cmd
  records : List Record
  fmt : BitVec 128
  mxu : List MxuRun
  progress : W64
  watch : Option Watch
  watchBusy : Bool
  landing : List (Nat × Nat)
  dstat : Nat
  deriving DecidableEq, Repr

/-- A packet that a streamer has read and converted (R282): its number, its destination, the destination bytes it fills as offset
and length, the parts to write, the places written, and the places whose flit came poisoned (R399, R400). -/
structure Packet where
  num : Nat
  dest : Nat
  spans : List (Nat × Nat)
  parts : List (Loc × List Byte)
  done : List (Loc × Nat) := []
  bad : List Loc := []
  deriving DecidableEq, Repr

/-- A copy under way (R282 to R288): source bytes read, packets still to land, the next chunk of each destination core,
the destinations whose arrival is made, and what its record will hold. -/
structure CopyRun where
  id : Nat
  core : Nat
  part : Nat
  cmd : Cmd
  readTo : Nat
  packets : List Packet
  nextPacket : Nat
  chunks : List (Nat × Nat)
  arrived : List Nat
  flags : Flags
  status : Nat
  faddr : W64
  stopped : Option Nat
  began : Nat
  deriving DecidableEq, Repr

/-- A column sum (R386 to R389): its first contribution, the contributors with the bytes read of each, the rows still to add
from the top, the sum so far, its flags, the contributions that a fault has stopped (core, cause, address), and its landing under way (R220). -/
structure SumRun where
  id : Nat
  part : Nat
  rid : Nat
  first : Cmd
  parts' : List (Nat × Cmd × Option (List Byte))
  rows : List Nat
  acc : Option (List Byte)
  flags : Flags
  status : Nat
  stops : List (Nat × Nat × Nat)
  writing : Writing := { left := [], done := [] }
  deriving DecidableEq, Repr

/-- An object of a Measure engine (R319). -/
structure MObj where
  idx : Nat
  tenant : Nat
  type : Nat
  off : Nat
  p1 : Nat
  p2 : Nat
  seq : Nat
  deriving DecidableEq, Repr

/-- An attached filter (R316 to R318). -/
structure MFilter where
  idx : Nat
  tenant : Nat
  pid : BitVec 16
  cls : Nat
  prog : List W32
  deriving DecidableEq, Repr

/-- A trigger (R320): who holds it armed, its action, the notify value, the pusher's continuation record, context, core and slot. -/
structure MTrig where
  idx : Nat
  tenant : Nat
  act : Nat
  arg : Nat
  tid : Nat
  recd : W64
  pid : BitVec 16
  core : Nat
  slot : Nat
  deriving DecidableEq, Repr

/-- Per-tenant counts of a Measure engine: USED, DROPB, DROPQ, runs, instructions, and FIRED and VALUE of each trigger held (R320, R325). -/
structure MCount where
  tenant : Nat
  used : Nat
  dropb : Nat
  dropq : Nat
  runs : Nat
  instrs : Nat
  fired : List (Nat × Nat × Nat)
  deriving DecidableEq, Repr

/-- A Measure engine (R314 to R325): its store, FIFO of events, objects, filters, triggers and counts, and in `now` the event that it has taken
with the index from which its next filter is looked for. The words of an event are followed by the model's own ninth word, the number of the
causing thread plus 1. -/
structure Measure where
  cluster : Nat
  store : Memory
  fifo : List (Nat × List W32)
  now : Option (Nat × List W32 × Nat)
  objs : List MObj
  filters : List MFilter
  trigs : List MTrig
  counts : List MCount
  samples : Nat
  busy : Nat
  deriving DecidableEq, Repr

/-- A launch (R129, R142 to R145, R168, R171): its block, the context of its units, the context whose translation reaches the block, the LPID
that a die-K successor must name, the partition, the pool entries it holds, and its counts. -/
structure Launch where
  h : Nat
  lpb : W64
  pid : BitVec 16
  fromPid : BitVec 16
  lpid : Option (BitVec 16)
  part : Nat
  dieK : Bool
  parent : Option Nat
  state : Nat
  first : Bool
  firstOfParent : Bool
  resv : Nat
  resvOfParent : Nat
  succ : Nat
  succOfParent : Nat
  live : Nat
  cnt : List (Nat × Nat)
  liv : List (Nat × Nat)
  arr : List (Nat × Nat)
  prio : Nat
  pclass : Nat
  spl : Nat
  pword : W64
  stmpl : BitVec 128
  deriving DecidableEq, Repr

/-- A WORLD switch recorded (R349, R375): quantum entry and T_g; where another partition's leased entry causes it, tenant and cycles of
that entry (R358); `afterReturn` says that it was accepted while CLASS0 held or was pending, and takes effect at RETURN's T_g. -/
structure GangReq where
  ent : Nat
  tg : Nat
  lease : Option (Nat × Nat)
  afterReturn : Bool
  deriving DecidableEq, Repr

/-- A waiter for pool entries (R143): a thread in LAUNCHW or a successor launch, what it needs, and the entries held for it from
its launch's reservation and from the free pool. -/
structure PoolWait where
  isLaunch : Bool
  id : Nat
  need : Nat
  ofParent : Nat
  free : Nat
  deriving DecidableEq, Repr

/-- What a partition holds: the entries of its pending-launch pool that are not free, the layouts of its contexts, the waiters for
entries in order, the context that holds it, the switches recorded and under way (`worldPhase` 0 none, 1 stopping, 2 saved; `class0`
pending, true for a RETURN, with its T_g), the quantum entry and tenant of the slice, whether it is leased, and its end (R133, R143, R341
to R349, R358); `next` lists the recorded switches that follow the one recorded in `world`, or the one under way (R349, R358), and `held` is
what its routers' holding buffers have taken from the mesh (R341). -/
structure PartSt where
  part : Nat
  taken : Nat
  layouts : List (BitVec 16 × W64 × BitVec 128)
  waiters : List PoolWait
  holder : Option (BitVec 16)
  world : Option GangReq
  next : List GangReq
  worldPhase : Nat
  class0 : Option (Bool × Nat)
  class0On : Bool
  entry : Nat
  tenant : Option Nat
  leased : Bool
  sliceEnd : Option Nat
  sliceLeft : Nat
  held : List Event
  deriving DecidableEq, Repr

/-- What a WORLD switch saved of a context in one partition (R343): its cores, the bytes of its scratchpads and accumulators, the
threads whose workspaces were resident, which hold them as images meanwhile, its waiters for pool entries, and the holding buffers. -/
structure SavedCtx where
  part : Nat
  tenant : Nat
  pid : Option (BitVec 16)
  cores : List (Nat × CoreSt)
  pool : Memory
  poolPoison : List Nat
  residents : List Nat
  waiters : List PoolWait
  held : List Event
  deriving DecidableEq, Repr

/-- A 4 KiB block of a log area (R212): context, block number, the core that appends into it, bytes used, and the windows and
WIN-0 owners whose entries it holds. -/
structure LogBlock where
  pid : BitVec 16
  idx : Nat
  holder : Option Nat
  used : Nat
  owners : List (Nat × Nat)
  deriving DecidableEq, Repr

/-- An invalidation under way (R208, R373). In `begun`, once its thread's earlier accesses have been performed and the entries are dropped, the
number of the first access that it does not wait for; `spans` holds the ranges of the entries dropped. -/
structure Inval where
  id : Nat
  tid : Nat
  pid : BitVec 16
  lo : Nat
  hi : Nat
  begun : Option Nat
  spans : List (Nat × Nat)
  deriving DecidableEq, Repr

/-- A KILL under way (R351, R374): the identifiers, the tenant of a KILL.T, and the cores whose q0 stood stopped at a command of theirs (R377). -/
structure KillRun where
  id : Nat
  pids : List (BitVec 16)
  tenant : Option Nat
  stopped : List Nat
  deriving DecidableEq, Repr

/-- The SW fields of a seam table in force for its round (R146). -/
structure SeamRound where
  pid : BitVec 16
  tbl : W64
  base : W64
  cap : Nat
  k : Nat
  flg : Nat
  grp : Nat
  launch : Nat
  deriving DecidableEq, Repr

/-- What befalls the hardware of itself. A soft error in a unit that carries no check of its own (R401): a parity error on the operand buses of
the MXU, and a wrong value, with the bits that are wrong, of the MXU's result, a column sum, a converted element or a Measure count; a seam
comparison that comes out the other way. A flit that comes poisoned to an engine that reads, and an error of a memory (R399): of a pool (0), the memory-side cache (1) or HBM (2), at a key or an address,
corrected or not. A router or a station of a die that has failed (R395). The end of a step of the bring-up that firmware makes, as BOOTST
names it, with the package id that it sets (R390, R412). -/
inductive Upset where
  | parity
  | mxu (bits : Nat)
  | sum (bits : Nat)
  | convert (bits : Nat)
  | seam
  | count (bits : Nat)
  | flit
  | memory (place at' : Nat) (fixed : Bool)
  | unit (die : Nat)
  | boot (v id : Nat)
  deriving DecidableEq, Repr

/-- What an engine does ahead of the rest of a step of its (R220): it reads or writes an aligned 4 bytes, which `k` chooses, or a batch counts as finished
while bytes of its last copy are still to be performed (R232, R406). -/
inductive Ahead where
  | read (k : Nat)
  | write (k : Nat)
  | batch
  deriving DecidableEq, Repr

/-- How the bundle that runs has gone so far. -/
inductive Flow where
  | done
  | stalled
  | trapped (cause : Nat) (val : W64) (flags : Flags)
  | suspended
  deriving DecidableEq, Repr

/-- What stood before the bundle, for the second word of a pair (R49): the pools, their poison marks and the thread; `seeded` says
that the first word has written SRSEED (R50). -/
structure Pre where
  pool : Memory
  poison : List Nat
  cur : Thread
  seeded : Bool
  deriving DecidableEq, Repr

/-- The package. `ts` is its count of cycles, and `skew` says how far the timestamp counter of a die is before it (R385). `roNext` numbers the fills of the read-only buffers (R225),
`opens` holds the releases that have left and are not to be seen yet (R233, R236), `ended` handle, block and context of the completed launches of which a
thread lives (R172), `mxLast` the core each cluster's MXU served last (R274), `debugNotices` the
notices that are a debugger's (R352), `upsets` what is to befall the hardware (R390, R395, R399, R401, R412), and `ahead` what its engines move ahead
of the rest of their steps (R220). -/
structure State where
  ts : Nat
  skew : List (Nat × Nat)
  cur : Thread
  threads : List Thread
  cores : List (Nat × CoreSt)
  pool : Memory
  hbm : Memory
  sys : Memory
  poolPoison : List Nat
  hbmPoison : List Nat
  accesses : List Access
  tlb : List TlbEntry
  ro : List RoLine
  roNext : Nat
  opens : List OpenRelease
  launches : List Launch
  ended : List (Nat × W64 × BitVec 16)
  parts : List PartSt
  saved : List SavedCtx
  seams : List SeamRound
  logBlocks : List LogBlock
  copies : List CopyRun
  sums : List SumRun
  measure : List Measure
  invals : List Inval
  kills : List KillRun
  revokedAt : List (Nat × Nat)
  wnext : List (BitVec 16 × Nat)
  vcyc : List (BitVec 16 × Nat)
  budgets : List (Nat × Nat)
  linksDown : List Link
  linksWait : List Link
  mxLast : List (Nat × Nat)
  debugNotices : List (BitVec 16 × W64 × W64)
  imageVer : Nat
  pkgId : Nat
  quote : List Byte
  agenda : List Event
  turns : List Nat
  issue : Option W64
  -- the model's own fields
  sched : List Nat
  upsets : List Upset
  ahead : List Ahead
  choices : List Nat
  drawn : Nat
  freeNext : Nat
  nextTid : Nat
  nextId : Nat
  nextEnq : Nat
  pre : Option Pre
  flow : Flow
  deriving DecidableEq, Repr

/-- The `rr` slot table: entry i names slot i mod 16 (R122, R131). -/
def rrTable : BitVec 128 := 0xFEDCBA9876543210FEDCBA9876543210

/-- A core at reset (R122, R273, R280). -/
def CoreSt.reset : CoreSt :=
  { table := rrTable, newTables := [], tenantTable := none, pword := 0, hist := [], slotSeq := [], cmds := [], records := [],
    fmt := 0, mxu := [], progress := 0, watch := none, watchBusy := false, landing := [], dstat := 0 }

/-- The number of control core 0. Control cores of die K are numbered 4096 to 4127 here, after the compute cores (log
entry 12, DESIGN CHOICE). -/
def ctlCore0 : Nat := 4096

/-- A thread with the creation values of R9, R126 and R372, on a core, at a privilege level. -/
def Thread.make (tid core slot priv : Nat) (pid : BitVec 16) : Thread :=
  { tid := tid, state := .running, pc := 0, npc := 0, core := core, slot := slot, home := true, priv := priv
    pid := pid, part := 0, wp := 0, ring := 0, spilled := 0, lmask := 0xFFFFFFFF, mcnt := 1, unitid := 0
    unitidx := 0, draw := 0, spill := 0, slim := 0, lnch := 0, grps := 0, depth := 0, key := 0, prio := 0
    pclass := 0, enq := 0, enqTs := 0, idleTs := 0, sender := if ctlCore0 ≤ core then core else core / 4
    place := .nowhere, recd := 0, img := none, imgPoison := [], extents := none, wincur := 0
    unpicking := false, forfeit := 0, pend := [], wrote := [], holds := [], wait := none, waitFrom := 0, held := []
    ibnd := 0, forf := 0, memw := 0, msgw := 0, qpsh := 0, latch := none, fences := 0, roFrom := 0, dispatch := [], bnext := 1
    unsealed := [], batches := [], streams := [], heldAsync := [], trapNext := none, lastFault := 0, crowns := [], crownWait := none, queueWait := none
    handler := none, stepsLeft := none, stopNext := false, slotHeld := false, turnsLeft := none, retireNext := false, seam := none
    answer := [], fetched := none, heldStores := [] }

/-- A core's pool starts at this key of the pool memory: core number and LOC offset, as an NBR address holds them (R197). -/
def poolKey (core off : Nat) : Nat := core * 2 ^ 20 + off

/-- The status block of a new workspace: STAT and the MCNT mirror 1, all else 0 (R9). -/
def newStatus (m : Memory) (base : Nat) : Memory := (m.writeNat (base + 0x180) 1 1).writeNat (base + 0x18C) 1 1

/-- The system memory at reset: the power block holds PCAP 2400, FLOOR 16, NOW 32 (R414), every other listed word is 0. WNEXT
of a context, whose initial value is 1 (R209), stands in the field `wnext`, which lists the contexts where it is not 1. -/
def sysReset : Memory :=
  Memory.empty.writeNat 0x104016000 8 (2400 * 2 ^ 40 + 16 * 2 ^ 28 + 32 * 2 ^ 16)

/-- The package right after reset (R409): only die K runs, control core 0 holds the boot thread at firmware level, and the
boot ROM's step is the one thing pending. Log entries 9 and 13 name the values the spec does not give. -/
def State.reset : State :=
  { ts := 0, skew := [], cur := Thread.make 0 ctlCore0 0 3 0, threads := [], cores := []
    pool := newStatus Memory.empty (poolKey ctlCore0 0), hbm := Memory.empty, sys := sysReset
    poolPoison := [], hbmPoison := [], accesses := [], tlb := [], ro := [], roNext := 0, opens := [], launches := [], ended := [], parts := []
    saved := [], seams := [], logBlocks := [], copies := [], sums := [], measure := [], invals := [], kills := []
    revokedAt := [], wnext := [], vcyc := [], budgets := [], linksDown := [], linksWait := [], mxLast := []
    debugNotices := [], imageVer := 0, pkgId := 0
    quote := [], agenda := [.reset], turns := []
    issue := none, sched := [], upsets := [], ahead := [], choices := [], drawn := 0, freeNext := 0, nextTid := 1, nextId := 0, nextEnq := 0
    pre := none, flow := .done }

end Sys2Proof.Machine
end

