-- ==== Sys2Proof/Machine/Ops.lean ====
section
/-!
DEFINITION. The named operations: registers and the status block through the workspace in the pool, guards, flags,
draws, threads and the agenda, and taking an exception (R21, R22, R331, R333) with the return from one (R364).
-/
namespace Sys2Proof.Machine

/-! ### Geometry -/

/-- The die of a core; control cores lie on die K, numbered 4. -/
def dieOf (core : Nat) : Nat := if ctlCore0 ≤ core then 4 else core / 1024
/-- The cluster of a compute core, as R325 numbers them. -/
def clusterOf (core : Nat) : Nat := core / 4
/-- Is a core a control core. -/
def isCtl (core : Nat) : Bool := decide (ctlCore0 ≤ core)
/-- The router of a core: its cluster's, or a control core's own. -/
def routerOf (core : Nat) : Nat := if isCtl core then core else clusterOf core
/-- The timestamp of a core's die (R385): the counters of the dies agree within 2 cycles (log entry 98, DESIGN CHOICE). -/
def tsOf (s : State) (core : Nat) : Nat :=
  s.ts + Nat.min 2 (((s.skew.find? fun d => d.1 == dieOf core).map (·.2)).getD 0)
/-- Key of a thread's workspace in the pool memory. -/
def wsKey (t : Thread) : Nat := poolKey t.core t.wp

/-! ### System registers (R407) -/

/-- Context descriptor of an identifier (R209). -/
def descAt (pid : BitVec 16) : Nat := 0x100000000 + 0x40 * pid.toNat
/-- Context service block (R332). -/
def svcAt (pid : BitVec 16) : Nat := 0x100400000 + 0x40 * pid.toNat
/-- A dword of system memory. -/
def sysQ (s : State) (a : Nat) : Nat := s.sys.readNat a 8
/-- A word of system memory. -/
def sysW (s : State) (a : Nat) : Nat := s.sys.readNat a 4
/-- CSTATE of an identifier (R209). -/
def cstate (s : State) (pid : BitVec 16) : Nat := sysW s (descAt pid + 0x24)
/-- LOGC.STRICT (R209). -/
def strictLog (s : State) (pid : BitVec 16) : Bool := bitAt (sysQ s (descAt pid + 0x18)) 2

/-! ### Cores -/

/-- The first value under a key. -/
def assocGet {α : Type} : List (Nat × α) → Nat → Option α
  | [], _ => none
  | (k, v) :: rest, a => if k = a then some v else assocGet rest a

/-- The list with a value under a key, keys rising. -/
def assocPut {α : Type} : List (Nat × α) → Nat → α → List (Nat × α)
  | [], a, v => [(a, v)]
  | (k, w) :: rest, a, v =>
    if a < k then (a, v) :: (k, w) :: rest
    else if k = a then (a, v) :: rest
    else (k, w) :: assocPut rest a v

/-- A core; one that nothing has changed yet is as at reset. A control core has 64 workspaces of one frame (log entry 13, DESIGN CHOICE). -/
def State.core (s : State) (c : Nat) : CoreSt :=
  (assocGet s.cores c).getD (if isCtl c then { CoreSt.reset with pword := 64 } else CoreSt.reset)
/-- Change a core. -/
def State.modCore (s : State) (c : Nat) (f : CoreSt → CoreSt) : State :=
  { s with cores := assocPut s.cores c (f (s.core c)) }
/-- A counter kept under a key, 0 where unlisted. -/
def countGet (l : List (Nat × Nat)) (k : Nat) : Nat := (assocGet l k).getD 0
/-- Change a counter. -/
def countMod (l : List (Nat × Nat)) (k : Nat) (f : Nat → Nat) : List (Nat × Nat) := assocPut l k (f (countGet l k))

/-- The first `n` elements of a list that satisfy a test, and all that do not. -/
def keepFirst {α : Type} (f : α → Bool) : Nat → List α → List α
  | _, [] => []
  | n, x :: rest =>
    if f x then
      match n with
      | 0 => keepFirst f 0 rest
      | m + 1 => x :: keepFirst f m rest
    else x :: keepFirst f n rest

/-! ### Threads -/

/-- A thread by its number; the current one first. -/
def State.thread? (s : State) (tid : Nat) : Option Thread :=
  if s.cur.tid = tid ∧ s.cur.state ≠ .free then some s.cur else s.threads.find? fun t => t.tid == tid
/-- Change a thread. -/
def State.modThread (s : State) (tid : Nat) (f : Thread → Thread) : State :=
  if s.cur.tid = tid then { s with cur := f s.cur }
  else { s with threads := s.threads.map fun t => if t.tid = tid then f t else t }
/-- Change the current thread. -/
def State.modCur (s : State) (f : Thread → Thread) : State := { s with cur := f s.cur }
/-- All live threads. -/
def State.allThreads (s : State) : List Thread :=
  (if s.cur.state = .free then [] else [s.cur]) ++ s.threads.filter fun t => t.state ≠ .free
/-- Add steps to the agenda. -/
def State.later (s : State) (es : List Event) : State := { s with agenda := s.agenda ++ es }
/-- Pointer to a thread's continuation record (R126). -/
def recordOf (s : State) (tid : Nat) : W64 :=
  match s.thread? tid with
  | some t => t.recd
  | none => 0
/-- The thread a continuation record belongs to. -/
def State.threadOfRecord? (s : State) (pid : BitVec 16) (r : W64) : Option Thread :=
  s.allThreads.find? fun t => t.recd == r && t.pid == pid

/-- Make a thread the current one. -/
def switchTo (s : State) (tid : Nat) : State :=
  if s.cur.tid = tid ∧ s.cur.state ≠ .free then s
  else
    match s.threads.find? fun t => t.tid == tid with
    | none => s
    | some t =>
      { s with
        cur := t
        threads := (s.threads.filter fun u => u.tid ≠ tid) ++ (if s.cur.state = .free then [] else [s.cur]) }

/-! ### Taps and free values -/

/-- Would the Measure engine of a cluster do nothing with an event of a class and tenant but take it from its FIFO at once: no filter takes
it, the engine is idle, and no event stands or travels before it. -/
def passesEngine (s : State) (cluster tenant cls : Nat) : Bool :=
  !(s.measure.any fun m => m.cluster == cluster &&
    ((m.filters.any fun f => f.tenant == tenant && f.cls == cls) || !m.fifo.isEmpty || m.now.isSome || decide (s.ts < m.busy))) &&
    !s.agenda.any fun e => match e with
      | .measureEvent k _ _ => k == cluster
      | _ => false

/-- A tap of a Measure engine sees an event (R315, R316). One that an idle engine would take from its FIFO without any effect is left out
(log entry 22, DEDUCED). -/
def tapEvent (s : State) (core slot tenant cls : Nat) (pc unitid tid : Nat) (w : List Nat) : State :=
  if !passesEngine s (clusterOf core) tenant cls then
    s.later [.measureEvent (clusterOf core) (BitVec.ofNat 8 tenant)
      (([tsOf s core, core + slot * 2 ^ 12 + tenant * 2 ^ 16 + cls * 2 ^ 24, pc, unitid] ++ w ++ [tid]).map (BitVec.ofNat 32))]
  else s

/-- An event that a thread causes. -/
def tapThread (s : State) (t : Thread) (cls : Nat) (w : List Nat) : State :=
  tapEvent s t.core t.slot (t.pid.toNat / 256) cls t.pc.toNat t.unitid.toNat (t.tid + 1) w

/-- A fresh free value of `n` bytes. -/
def freshValue (s : State) (n : Nat) : Nat × State :=
  (leNat ((upTo n).map (Config.freeByte s.freeNext)), { s with freeNext := s.freeNext + 1 })

/-- The next soft error of a unit without a check of its own, if it is of a kind (R401): the list `upsets` holds what befalls the hardware, in
order, and a soft error strikes the next operation of its kind (log entry 106, DESIGN CHOICE). -/
def takeUpset {α : Type} (s : State) (f : Upset → Option α) : Option α × State :=
  match s.upsets with
  | [] => (none, s)
  | u :: rest =>
    match f u with
    | some x => (some x, { s with upsets := rest })
    | none => (none, s)

/-- Bytes with the wrong bits of a soft error, the first of them `off` bytes into what it strikes. -/
def upsetBytes (u : Option Nat) (off : Nat) (l : List Byte) : List Byte :=
  match u with
  | none => l
  | some b => leBytes l.length (Nat.xor (leNat l) (b / 2 ^ (8 * off)))

/-! ### Registers: the second word of a pair reads what stood before the bundle (R49, R50) -/

/-- The thread as it was before the bundle. -/
def rcur (s : State) : Thread :=
  match s.pre with
  | some p => p.cur
  | none => s.cur
/-- The pools as they were before the bundle. -/
def rpool (s : State) : Memory :=
  match s.pre with
  | some p => p.pool
  | none => s.pool
/-- The poison marks of the pools as they were before the bundle. -/
def rpoison (s : State) : List Nat :=
  match s.pre with
  | some p => p.poison
  | none => s.poolPoison
/-- Key of the workspace that this word reads and writes. -/
def wsOf (s : State) : Nat := wsKey (rcur s)

/-- A general register; x0 reads as zero (R7). -/
def getX (s : State) (n : Nat) : W64 :=
  if n = 0 then 0 else BitVec.ofNat 64 ((rpool s).readNat (wsOf s + 8 * n) 8)
/-- Bits of the 8-byte granules a write covers wholly lose their poison (R400). -/
def unpoison (l : List Nat) (lo n : Nat) : List Nat := l.filter fun g => ¬ (lo ≤ 8 * g ∧ 8 * g + 8 ≤ lo + n)
/-- Write bytes of the pools. -/
def putPool (s : State) (a n v : Nat) : State :=
  { s with pool := s.pool.writeNat a n v, poolPoison := unpoison s.poolPoison a n }
/-- In each of `f` workspaces from an address the word of x0 holds zero (R7), and bit 0 of STAT is set, since p0 is always true (R9; log entry
120, DEDUCED). -/
def fixFrames (m : Memory) (a f : Nat) : Memory :=
  (upTo f).foldl (fun m i =>
    let b := a + 0x800 * i
    (m.clear b (b + 8)).write (b + 0x180) (m.read (b + 0x180) ||| 1)) m
/-- The workspaces of a ring in the pools are so. -/
def fixRing (s : State) (k f : Nat) : State :=
  { s with pool := fixFrames s.pool k f, poolPoison := (upTo f).foldl (fun l i => unpoison l (k + 0x800 * i) 8) s.poolPoison }
/-- Write a general register; a write to x0 is discarded, whatever else the instruction does (R7, R73). -/
def setX (s : State) (n : Nat) (v : W64) : State := if n = 0 then s else putPool s (wsOf s + 8 * n) 8 v.toNat
/-- An interval register. -/
def getIv (s : State) (n : Nat) : Ival :=
  { lo := (rpool s).readNat (wsOf s + 0x100 + 8 * n) 4, hi := (rpool s).readNat (wsOf s + 0x104 + 8 * n) 4 }
/-- Write an interval register. -/
def setIv (s : State) (n : Nat) (i : Ival) : State :=
  putPool s (wsOf s + 0x100 + 8 * n) 8 (i.lo % 2 ^ 32 + 2 ^ 32 * (i.hi % 2 ^ 32))
/-- `n` values of `w` bytes from an address. -/
def laneList (m : Memory) (w a : Nat) : Nat → List Nat
  | 0 => []
  | n + 1 => m.readNat a w :: laneList m w (a + w) n
/-- The bytes of values of `w` bytes. -/
def laneBytes (w : Nat) (l : List Nat) : List Byte := l.flatMap fun v => leBytes w v
/-- Lanes of a vector register (R173). -/
def getV (s : State) (n : Nat) : List Nat := laneList (rpool s) 4 (wsOf s + 0x400 + 0x40 * n) 16
/-- Bytes of a vector register. -/
def getVBytes (s : State) (n : Nat) : List Byte := (rpool s).readBytes (wsOf s + 0x400 + 0x40 * n) 64
/-- Write bytes of the pools from a list. -/
def putPoolBytes (s : State) (a : Nat) (l : List Byte) : State :=
  { s with pool := s.pool.writeBytes a l, poolPoison := unpoison s.poolPoison a l.length }
/-- Write a vector register, lane by lane. -/
def setV (s : State) (n : Nat) (l : List Nat) : State :=
  putPoolBytes s (wsOf s + 0x400 + 0x40 * n) (laneBytes 4 l)
/-- A field of the status block or the linkage, as this word reads it. -/
def getSt (s : State) (off n : Nat) : Nat := (rpool s).readNat (wsOf s + off) n
/-- The same field as it stands now, with what the other word has written. -/
def liveSt (s : State) (off n : Nat) : Nat := s.pool.readNat (wsOf s + off) n
/-- Write such a field. -/
def setSt (s : State) (off n v : Nat) : State := putPool s (wsOf s + off) n v
/-- A predicate; p0 reads 1 (R9). -/
def getP (s : State) (n : Nat) : Bool := n == 0 || bitAt (getSt s 0x180 4) n
/-- Write a predicate; a write to p0 is discarded. -/
def setP (s : State) (n : Nat) (b : Bool) : State :=
  if n = 0 then s else setSt s 0x180 4 (setBits (liveSt s 0x180 4) n 1 (b2n b))
/-- Set or clear a bit of STAT: MPASS 10, LOST 11, INTRAP 12, NP 8, EM 9 (R9). -/
def setStat (s : State) (bit : Nat) (b : Bool) : State :=
  setSt s 0x180 4 (setBits (liveSt s 0x180 4) bit 1 (b2n b))
/-- FMODE as this word reads it. -/
def fmode (s : State) : Nat := getSt s 0x188 4
/-- Is the guard true (R53). -/
def guardOn (s : State) (g : BitVec 4) : Bool := getP s (g.toNat % 8) != bitAt g.toNat 3
/-- The bundle that runs. -/
def bundleNow (s : State) : W64 := s.issue.getD 0
/-- NOPEN and NFIX of the thread (R214). -/
def nopen (s : State) : Nat := getSt s 0x193 1
/-- NFIX. -/
def nfix (s : State) : Nat := getSt s 0x192 1
/-- The partition word a thread lives under on a core: a class-0 launch brings its own (R130, R348). -/
def pwordOf (s : State) (t : Thread) (core : Nat) : W64 :=
  match s.launches.find? fun l => l.h == t.lnch && t.pclass == 0 with
  | some l => l.pword
  | none => (s.core core).pword
/-- F of the thread: frame ring from its partition word, 1 in a reserved slot (R130, R290). -/
def frameRing (s : State) (t : Thread) : Nat :=
  if t.handler.isSome then 1 else bits (pwordOf s t t.core).toNat 24 3 + 1

/-! ### Exceptions -/

/-- Trap causes (R362). -/
def cILLEG : Nat := 0x01
/-- PRIV. -/
def cPRIV : Nat := 0x02
/-- ALIGN. -/
def cALIGN : Nat := 0x03
/-- ADDR. -/
def cADDR : Nat := 0x04
/-- PAGE. -/
def cPAGE : Nat := 0x05
/-- PROT. -/
def cPROT : Nat := 0x06
/-- REVOKED. -/
def cREVOKED : Nat := 0x07
/-- POISON. -/
def cPOISON : Nat := 0x08
/-- FPE. -/
def cFPE : Nat := 0x09
/-- ASYNC. -/
def cASYNC : Nat := 0x0A
/-- STACKOVF. -/
def cSTACKOVF : Nat := 0x0B
/-- LOGFULL. -/
def cLOGFULL : Nat := 0x0C
/-- FIXEDWIN. -/
def cFIXEDWIN : Nat := 0x0D
/-- MEETWIN. -/
def cMEETWIN : Nat := 0x0E
/-- QUEUE. -/
def cQUEUE : Nat := 0x0F
/-- BRK. -/
def cBRK : Nat := 0x10
/-- WATCH. -/
def cWATCH : Nat := 0x11
/-- TRAP. -/
def cTRAP : Nat := 0x12

/-- Access kinds of a notification (R333): 15 is none. -/
def kindCode : AccKind → Nat
  | .load => 0
  | .store => 1
  | .atomic => 2
  | .fetch => 3

/-- x2 of a notification (R333). -/
def stopWord (code kind path core slot : Nat) : W64 :=
  BitVec.ofNat 64 (code + kind * 2 ^ 8 + path * 2 ^ 12 + core % 4096 * 2 ^ 16 + slot * 2 ^ 28)

/-- A stop of the debugger's kind is notified; it is noted as one when it happens, whatever becomes of the thread before the notification
arrives (R331, R333, R352). -/
def debugNotice (s : State) (t : Thread) (x2 x3 : W64) : State :=
  { s.later [.faultNotification t.pid t.recd x2 x3 0] with debugNotices := s.debugNotices ++ [(t.pid, t.recd, x2)] }

/-- The thread leaves its slot in state FAULT with a stop code, to resume at `at`, and the context's fault service is
notified (R331, R333). -/
def suspendFault (s : State) (code kind path : Nat) (x3 x4 : W64) (resumeAt : W64) : State :=
  let t := s.cur
  { (s.later [.faultNotification t.pid t.recd (stopWord code kind path t.core t.slot) x3 x4]) with
    cur := { t with state := .fault, npc := resumeAt, lastFault := x3, wait := none }
    flow := .suspended }

/-- Steps 1 to 3 of R21 in the current workspace: TCAUSE, TVAL, TPC, INTRAP, and the flags an FPE raises (R23). -/
def trapFields (s : State) (cause : Nat) (val : W64) (flags : Flags) : State :=
  let k := wsKey s.cur
  let m1 := s.pool.writeNat (k + 0x198) 8 (cause + s.cur.priv * 2 ^ 8)
  let m2 := m1.writeNat (k + 0x1A0) 8 val.toNat
  let m3 := m2.writeNat (k + 0x1A8) 8 s.cur.pc.toNat
  let m4 := m3.writeNat (k + 0x180) 4 (setBits (m3.readNat (k + 0x180) 4) 12 1 1)
  let m5 := if flags = 0 then m4 else m4.writeNat (k + 0x184) 4 (m4.readNat (k + 0x184) 4 ||| flags.toNat)
  { s with pool := m5, poolPoison := unpoison s.poolPoison (k + 0x198) 24 }

/-- TAKE AN EXCEPTION (R21). While INTRAP is set the thread is suspended with the second cause instead, and its
fields stand (R22). A TVEC that no target may hold suspends it too, after the fields are written (R11). -/
def takeTrap (s : State) (cause : Nat) (val : W64) (flags : Flags) : State :=
  let k := wsKey s.cur
  let inTrap := bitAt (s.pool.readNat (k + 0x180) 4) 12
  if inTrap then
    let s1 := if flags = 0 then s else
      { s with pool := s.pool.writeNat (k + 0x184) 4 (s.pool.readNat (k + 0x184) 4 ||| flags.toNat) }
    { (suspendFault s1 cause 15 0 val 0 s.cur.pc) with flow := .trapped cause val flags }
  else
    let s1 := trapFields s cause val flags
    let tvec := s.pool.readNat (k + 0x1D8) 8
    let s2 := { s1 with cur := { s1.cur with priv := 1 } }
    if bits tvec 57 7 ≠ 0 then
      { (suspendFault s2 cADDR 15 0 (BitVec.ofNat 64 tvec) 0 s.cur.pc) with flow := .trapped cause val flags }
    else if bits tvec 0 3 ≠ 0 then
      { (suspendFault s2 cALIGN 15 0 (BitVec.ofNat 64 tvec) 0 s.cur.pc) with flow := .trapped cause val flags }
    else
      tapThread { s2 with
        cur := { s2.cur with npc := BitVec.ofNat 64 tvec, wait := none }
        flow := .trapped cause val flags } s.cur 5 [cause, val.toNat, 0, 0]

/-- A trap without flags. -/
def trap (s : State) (cause : Nat) (val : W64) : State := takeTrap s cause val 0

/-- Raise flags: they are ORed into FFLAGS, and an enabled one is one precise FPE trap (RAISE of R63, R23). -/
def raiseFlags (s : State) (f : Flags) (k : State → State) : State :=
  if f &&& BitVec.ofNat 5 (bits (fmode s) 3 5) ≠ 0 then takeTrap s cFPE 0 f
  else if f = 0 then k s
  else k (setSt s 0x184 4 (liveSt s 0x184 4 ||| f.toNat))

/-- The bundle does not complete; it issues again later. -/
def stall (s : State) (w : Wait) : State :=
  { s with cur := { s.cur with npc := s.cur.pc, wait := some w, waitFrom := if s.cur.wait.isSome then s.cur.waitFrom else s.ts }
           flow := .stalled }

/-- A privileged instruction below its level takes PRIV with the bundle in TVAL (R16, R361). -/
def needLevel (lvl : Nat) (s : State) (k : State → State) : State :=
  if s.cur.priv < lvl then trap s cPRIV (bundleNow s) else k s

/-- An instruction with a false guard has no effect (R15). -/
def guarded (g : BitVec 4) (s : State) (k : State → State) : State := if guardOn s g then k s else s

/-- In a reserved slot the instruction takes PROT with the bundle in TVAL (R290). -/
def notReserved (s : State) (k : State → State) : State :=
  if s.cur.handler.isSome then trap s cPROT (bundleNow s) else k s

/-- Turns forfeited by the opcode, whatever its guard (R70, R109). They add to those of the bundle's subnormals, to 7 turns where both
are due (log entry 100, DESIGN CHOICE). -/
def forfeits (n : Nat) (s : State) : State := { s with cur := { s.cur with forfeit := s.cur.forfeit + n } }

/-- The bundle holds a counting operation with a subnormal operand or result: 4 turns, once for each bundle (R27). Only
one word of a bundle can count, so the turns are added where it runs; they add to the opcode's own (log entry 100, DESIGN CHOICE). -/
def subnormalTurns (c : Bool) (s : State) : State := if c then forfeits 4 s else s

/-- An instruction that rounds under FMODE takes ILLEG when FMODE holds a reserved value (R10). -/
def roundingMode (s : State) (k : Rm → State) : State :=
  match rmOf (bits (fmode s) 0 3) with
  | some rm => if bits (fmode s) 10 22 ≠ 0 then trap s cILLEG (BitVec.ofNat 64 (fmode s)) else k rm
  | none => trap s cILLEG (BitVec.ofNat 64 (fmode s))

/-- One draw of the thread's stream as a whole 32-bit hash value (R34). Where both words of a pair draw, each of them reads the DRAW from
before the bundle, as R49 has it read its registers (log entry 99, DESIGN CHOICE). -/
def drawOut (s : State) (i : Nat) : W32 :=
  rndc (BitVec.ofNat 64 (getSt s 0x1D0 8))
    (BitVec.ofNat 64 ((rcur s).unitid.toNat * 2 ^ 32 + ((rcur s).draw.toNat + i) % 2 ^ 32))

/-- The 24-bit draw u of R34, the `i`-th of the instruction. -/
def drawU (s : State) (i : Nat) : Nat := (drawOut s i).toNat / 256

/-- DRAW after `n` draws more. Where the other word is a WRSR to SRSEED, DRAW stays the 0 that it set (R50). -/
def advanceDraw (s : State) (n : Nat) : State :=
  if s.pre.any (·.seeded) then s else { s with cur := { s.cur with draw := s.cur.draw + BitVec.ofNat 32 n } }

/-- A fresh number of the hardware's uniform generator below `n` (R140, R141): the oracle list, then a free value. -/
def randomBelow (s : State) (n : Nat) : Nat × State :=
  match s.choices with
  | c :: rest => (c % n, { s with choices := rest })
  | [] => (Config.hardwareRandom s.drawn % n, { s with drawn := s.drawn + 1 })

/-- A target of a transfer: ADDR before ALIGN (R94, R14). -/
def checkTarget (s : State) (t : W64) (k : State → State) : State :=
  if bits t.toNat 57 7 ≠ 0 then trap s cADDR t
  else if bits t.toNat 0 3 ≠ 0 then trap s cALIGN t
  else k s

/-- Go to a checked target. -/
def goTo (s : State) (t : W64) : State := checkTarget s t fun s => { s with cur := { s.cur with npc := t } }

/-- RETURN FROM AN EXCEPTION (R364): INTRAP clear, the saved level, the pc at TPC. A held ASYNC is then taken with TPC :=
the return address (R336). -/
def returnFromTrap (s : State) : State :=
  let lvl := bits (getSt s 0x198 8) 8 2
  let t : W64 := BitVec.ofNat 64 (getSt s 0x1A8 8)
  if s.cur.priv < lvl then trap s cPRIV (bundleNow s)
  else checkTarget s t fun s =>
    let s1 := setStat s 12 false
    let s2 := { s1 with cur := { s1.cur with priv := lvl, npc := t } }
    match s2.cur.heldAsync with
    | [] => s2
    | v :: rest =>
      let s3 := { s2 with cur := { s2.cur with pc := t, heldAsync := rest } }
      { (takeTrap s3 cASYNC v 0) with flow := .done }

/-- A general register operand field. -/
def rX (s : State) (f : BitVec 5) : W64 := getX s f.toNat
/-- Write a general register field. -/
def wX (s : State) (f : BitVec 5) (v : W64) : State := setX s f.toNat v
/-- The low 32 bits of a general register, an FP32 operand (R69). -/
def rF (s : State) (f : BitVec 5) : Nat := (getX s f.toNat).toNat % 2 ^ 32
/-- Write an FP32 result, zero-extended (R69). -/
def wF (s : State) (f : BitVec 5) (v : Nat) : State := setX s f.toNat (BitVec.ofNat 64 (v % 2 ^ 32))

end Sys2Proof.Machine
end

