-- ==== Sys2Proof/Machine/Operands.lean ====
section
/-!
DEFINITION. Operand forms: how the fields of the formats name operands and where results go (R54 to R57), once for all
instructions of one shape.
-/
namespace Sys2Proof.Machine

/-- What a meaning answers. -/
abbrev Result := Host.Outcome State Fault Refusal

/-- Register, register to register. -/
def formRRR (f : W64 → W64 → W64) (d a b : BitVec 5) (g : BitVec 4) (s : State) : State :=
  guarded g s fun s => wX s d (f (rX s a) (rX s b))

/-- Register to register. -/
def formRR (f : W64 → W64) (d a : BitVec 5) (g : BitVec 4) (s : State) : State :=
  guarded g s fun s => wX s d (f (rX s a))

/-- The 12-bit immediate, sign-extended (R57, R80). -/
def imm12 (i : BitVec 12) : W64 := sextN i.toNat 12

/-- Register and immediate to register (R80). -/
def formRI (f : W64 → W64 → W64) (d a : BitVec 5) (i : BitVec 12) (g : BitVec 4) (s : State) : State :=
  guarded g s fun s => wX s d (f (rX s a) (imm12 i))

/-- Register and shift amount to register (R80). -/
def formRS (f : W64 → Nat → W64) (d a : BitVec 5) (n : BitVec 6) (g : BitVec 4) (s : State) : State :=
  guarded g s fun s => wX s d (f (rX s a) n.toNat)

/-- A shift amount in a register: its low 6 bits (R77). -/
def shiftBy (v : W64) : Nat := v.toNat % 64

/-- The 32-bit extension of a long form, sign-extended (R51). -/
def extS (e : W32) : W64 := sextN e.toNat 32

/-- Interval operands to interval (R114). -/
def formIII (f : Ival → Ival → Ival) (d a b : BitVec 4) (g : BitVec 4) (s : State) : State :=
  guarded g s fun s => setIv s d.toNat (f (getIv s a.toNat) (getIv s b.toNat))

/-- A pair of predicates pk, pk+1. -/
def setPPair (s : State) (k : Nat) (r : Bool × Bool) : State := setP (setP s k r.1) (k + 1) r.2

/-- The lanes of a vector operation on two sources. -/
def lanes2 (f : Nat → Nat → Nat) (a b : List Nat) : List Nat := List.zipWith f a b

/-- Vector operands to vector, no flags. -/
def formVVV (f : Nat → Nat → Nat) (d a b : BitVec 4) (g : BitVec 4) (s : State) : State :=
  guarded g s fun s => setV s d.toNat (lanes2 f (getV s a.toNat) (getV s b.toNat))

/-- A list with the value at an index replaced. -/
def setAt {α : Type} : List α → Nat → α → List α
  | [], _, _ => []
  | _ :: rest, 0, v => v :: rest
  | x :: rest, n + 1, v => x :: setAt rest n v

/-- The intervals of a vector interval operand: pair register `k` names v2k and v2k+1 (R189). -/
def getVI (s : State) (k : BitVec 3) : List Ival :=
  List.zipWith (fun l h => { lo := l, hi := h : Ival }) (getV s (2 * k.toNat)) (getV s (2 * k.toNat + 1))

/-- Write a vector interval. -/
def setVI (s : State) (k : BitVec 3) (l : List Ival) : State :=
  setV (setV s (2 * k.toNat) (l.map (·.lo))) (2 * k.toNat + 1) (l.map (·.hi))

/-- A two's complement field counted in units, added to a base mod 2^64 (R57). -/
def plusOff (base : W64) (off len unit : Nat) : W64 := base + sextN off len * BitVec.ofNat 64 unit

/-- The destinations of a bundle's word as the spec counts them for conflicts (R50), x0 and p0 left out. -/
def regX (f : BitVec 5) : List RegName := if f = 0 then [] else [.x f.toNat]
/-- A predicate destination. -/
def regP (n : Nat) : List RegName := if n = 0 then [] else [.p n]

end Sys2Proof.Machine
end

