-- ==== Sys2Proof/Machine/Flags.lean ====
section
/-!
DEFINITION. Instructions that raise IEEE flags: the scalar and vector shapes (R26, R87, R174), once for all of them, with
the subnormal turns of R27.
-/
namespace Sys2Proof.Machine

/-- FP32 operation on two registers, rounded under FMODE.RM (R87). -/
def formFFF (f : Rm → Nat → Nat → Nat × Flags) (d a b : BitVec 5) (g : BitVec 4) (s : State) : State :=
  guarded g s fun s => roundingMode s fun rm =>
    let x := rF s a
    let y := rF s b
    let r := f rm x y
    raiseFlags s r.2 fun s => subnormalTurns (anySubnormal [x, y, r.1]) (wF s d r.1)

/-- FP32 operation that rounds nothing, on two registers (R89). -/
def formFMinMax (least : Bool) (d a b : BitVec 5) (g : BitVec 4) (s : State) : State :=
  guarded g s fun s =>
    let r := fminmax least (rF s a) (rF s b)
    raiseFlags s r.2 fun s => wF s d r.1

/-- The OR of the flags of all lanes. -/
def orFlags (l : List (Nat × Flags)) : Flags := l.foldl (fun f r => f ||| r.2) 0

/-- Write the lanes of a vector result and raise their flags; `ops` are the FP32 patterns whose subnormals cost turns. -/
def laneResult (s : State) (d : BitVec 4) (r : List (Nat × Flags)) (counts : Bool) (ops : List Nat) : State :=
  raiseFlags s (orFlags r) fun s =>
    subnormalTurns (counts && anySubnormal (ops ++ r.map (·.1))) (setV s d.toNat (r.map (·.1)))

/-- FP32 lanes of two sources, rounded under FMODE.RM. -/
def formVFF (f : Rm → Nat → Nat → Nat × Flags) (d a b : BitVec 4) (s : State) : State :=
  roundingMode s fun rm =>
    let x := getV s a.toNat
    let y := getV s b.toNat
    laneResult s d (List.zipWith (f rm) x y) true (x ++ y)

/-- FP32 lanes of one source, rounded under FMODE.RM. -/
def formVF (f : Rm → Nat → Nat × Flags) (d a : BitVec 4) (s : State) : State :=
  roundingMode s fun rm =>
    let x := getV s a.toNat
    laneResult s d (x.map (f rm)) true x

/-- How a conversion rounds when its pair rounds under FMODE; the mode is not looked at where it does not (R10, R33). -/
def cvtMode (dst src : Nat) (s : State) (k : (Nat → CvtMode) → State) : State :=
  let md (rm : Rm) (i : Nat) : CvtMode :=
    { rm := rm, srnd := bitAt (fmode s) 8, sat8 := bitAt (fmode s) 9, draw := drawU s i }
  if cvtRounds dst src then roundingMode s fun rm => k (md rm) else k (md .rne)

end Sys2Proof.Machine
end

