-- ==== Sys2Proof/Machine/Translate.lean ====
section
/-!
DEFINITION. Which byte a pointer names, and whether the thread may reach it: paths and address layouts (R12, R196, R197), the
regions of the pools (R130, R195, R198), the system map (R407), watchpoints (R357), page tables and the stations'
caches (R203 to R207, R210), and the partition map (R395).
-/
namespace Sys2Proof.Machine

/-- Path of a pointer. -/
def pathOf (p : W64) : Nat := bits p.toNat 60 4
/-- Address bits of a pointer. -/
def addrOf (p : W64) : Nat := bits p.toNat 0 57

/-! ### Partitions (R395) -/

/-- The block of a compute core. -/
def blockOf (core : Nat) : Nat :=
  let cl := clusterOf core
  16 * (cl / 256) + 4 * (cl / 16 % 16 / 4) + cl % 16 / 4
/-- The partition map's dword of a block. -/
def partEntry (s : State) (b : Nat) : Nat := sysQ s (0x104011000 + 8 * b)
/-- The partition a core belongs to. -/
def partOfCore (s : State) (core : Nat) : Option Nat :=
  if isCtl core then none
  else
    let e := partEntry s (blockOf core)
    if bitAt e 7 then some (bits e 0 6) else none
/-- Is a core's cluster fenced off. -/
def fenced (s : State) (core : Nat) : Bool :=
  let cl := clusterOf core
  bitAt (partEntry s (blockOf core)) (32 + 4 * (cl / 16 % 4) + cl % 4)
/-- Is a partition configured: does some block belong to it. -/
def partConfigured (s : State) (p : Nat) : Bool :=
  (upTo 64).any fun b => bitAt (partEntry s b) 7 && bits (partEntry s b) 0 6 == p
/-- The blocks of a partition. -/
def blocksOf (s : State) (p : Nat) : List Nat :=
  (upTo 64).filter fun b => bitAt (partEntry s b) 7 && bits (partEntry s b) 0 6 == p
/-- Cores of a block. -/
def coresOfBlock (b : Nat) : List Nat :=
  (upTo 64).map fun i =>
    let r := 4 * (b % 16 / 4) + i / 16
    let c := 4 * (b % 4) + i / 4 % 4
    b / 16 * 1024 + r * 64 + c * 4 + i % 4
/-- Cores of a partition that run threads. -/
def coresOf (s : State) (p : Nat) : List Nat := ((blocksOf s p).flatMap coresOfBlock).filter fun c => !fenced s c
/-- A partition; one that nothing has changed is empty. -/
def State.part (s : State) (p : Nat) : PartSt :=
  (s.parts.find? fun x => x.part == p).getD
    { part := p, taken := 0, layouts := [], waiters := [], holder := none, world := none, next := [], worldPhase := 0,
      class0 := none, class0On := false, entry := 0, tenant := none, leased := false, sliceEnd := none, sliceLeft := 0, held := [] }
/-- Change a partition. -/
def State.modPart (s : State) (p : Nat) (f : PartSt → PartSt) : State :=
  { s with parts := f (s.part p) :: s.parts.filter fun x => x.part ≠ p }
/-- The context that holds a core. -/
def holderOf (s : State) (core : Nat) : Option (BitVec 16) :=
  match partOfCore s core with
  | some p => (s.part p).holder
  | none => none

/-! ### Quantum table (R347) -/

/-- Quantum table of a partition. -/
def quantumAt (p : Nat) : Nat := 0x104000000 + 0x400 * p
/-- C0SLOT of a partition. -/
def c0slot (s : State) (p : Nat) : Nat := s.sys.readNat (quantumAt p) 2
/-- C0OFF. -/
def c0off (s : State) (p : Nat) : Nat := s.sys.readNat (quantumAt p + 4) 4
/-- C0LEN. -/
def c0len (s : State) (p : Nat) : Nat := s.sys.readNat (quantumAt p + 8) 4
/-- C0TBL. -/
def c0tbl (s : State) (p : Nat) : BitVec 128 := BitVec.ofNat 128 (s.sys.readNat (quantumAt p + 0x10) 16)

/-! ### Regions of a pool -/

/-- Workspaces, scratchpad and accumulator storage of a pool, as offsets. -/
structure Regions where
  wsLo : Nat
  wsHi : Nat
  spLo : Nat
  spHi : Nat
  acLo : Nat
  acHi : Nat
  deriving DecidableEq, Repr

/-- The regions a partition word lays out, from an offset on; ordinary accumulator storage ends at the pool's end
(R130), that of class 0 follows its scratchpad (R348). -/
def regionsOf (pword : Nat) (base : Nat) (packed : Bool) : Regions :=
  let w := base + bits pword 0 7 * 0x800
  let p := w + bits pword 8 8 * 0x1000
  let n := bits pword 16 8 * 0x1000
  { wsLo := base, wsHi := w, spLo := w, spHi := p
    acLo := if packed then p else 0xC0000 - n, acHi := if packed then p + n else 0xC0000 }

/-- A launch by its handle. -/
def State.launch? (s : State) (h : Nat) : Option Launch := s.launches.find? fun l => l.h == h

/-- Does the thread belong to a class-0 launch. -/
def isClass0 (s : State) (t : Thread) : Bool := t.pclass == 0 && c0slot s t.part != 0 && t.handler.isNone && !isCtl t.core

/-- Is a thread one that a WORLD switch of the partition concerns. -/
def worldThread (s : State) (part : Nat) (t : Thread) : Bool :=
  t.part == part && !isCtl t.core && !isClass0 s t && (s.part part).holder == some t.pid

/-- The regions a thread sees on its own core. -/
def ownRegions (s : State) (t : Thread) : Regions :=
  if isClass0 s t then
    match s.launch? t.lnch with
    | some l => regionsOf l.pword.toNat (c0off s t.part) true
    | none => regionsOf (s.core t.core).pword.toNat 0 false
  else regionsOf (s.core t.core).pword.toNat 0 false

/-- The accumulator row that a row handler may touch: its start and end, from x4 and the command (R195, R279). -/
def handlerRow (s : State) (t : Thread) : Option (Nat × Nat) :=
  if t.handler = some .row then
    match (s.core t.core).mxu.find? fun r => r.handling with
    | some r =>
      let w := r.cmd.words
      let nn := 16 * 2 ^ (if bits w 36 5 < 16 then bits w 36 5 % 4 else 0)
      let lo := (regionsOf (s.core t.core).pword.toNat 0 false).acLo + bits w (8 * 0x2C) 32 + 4 * nn * (r.row - 1)
      some (lo, lo + 4 * nn)
    | none => none
  else none

/-- Does a range lie in another. -/
def within (lo n a b : Nat) : Bool := decide (a ≤ lo ∧ lo + n ≤ b)

/-- May the thread reach these LOC bytes (R8, R13, R195). -/
def locAllowed (s : State) (t : Thread) (store : Bool) (off n : Nat) : Bool :=
  let r := ownRegions s t
  let f := frameRing s t
  if within off n r.spLo r.spHi then true
  else if within off n t.ring (t.ring + f * 0x800) then
    decide (1 ≤ t.priv) || !store || !(decide ((0x180 < off % 0x800 + n ∧ off % 0x800 < 0x200) ∨ 0x980 < off % 0x800 + n))
  else if within off n r.wsLo r.wsHi || within off n r.acLo r.acHi then
    decide (1 ≤ t.priv) ||
      (match handlerRow s t with
        | some (a, b) => within off n a b
        | none => false)
  else false

/-- The regions that a thread of a partition sees in another of its cores: those of the core's partition word, relocated for class-0 work (R198,
R348). -/
def farRegions (s : State) (t : Thread) (core : Nat) : Regions :=
  if isClass0 s t then ownRegions s t else regionsOf (s.core core).pword.toNat 0 false

/-- May the thread reach these bytes of a core through NBR (R195, R198). A control core's thread is in no partition. -/
def nbrAllowed (s : State) (t : Thread) (core off n : Nat) : Bool :=
  if isCtl t.core ∨ partOfCore s core = none ∨ partOfCore s core ≠ some t.part ∨ fenced s core ∨ holderOf s core ≠ some t.pid then false
  else
    let r := farRegions s t core
    within off n r.spLo r.spHi || (decide (1 ≤ t.priv) && (within off n r.wsLo r.wsHi || within off n r.acLo r.acHi))

/-! ### The system map (R407) -/

/-- Store level of a region: none is above every level. -/
structure Region where
  base : Nat
  size : Nat
  level : Nat
  deriving DecidableEq, Repr

/-- The regions, each with its base, size and the level a store needs (4: no store is made). -/
def systemMap : List Region :=
  [{ base := 0, size := 0x4000000, level := 1 }, { base := 0x100000000, size := 0x400000, level := 1 },
   { base := 0x100400000, size := 0x400000, level := 1 }, { base := 0x100800000, size := 16, level := 1 },
   { base := 0x101000000, size := 0x40000, level := 1 }, { base := 0x102000000, size := 0x2000000, level := 4 },
   { base := 0x104000000, size := 0x10000, level := 2 }, { base := 0x104010000, size := 512, level := 2 },
   { base := 0x104011000, size := 512, level := 2 }, { base := 0x104012000, size := 16, level := 2 },
   { base := 0x104013000, size := 128, level := 1 }, { base := 0x104014000, size := 1280, level := 1 },
   { base := 0x104016000, size := 64, level := 2 }, { base := 0x104020000, size := 0x4000, level := 1 },
   { base := 0x104100000, size := 0x80000, level := 1 }, { base := 0x104200000, size := 0x1000, level := 1 },
   { base := 0x106000000, size := 0x200000, level := 4 }, { base := 0x108000000, size := 0x800000, level := 1 },
   { base := 0x200000000, size := 0x10000000, level := 1 }, { base := 0x300000000, size := 0x10000000, level := 4 },
   { base := 0x1000000000, size := 0x1000000000, level := 1 }, { base := 0x2000000000, size := 0x1000000000, level := 1 },
   { base := 0x3000000000, size := 0x1000000000, level := 1 }, { base := 0x4000000000, size := 0x1000000000, level := 1 }]

/-- The region that holds an address. -/
def regionOf (a : Nat) : Option Region := systemMap.find? fun r => decide (r.base ≤ a ∧ a < r.base + r.size)

/-- Attestation block base (R410). -/
def attBase : Nat := 0x104020000

/-- The level that a store of the `n` bytes of `v` at an address needs: the region's, and firmware for one that reaches EXTI and names MR0 to MR7
there, or that reaches FVADV (R410, R411). A vector store reaches EXTI with the 4 bytes that are one of its steps (R220). -/
def storeLevel (a n v : Nat) : Nat :=
  match regionOf a with
  | some r =>
    let meets (o : Nat) : Bool := decide (a < attBase + o + 8 ∧ attBase + o < a + n)
    let exti := bits v (8 * (attBase + 0x440 - a)) (if 8 < n then 32 else 64)
    if meets 0x4D8 then 3
    else if meets 0x440 ∧ a ≤ attBase + 0x440 ∧ exti < 8 then 3
    else r.level
  | none => 4

/-! ### Translation -/

/-- ROOT of a context (R209). -/
def rootOf (s : State) (pid : BitVec 16) : Nat := sysQ s (descAt pid)

/-- The station of a virtual address on a die (R204); the control cores' own unit is numbered as if die K were die 4. -/
def stationOf (die va : Nat) : Nat := 8 * die + (bits va 12 3 ^^^ bits va 21 3 ^^^ bits va 30 3)

/-- Does a package of the stitch domain have a live port (R390, R391). -/
def pkgReachable (s : State) (pkg : Nat) : Bool :=
  let mask := s.sys.readNat (0x104013000 + 2 * pkg) 2
  (upTo 16).any fun p => bitAt mask p && !(s.linksDown.any fun l => l == .stitch p)

/-- The end of a walk (R207): a leaf, its level and the address of its entry, or a PAGE fault. -/
inductive Walked where
  | leaf (entry level pa : Nat)
  | page
  deriving DecidableEq, Repr

/-- Levels `lvl` down to 0 of a walk from the table at `tbl` (R205, R206). -/
def walkFrom (s : State) (va : Nat) : Nat → Nat → Walked
  | lvl, tbl =>
    let pa := tbl + 8 * bits va (12 + 9 * lvl) 9
    let e := s.hbm.readNat pa 8
    if !bitAt e 0 then .page
    else if bits e 2 3 ≠ 0 then .page
    else if bitAt e 1 then
      let ppn := bits e 12 38
      if 3 ≤ lvl then .page
      else if lvl = 1 ∧ ppn % 2 ^ 9 ≠ 0 then .page
      else if lvl = 2 ∧ ppn % 2 ^ 18 ≠ 0 then .page
      else if bits e 50 6 ≠ s.pkgId ∧ !pkgReachable s (bits e 50 6) then .page
      else .leaf e lvl pa
    else
      match lvl with
      | 0 => .page
      | l + 1 =>
        if e ≠ bits e 12 38 * 2 ^ 12 + 1 then .page
        else walkFrom s va l (bits e 12 38 * 2 ^ 12)

/-- A whole walk. -/
def walk (s : State) (pid : BitVec 16) (va : Nat) : Walked := walkFrom s va 4 (rootOf s pid)

/-- Physical address through a leaf of a level; another package's frames stand above 2^52 of the model's main memory, by
package (log entry 15, DESIGN CHOICE). A frame at or beyond the 640 GB of R1 is memory like any other (log entry 108, DESIGN CHOICE). -/
def leafAddr (s : State) (e level va : Nat) : Nat :=
  let pa := bits e 12 38 * 2 ^ 12 + va % 2 ^ (12 + 9 * level)
  if bits e 50 6 = s.pkgId then pa else (bits e 50 6 + 1) * 2 ^ 52 + pa

/-- Is an address of main memory in another package. -/
def isRemote (pa : Nat) : Bool := decide (2 ^ 52 ≤ pa)

/-- Does a leaf permit the access (R207). -/
def leafPermits (e path priv : Nat) (kind : AccKind) : Bool :=
  (bitAt e 9 || priv != 0) && (bitAt e 10 || (kind != .store && kind != .atomic)) && (bitAt e 11 || kind != .fetch)
    && (bitAt e 8 || path != 4)

/-- A cached translation. Each 4 KiB page is cached by itself: CONT, which lets a station serve a run of 16 pages from one entry, is not used (R207;
log entry 107, DESIGN CHOICE). -/
def tlbFind (s : State) (station : Nat) (pid : BitVec 16) (va : Nat) : Option TlbEntry :=
  s.tlb.find? fun e => e.station == station && e.pid == pid && e.vpn == va / 2 ^ (12 + 9 * e.level)

/-- Has a station acknowledged the revocation of a tenant (R210). -/
def revoked (s : State) (station tenant : Nat) : Bool := s.revokedAt.any fun r => r == (station, tenant)

/-- The tenant of an identifier. -/
def tenantOf (pid : BitVec 16) : Nat := pid.toNat / 256

/-- Has a station acknowledged the revocation of an identifier: its tenant's, or its own by a KILL, which the list holds under
2^16 plus the identifier (R210, R351). -/
def revokedPid (s : State) (station : Nat) (pid : BitVec 16) : Bool :=
  revoked s station (tenantOf pid) || revoked s station (2 ^ 16 + pid.toNat)

/-- The outcome of checking one pointer. -/
inductive Chk where
  | ok (l : Loc)
  | bad (cause : Nat)
  | stop (cause : Nat)
  | miss
  deriving DecidableEq, Repr

/-- An access at firmware level in a context without page tables reaches control-die memory untranslated (log entry 16, DEDUCED). -/
def untranslated (s : State) (t : Thread) : Bool := isCtl t.core && t.priv == 3 && rootOf s t.pid == 0

/-- Translation at the station of the thread's die (R204, R207, R210). -/
def translate (s : State) (t : Thread) (kind : AccKind) (path va : Nat) : Chk :=
  if untranslated s t ∧ va < 0x4000000 then .ok (.sys va)
  else
    let st := stationOf (dieOf t.core) va
    if revokedPid s st t.pid then .stop cREVOKED
    else
      match tlbFind s st t.pid va with
      | none => .miss
      | some e =>
        let leaf := e.leaf.toNat
        if !leafPermits leaf path t.priv kind then .stop cPROT
        else if (kind == .store || kind == .atomic) && !bitAt leaf 6 then .miss
        else if revoked s st (bits leaf 56 8) then .ok .dropped
        else if bits leaf 50 6 ≠ s.pkgId ∧ !pkgReachable s (bits leaf 50 6) then .stop cPAGE
        else .ok (.mem (leafAddr s leaf e.level va))

/-- A station caches a leaf, with A set, and D for a store or an atomic (R207). It holds 16,384 entries (R1), of which the oldest goes where
there is no room; die K's own unit counts as eight stations (log entry 43, DESIGN CHOICE). -/
def cacheLeaf (s : State) (t : Thread) (va e lvl pa : Nat) (dirty : Bool) : State :=
  let e1 := setBits (if dirty then setBits e 6 1 1 else e) 5 1 1
  let st := stationOf (dieOf t.core) va
  let ent : TlbEntry := { station := st, pid := t.pid, level := lvl, vpn := va / 2 ^ (12 + 9 * lvl), leaf := BitVec.ofNat 64 e1, at' := pa }
  { s with
    hbm := s.hbm.writeNat pa 8 e1
    tlb := ent :: keepFirst (fun x => x.station == st) 16383
      (s.tlb.filter fun x => !(x.station == st && x.pid == t.pid && x.level == lvl && x.vpn == ent.vpn)) }

/-- A walk that the device makes for a thread where no translation is cached is seen by the Measure engine (R315); how long it takes is not the
model's, and is a free value. -/
def tapMiss (s : State) (t : Thread) (va : Nat) : State :=
  if (tlbFind s (stationOf (dieOf t.core) va) t.pid va).isSome then s
  else
    let (v, s1) := freshValue s 4
    tapThread s1 t 8 [bits va 12 32, stationOf (dieOf t.core) va, v, 0]

/-- Does a watchpoint of the context match (R357): the kind's bit, the path, and a byte of the range. -/
def watched (s : State) (t : Thread) (kind : AccKind) (p : W64) (n : Nat) : Bool :=
  (upTo 4).any fun w =>
    let b := 0x108000000 + 0x80 * t.pid.toNat + 0x20 * w
    let lo := sysQ s b
    let hi := sysQ s (b + 8)
    let c := sysQ s (b + 0x10)
    let bit := match kind with
      | .load => 1
      | .store => 2
      | .atomic => 3
      | .fetch => 4
    bitAt c 0 && bitAt c bit && c < 32 && sysQ s (b + 0x18) == 0 && lo / 2 ^ 57 % 8 == 0 && hi / 2 ^ 57 % 8 == 0 && lo / 2 ^ 60 == hi / 2 ^ 60
      && lo / 2 ^ 60 == pathOf p && bits lo 0 57 ≤ bits hi 0 57
      && bits lo 0 57 < addrOf p + n && addrOf p ≤ bits hi 0 57

/-- Is a range of the system map within one region. -/
def regionHolds (a n : Nat) : Bool :=
  match regionOf a with
  | some r => decide (a + n ≤ r.base + r.size)
  | none => false

/-- Address layout (R12, R197, R407): does the pointer take ADDR for an access of `n` bytes. -/
def badAddr (s : State) (t : Thread) (p : W64) (n : Nat) : Bool :=
  let a := addrOf p
  bits p.toNat 57 3 != 0 ||
    (match pathOf p with
      | 0 => false
      | 1 => false
      | 2 => decide (0xC0000 ≤ a)
      | 3 => bits a 32 25 != 0 || decide (0xC0000 ≤ bits a 0 20)
      | 4 => false
      | 5 => decide (2 ^ 52 ≤ a) || !regionHolds a n
      | 6 => decide (sysQ s (descAt t.pid + 0x10) < a + n)
      | 7 => decide (0x4000000 ≤ a)
      | _ => true)

/-- The kinds and levels a path admits, and the regions (R195, R196, R198, R407). -/
def pathAllowed (s : State) (t : Thread) (kind : AccKind) (p : W64) (n v : Nat) : Bool :=
  let a := addrOf p
  let st := kind == .store || kind == .atomic
  match pathOf p with
  | 0 => true
  | 1 => !st
  | 2 => locAllowed s t st a n
  | 3 => nbrAllowed s t (a / 2 ^ 20) (a % 2 ^ 20) n
  | 4 => kind != .atomic
  | 5 => decide (1 ≤ t.priv) && kind != .atomic && (!st || decide (storeLevel a n v ≤ t.priv))
  | 6 => decide (1 ≤ t.priv) && !st
  | _ => !st

/-- GEN address of a context's log byte (R209). -/
def logAddr (s : State) (pid : BitVec 16) (off : Nat) : Nat := (sysQ s (descAt pid + 8) + off) % 2 ^ 57

/-- A LOG access at the station of its page: under a revoked identifier it is stopped, and a frame of a revoked tenant reads as zero (R201,
R210). -/
def logLoc (s : State) (t : Thread) (off : Nat) : Chk :=
  let va := logAddr s t.pid off
  let st := stationOf (dieOf t.core) va
  if revokedPid s st t.pid then .stop cREVOKED
  else
    match walk s t.pid va with
    | .leaf e _ _ => if revoked s st (bits e 56 8) then .ok .dropped else .ok (.log t.pid off)
    | .page => .ok (.log t.pid off)

/-- Check one pointer for an access of `n` bytes aligned to `n`: ADDR of the address itself, ALIGN, ADDR of an aligned access that runs past the
end, PROT, the watchpoints, then translation (R197). `v` is
the value a store carries, which decides the level of one system register (R410). -/
def checkPtr (s : State) (t : Thread) (kind : AccKind) (p : W64) (n v : Nat) : Chk :=
  let a := addrOf p
  if badAddr s t p 1 then .bad cADDR
  else if a % n ≠ 0 then .bad cALIGN
  else if badAddr s t p n then .bad cADDR
  else if !pathAllowed s t kind p n v then .bad cPROT
  else if watched s t kind p n then .bad cWATCH
  else
    match pathOf p with
    | 2 => .ok (.pool (poolKey t.core a))
    | 3 => .ok (.pool a)
    | 5 => .ok (.sys a)
    | 6 => logLoc s t a
    | 7 => .ok (.meas (tenantOf t.pid) a)
    | path => translate s t kind path a

/-- The place of an address that the device reaches for a thread, at the thread's level, with the translation and the bits A and D that it
leaves behind, and the event of a walk; or the cause that stops the access (R18, R20, R206, R207, R210, R211, R315; log entry 17, DEDUCED). -/
def threadPlace (s : State) (t : Thread) (kind : AccKind) (path va : Nat) : State × Except Nat Loc :=
  match translate s t kind path va with
  | .ok l => (s, .ok l)
  | .stop c => (s, .error c)
  | _ =>
    let s1 := tapMiss s t va
    match walk s1 t.pid va with
    | .page => (s1, .error cPAGE)
    | .leaf e lvl pa =>
      if !leafPermits e path t.priv kind then (s1, .error cPROT)
      else
        (cacheLeaf s1 t va e lvl pa (kind == .store || kind == .atomic),
          .ok (if revoked s1 (stationOf (dieOf t.core) va) (bits e 56 8) then .dropped else .mem (leafAddr s1 e lvl va)))

/-- A range cut at page ends, as addresses and lengths; `f` bounds the parts. -/
def pageParts : Nat → Nat → Nat → List (Nat × Nat)
  | 0, _, _ => []
  | f + 1, va, n =>
    if n = 0 then []
    else
      let c := Nat.min n (4096 - va % 4096)
      (va, c) :: pageParts f (va + c) (n - c)

/-- The places of the parts of a range of a thread, or the cause and address of the first that stops. -/
def threadPlaces (t : Thread) (kind : AccKind) (path : Nat) : List (Nat × Nat) → State → State × Except (Nat × Nat) (List (Loc × Nat))
  | [], s => (s, .ok [])
  | (va, n) :: rest, s =>
    match threadPlace s t kind path va with
    | (s1, .error c) => (s1, .error (c, va))
    | (s1, .ok l) =>
      match threadPlaces t kind path rest s1 with
      | (s2, .error f) => (s2, .error f)
      | (s2, .ok ls) => (s2, .ok ((l, n) :: ls))

/-- A translation made by the device for a context: the walk alone, and the W bit for a write (log entry 17, DEDUCED). -/
def deviceAddr (s : State) (pid : BitVec 16) (va : Nat) (wr : Bool) : Except Nat Nat :=
  match walk s pid va with
  | .page => .error cPAGE
  | .leaf e lvl _ => if wr && !bitAt e 10 then .error cPROT else .ok (leafAddr s e lvl va)

end Sys2Proof.Machine
end

