-- ==== Sys2Proof/Machine/Places.lean ====
section
/-!
DEFINITION. The places an access reaches: what each holds, how a store changes it, and its poison (R7, R8, R201, R400). A
read of the system map goes through the registers that the device computes (R209, R325, R334, R335, R352, R353, R410).
-/
namespace Sys2Proof.Machine

/-! ### Measure results (R325) -/

/-- The Measure engine of a cluster. -/
def State.measureOf (s : State) (cluster : Nat) : Measure :=
  (s.measure.find? fun m => m.cluster == cluster).getD
    { cluster := cluster, store := Memory.empty, fifo := [], now := none, objs := [], filters := [], trigs := [], counts := []
      samples := 0, busy := 0 }
/-- Change a Measure engine. -/
def State.modMeasure (s : State) (cluster : Nat) (f : Measure → Measure) : State :=
  { s with measure := f (s.measureOf cluster) :: s.measure.filter fun m => m.cluster ≠ cluster }
/-- A tenant's counts on an engine. -/
def Measure.count (m : Measure) (tenant : Nat) : MCount :=
  (m.counts.find? fun c => c.tenant == tenant).getD
    { tenant := tenant, used := 0, dropb := 0, dropq := 0, runs := 0, instrs := 0, fired := [] }
/-- Change a tenant's counts. -/
def Measure.modCount (m : Measure) (tenant : Nat) (f : MCount → MCount) : Measure :=
  { m with counts := f (m.count tenant) :: m.counts.filter fun c => c.tenant ≠ tenant }
/-- Size of an object in bytes (R319). -/
def objSize (o : MObj) : Nat :=
  match o.type with
  | 1 => 4 * o.p1
  | 2 => 4 * o.p2 * o.p1
  | 3 => 4 * o.p1
  | _ => 32 * o.p1
/-- FIRED and VALUE of a trigger for a tenant. -/
def firedOf (c : MCount) (t : Nat) : Nat × Nat :=
  match c.fired.find? fun f => f.1 == t with
  | some f => (f.2.1, f.2.2)
  | none => (0, 0)
/-- A dword of a tenant's status page, by its offset. -/
def statusDword (m : Measure) (tenant off : Nat) : Nat :=
  let c := m.count tenant
  if off = 0 then c.dropb
  else if off = 8 then c.dropq
  else if off = 0x10 then c.runs
  else if off = 0x18 then c.instrs
  else if 0x100 ≤ off ∧ off < 0x180 then
    match m.objs.find? fun o => o.idx == (off - 0x100) / 8 && o.tenant == tenant && o.type == 4 with
    | some o => o.seq
    | none => 0
  else if 0x200 ≤ off ∧ off < 0x280 then
    let t := (off - 0x200) / 16
    if off % 16 = 0 then
      (firedOf c t).1 % 2 ^ 32 + 2 ^ 32 * b2n (m.trigs.any fun x => x.idx == t && x.tenant == tenant)
    else (firedOf c t).2 % 2 ^ 32
  else 0
/-- Is a cluster in a partition that a context of the tenant holds. -/
def clusterOfTenant (s : State) (cluster tenant : Nat) : Bool :=
  match holderOf s (4 * cluster) with
  | some p => tenantOf p == tenant
  | none => false
/-- A byte of a tenant's MEAS window (R325). -/
def measByte (s : State) (tenant off : Nat) : Byte :=
  let cl := off / 0x10000
  let o := off % 0x10000
  if !clusterOfTenant s cl tenant then 0
  else
    let m := s.measureOf cl
    if o < 0x1000 then BitVec.ofNat 8 (statusDword m tenant (o - o % 8) / 2 ^ (8 * (o % 8)))
    else if m.objs.any fun b => b.tenant == tenant && decide (b.off ≤ o ∧ o < b.off + objSize b) then m.store.read o
    else 0

/-! ### System registers that the device computes -/

/-- WNEXT of a context (R209). -/
def wnextOf (s : State) (pid : BitVec 16) : Nat :=
  match s.wnext.find? fun w => w.1 == pid with
  | some w => w.2
  | none => 1
/-- Set WNEXT; the list holds the contexts where it is not 1. -/
def setWnext (s : State) (pid : BitVec 16) (v : Nat) : State :=
  let rest := s.wnext.filter fun w => w.1 ≠ pid
  { s with wnext := if v = 1 then rest else (pid, v) :: rest }

/-- The thread in a slot of a core (R127: it is RUNNING; one of a reserved slot may wait there in FAULT or READY, R290). -/
def slotThread (s : State) (core slot : Nat) : Option Thread :=
  s.allThreads.find? fun t =>
    t.core == core && t.slot == slot && t.img.isNone && (t.state == .running || (t.handler.isSome && (t.state == .fault || t.state == .ready)))

/-- The dword of a dispatch ring (R335). -/
def ringDword (s : State) (core slot i : Nat) : Nat :=
  match slotThread s core slot with
  | some t =>
    match t.dispatch.find? fun e => e.seq % 64 == i with
    | some e => e.seq * 2 ^ 32 + e.tag * 2 ^ 16 + e.q * 2 ^ 12 + e.st * 2 ^ 8 + e.status
    | none => 0
  | none => 0

/-- The slot-class counts of the context that holds a core's partition (R353). -/
def histDword (s : State) (core off : Nat) : Nat :=
  if (holderOf s core).isSome || isCtl core then countGet (s.core core).hist (off / 8) else 0

/-- A dword of the system map that stands in system memory, one that the device computes, or none where no register is
assigned. -/
inductive SysWord where
  | stored
  | computed (v : Nat)
  | openBytes (outside : Bool)
  | absent
  deriving DecidableEq, Repr

/-- What the dword at an address (a multiple of 8) is. -/
def sysWordKind (s : State) (a : Nat) : SysWord :=
  if a < 0x4000000 then .stored
  else if a < 0x100400000 then
    if a % 0x40 = 0x20 then
      .computed (wnextOf s (BitVec.ofNat 16 ((a - 0x100000000) / 0x40)) + 2 ^ 32 * (sysQ s a / 2 ^ 32))
    else .stored
  else if a < 0x100800000 then .stored
  else if a = 0x100800000 then .stored
  else if a = 0x100800008 then .openBytes false
  else if a < 0x102000000 then
    let core := (a - 0x101000000) / 0x40
    if a % 0x40 = 0 then .openBytes false
    else if a % 0x40 = 8 then .computed (s.core core).dstat
    else if a % 0x40 = 0x10 then .computed (0x106000000 + 0x200 * core)
    else .absent
  else if a < 0x104000000 then
    let o := a - 0x102000000
    .computed (ringDword s (o / 0x2000) (o % 0x2000 / 0x200) (o % 0x200 / 8))
  else if a < 0x104010000 then (if a % 0x400 < 0x240 then .stored else .absent)
  else if a < 0x104014000 then .stored
  else if a < 0x104016000 then (if (a - 0x104014000) % 0x100 < 0x60 then .stored else .absent)
  else if a < 0x104020000 then (if a = 0x104016000 then .stored else .absent)
  else if a < 0x104100000 then
    let o := a - attBase
    if o < 0x440 then .stored
    else if o = 0x440 ∨ o = 0x4D8 then .openBytes false
    else if 0x480 ≤ o ∧ o < 0x4D8 then .stored
    else if 0x1000 ≤ o ∧ o < 0x3A20 then .stored
    else .absent
  else if a < 0x106000000 then .stored
  else if a < 0x108000000 then
    let o := a - 0x106000000
    .computed (histDword s (o / 0x200) (o % 0x200))
  else if a < 0x200000000 then .stored
  else if a < 0x300000000 then .openBytes true
  else if a < 0x1000000000 then .stored
  else .openBytes true

/-- A byte of the system map (R201, R407). -/
def sysByte (s : State) (a : Nat) : Byte :=
  match sysWordKind s (a - a % 8) with
  | .stored =>
    if 0x104023000 ≤ a ∧ a < 0x104023A20 then Config.identityKey (a - 0x104023000) else s.sys.read a
  | .computed v => BitVec.ofNat 8 (v / 2 ^ (8 * (a % 8)))
  | .openBytes true => Config.outboundByte s.ts a
  | .openBytes false => Config.openByte s.ts a
  | .absent => 0xFF

/-! ### Reading and writing a place -/

/-! ### What the device reads and writes for a context -/

/-- Bytes at a GEN address of a context, page by page (`f` bounds the pages); or the cause and address of a page that does not
translate. -/
def ctxReadFrom (s : State) (pid : BitVec 16) : Nat → Nat → Nat → Except (Nat × Nat) (List Byte)
  | 0, _, _ => .ok []
  | f + 1, va, n =>
    if n = 0 then .ok []
    else
      let c := Nat.min n (4096 - va % 4096)
      match deviceAddr s pid (va % 2 ^ 57) false with
      | .error e => .error (e, va)
      | .ok pa =>
        match ctxReadFrom s pid f (va + c) (n - c) with
        | .ok l => .ok (s.hbm.readBytes pa c ++ l)
        | .error e => .error e
/-- Read `n` bytes of a context. -/
def ctxRead (s : State) (pid : BitVec 16) (va n : Nat) : Except (Nat × Nat) (List Byte) := ctxReadFrom s pid (n / 4096 + 2) va n

/-- Write bytes of a context, page by page; nothing is written where a page does not translate. -/
def ctxWriteFrom (s : State) (pid : BitVec 16) : Nat → Nat → List Byte → Except (Nat × Nat) State
  | 0, _, _ => .ok s
  | f + 1, va, l =>
    if l.isEmpty then .ok s
    else
      let c := Nat.min l.length (4096 - va % 4096)
      match deviceAddr s pid (va % 2 ^ 57) true with
      | .error e => .error (e, va)
      | .ok pa =>
        ctxWriteFrom { s with hbm := s.hbm.writeBytes pa (l.take c), hbmPoison := unpoison s.hbmPoison pa c } pid f (va + c) (l.drop c)
/-- Write bytes of a context. -/
def ctxWrite (s : State) (pid : BitVec 16) (va : Nat) (l : List Byte) : Except (Nat × Nat) State :=
  ctxWriteFrom s pid (l.length / 4096 + 2) va l

/-- A field of a context's memory, 0 where its page does not translate. -/
def ctxNat (s : State) (pid : BitVec 16) (va n : Nat) : Nat :=
  match ctxRead s pid va n with
  | .ok l => leNat l
  | .error _ => 0
/-- Set a field of a context's memory. -/
def ctxPut (s : State) (pid : BitVec 16) (va n v : Nat) : State :=
  match ctxWrite s pid va (leBytes n v) with
  | .ok s1 => s1
  | .error _ => s
/-- A field of a block of bytes that has been read. -/
def fieldOf (l : List Byte) (off n : Nat) : Nat := leNat ((l.drop off).take n)

/-- A byte of a context's log area. One whose page does not translate reads as an open value (R201). -/
def logByte (s : State) (pid : BitVec 16) (off : Nat) : Byte :=
  match deviceAddr s pid (logAddr s pid off) false with
  | .ok pa => s.hbm.read pa
  | .error _ => Config.openByte s.ts (logAddr s pid off)

/-- The bytes of a place. A dropped access reads zero (R210). -/
def readLoc (s : State) (l : Loc) (n : Nat) : List Byte :=
  match l with
  | .mem pa => s.hbm.readBytes pa n
  | .pool k => s.pool.readBytes k n
  | .sys a => (upFrom a n).map (sysByte s)
  | .log pid off => (upFrom off n).map (logByte s pid)
  | .meas t off => (upFrom off n).map (measByte s t)
  | .dropped => List.replicate n 0

/-- The granules of 8 bytes that a range touches. -/
def granules (lo n : Nat) : List Nat := if n = 0 then [] else upFrom (lo / 8) ((lo + n - 1) / 8 - lo / 8 + 1)

/-- Does a place hold a poisoned byte (R400). -/
def poisonedLoc (s : State) (l : Loc) (n : Nat) : Bool :=
  match l with
  | .mem pa => (granules pa n).any fun g => s.hbmPoison.contains g
  | .pool k => (granules k n).any fun g => s.poolPoison.contains g
  | .log pid off =>
    match deviceAddr s pid (logAddr s pid off) false with
    | .ok pa => (granules pa n).any fun g => s.hbmPoison.contains g
    | .error _ => false
  | _ => false

/-- Does a pool byte lie in the frame ring of a thread's resident workspace (R8, R18). -/
def inRing (s : State) (t : Thread) (key : Nat) : Bool :=
  t.img.isNone && key / 2 ^ 20 == t.core && decide (t.ring ≤ key % 2 ^ 20 ∧ key % 2 ^ 20 < t.ring + frameRing s t * 0x800)

/-- Does a byte of the pools lie in the workspace positions of its core, those of its partition word or those of a resident
thread's ring (R7, R130, R348). -/
def inWorkspaces (s : State) (key : Nat) : Bool :=
  decide (key % 2 ^ 20 < bits (s.core (key / 2 ^ 20)).pword.toNat 0 7 * 0x800) || s.allThreads.any fun t => inRing s t key

/-- The bits a thread's store may change in a byte of the pools: the word of x0 of a workspace keeps its value (R7), and so do
p0 in its STAT (R9) and the read-only bytes of the status blocks in the thread's own ring (R8, R9, log entry 14, DEDUCED). -/
def storeMask (s : State) (own : Option Thread) (key : Nat) : Byte :=
  let o := key % 0x800
  if o < 8 ∧ inWorkspaces s key then 0
  else if o = 0x180 ∧ inWorkspaces s key then 0xFE
  else if own.any fun t => inRing s t key then
    if o = 0x181 then 0x03
    else if o = 0x182 ∨ o = 0x183 then 0
    else if 0x18C ≤ o ∧ o < 0x1C0 then 0
    else 0xFF
  else 0xFF

/-- Store bytes into a pool for a thread, byte by byte under the mask. -/
def storePool (s : State) (own : Option Thread) (key : Nat) : List Byte → Memory → Memory
  | [], m => m
  | b :: rest, m =>
    let k := storeMask s own key
    storePool s own (key + 1) rest (m.write key ((b &&& k) ||| (m.read key &&& ~~~k)))

/-- Count a dropped access in the error block of a die, saturating (R210, R402). -/
def errCount (s : State) (die off : Nat) : State :=
  let a := 0x104014000 + 0x100 * die + off
  { s with sys := s.sys.writeNat a 8 (Nat.min (sysQ s a + 1) (2 ^ 64 - 1)) }

/-- Write bytes to a place, for a thread where one stores. Control-die memory takes them at once; a store to another region of the system map is
the step REGISTER_WRITE, which the store begins (R71, R104, R407). -/
def writeLoc (s : State) (own : Option Thread) (l : Loc) (data : List Byte) (level die : Nat) : State :=
  match l with
  | .mem pa => { s with hbm := s.hbm.writeBytes pa data, hbmPoison := unpoison s.hbmPoison pa data.length }
  | .pool k => { s with pool := storePool s own k data s.pool, poolPoison := unpoison s.poolPoison k data.length }
  | .sys a => if a + data.length ≤ 0x4000000 then { s with sys := s.sys.writeBytes a data } else s.later [.registerWrite a data level]
  | .log _ _ => s
  | .meas _ _ => s
  | .dropped => errCount s die 0x58

/-- Do parts of a write cover the 8 bytes of a granule. -/
def coversGranule (parts : List (Nat × Nat)) (g : Nat) : Bool :=
  (upFrom (8 * g) 8).all fun b => parts.any fun q => decide (q.1 ≤ b ∧ b < q.1 + q.2)
/-- A write made in parts has written one more: the granules that its parts now cover wholly lose their poison (R400). -/
def coverPoison (s : State) (l : Loc) (n : Nat) (parts : List (Loc × Nat)) : State :=
  match l with
  | .mem a =>
    let ps := (a, n) :: parts.filterMap fun q => match q.1 with
      | .mem b => some (b, q.2)
      | _ => none
    { s with hbmPoison := s.hbmPoison.filter fun g => !((granules a n).contains g && coversGranule ps g) }
  | .pool a =>
    let ps := (a, n) :: parts.filterMap fun q => match q.1 with
      | .pool b => some (b, q.2)
      | _ => none
    { s with poolPoison := s.poolPoison.filter fun g => !((granules a n).contains g && coversGranule ps g) }
  | _ => s

/-- Do two places share a byte; those of a log area and of main memory are compared by `overlapsIn`. -/
def overlaps (a : Loc) (n : Nat) (b : Loc) (m : Nat) : Bool :=
  match a, b with
  | .mem p, .mem q => decide (p < q + m ∧ q < p + n)
  | .pool p, .pool q => decide (p < q + m ∧ q < p + n)
  | .sys _, .sys _ => true
  | .log c p, .log d q => c == d && decide (p < q + m ∧ q < p + n)
  | .meas c p, .meas d q => c == d && decide (p < q + m ∧ q < p + n)
  | _, _ => false

/-- The place of a log byte in main memory, where its page translates. -/
def logPlace (s : State) (pid : BitVec 16) (off : Nat) : Option Loc :=
  match deviceAddr s pid (logAddr s pid off) false with
  | .ok pa => some (.mem pa)
  | .error _ => none

/-- Do two places share a byte, that of a log area being the main memory that holds it (R226). -/
def overlapsIn (s : State) (a : Loc) (n : Nat) (b : Loc) (m : Nat) : Bool :=
  match a, b with
  | .log c p, .mem q => (logPlace s c p).any fun l => overlaps l n (.mem q) m
  | .mem p, .log d q => (logPlace s d q).any fun l => overlaps (.mem p) n l m
  | a, b => overlaps a n b m

/-! ### Links (R382, R383, R390, R391) -/

/-- The hem edges between two compute dies, along X and then along Y: 0 joins dies 0 and 1, 1 dies 2 and 3, 2 dies 0 and 2, 3 dies 1
and 3. Die K, numbered 4, has a link to each die of its own. -/
def hemRoute (a b : Nat) : List Link :=
  if 4 ≤ a ∨ 4 ≤ b then []
  else
    (if a % 2 = b % 2 then [] else [.hem (a / 2)]) ++ (if a / 2 = b / 2 then [] else [.hem (2 + b % 2)])

/-- The home stack of a local physical address (R202). -/
def stackOf (pa : Nat) : Nat := bits pa 8 3 ^^^ bits pa 17 3 ^^^ bits pa 26 3

/-- The first live port of a mask from a port on, around (R391). -/
def livePort (s : State) (mask from' : Nat) : Option Nat :=
  ((upTo 16).map fun i => (from' + i) % 16).find? fun p => bitAt mask p && !s.linksDown.contains (.stitch p)

/-- The hem edges of a request between two dies and of its response, each of which goes first along X (R383). -/
def hemBothWays (a b : Nat) : List Link := hemRoute a b ++ hemRoute b a

/-- The links that an access from a die to a place crosses: its request and its response (R383; log entry 30, DESIGN CHOICE). How flits share the
four virtual channels is time alone; what the channels order is the order of the pending steps (R384, `Channel`). -/
def linksTo (s : State) (die : Nat) (l : Loc) : List Link :=
  match l with
  | .mem pa =>
    if isRemote pa then
      let pkg := pa / 2 ^ 52 - 1
      match livePort s (s.sys.readNat (0x104013000 + 2 * pkg) 2) (Config.portHash (pa % 2 ^ 52 / 128) % 16) with
      | some p => [.stitch p]
      | none => []
    else hemBothWays die (Config.stackDie (stackOf pa) % 4)
  | .pool k => hemBothWays die (dieOf (k / 2 ^ 20))
  | _ => []

/-- Is a hem edge on the way down: what must cross it gets no answer (R391). -/
def cutOff (s : State) (die : Nat) (l : Loc) : Bool := !s.linksDown.isEmpty && (linksTo s die l).any (s.linksDown.contains ·)
/-- Does a link on the way retrain: what must cross it waits (R391). -/
def linkBusy (s : State) (die : Nat) (l : Loc) : Bool := !s.linksWait.isEmpty && (linksTo s die l).any (s.linksWait.contains ·)

/-- A store or an atomic of a thread got no answer: the fault service is told, and the thread goes on (R333, R391). -/
def tellUnanswered (s : State) (t : Thread) (kind path : Nat) (p : W64) : State :=
  s.later [.faultNotification t.pid t.recd (stopWord cPOISON kind path t.core t.slot) p 0]

/-- Mark the granules of a place as poisoned (R400). -/
def spoil (s : State) (l : Loc) (n : Nat) : State :=
  match l with
  | .mem pa => { s with hbmPoison := granules pa n ++ s.hbmPoison }
  | .pool k => { s with poolPoison := granules k n ++ s.poolPoison }
  | _ => s

end Sys2Proof.Machine
end

