-- ==== Sys2Proof/Machine/UndoLog.lean ====
section
/-!
DEFINITION. The undo log: entries, blocks, the log-full policies, committing windows, and the walks of a thread's chain (R211
to R217, R256 to R262).
-/
namespace Sys2Proof.Machine

/-- The GEN address of the saved image of a thread's frame ring (log entry 49, DESIGN CHOICE). -/
def imageAt (t : Thread) : Nat := Config.imagePlace t.tid % 2 ^ 57
/-- A field of a thread's current workspace, resident or not. -/
def tget (s : State) (t : Thread) (off n : Nat) : Nat :=
  match t.img with
  | none => s.pool.readNat (wsKey t + off) n
  | some m => m.readNat (t.wp - t.ring + off) n
/-- Write such a field; that of a workspace written back is written in memory too, where its image stands (R126, R127). -/
def tput (s : State) (tid off n v : Nat) : State :=
  match s.thread? tid with
  | none => s
  | some t =>
    match t.img with
    | none => { s with pool := s.pool.writeNat (wsKey t + off) n v, poolPoison := unpoison s.poolPoison (wsKey t + off) n }
    | some m => (ctxPut s t.pid (imageAt t + (t.wp - t.ring) + off) n v).modThread tid fun t =>
        { t with img := some (m.writeNat (t.wp - t.ring + off) n v), imgPoison := unpoison t.imgPoison (t.wp - t.ring + off) n }
/-- NOPEN of a thread. -/
def nopenOf (s : State) (t : Thread) : Nat := tget s t 0x193 1
/-- Is a thread in debug-log mode (R214). -/
def dlogOf (s : State) (t : Thread) : Bool := bitAt (tget s t 0x190 1) 1

/-! ### Bytes of the log area -/

/-- A little-endian field of a context's log area. -/
def logNat (s : State) (pid : BitVec 16) (off n : Nat) : Nat := leNat (readLoc s (.log pid off) n)

/-- Write bytes of the log area, which lie in one page, for a thread, at the supervisor's level (R206, R210; log entry 17, DEDUCED); or the cause
that stops it, 0 where a link on the way retrains and the write waits. Where the way is cut, the bytes may be written or not, and the fault service is
told (R391; log entry 8, DESIGN CHOICE). -/
def writeLog (s : State) (t : Thread) (off : Nat) (l : List Byte) : Except Nat State :=
  match threadPlace s { t with priv := 1 } .store 0 (logAddr s t.pid off) with
  | (_, .error c) => .error c
  | (s1, .ok p) =>
    if linkBusy s1 (dieOf t.core) p then .error 0
    else if cutOff s1 (dieOf t.core) p then
      let s2 := if Config.unansweredStorePerformed s1.freeNext then writeLoc s1 none p l 1 (dieOf t.core) else s1
      .ok (tellUnanswered { s2 with freeNext := s2.freeNext + 1 } t 1 0 (BitVec.ofNat 64 (logAddr s t.pid off)))
    else .ok (writeLoc s1 none p l 1 (dieOf t.core))

/-- What an append that the log area's page has stopped at an address leaves behind: the event of its walk (R315). -/
def logStop (s : State) (t : Thread) (va : Nat) : State := (threadPlace s { t with priv := 1 } .store 0 va).1

/-- An entry to append: PATH, SZ, ADDR, WIN and DATA (R213), and the value a LOGFULL trap for it reports (R362). The event of a `late` one is sent when
its kind is known. -/
structure LogEnt where
  path : Nat
  sz : Nat
  addr : Nat
  win : Nat
  data : List Byte
  val : W64
  late : Bool := false
  deriving DecidableEq, Repr

/-- DATA padded with zero to a multiple of 8. -/
def padded (l : List Byte) : List Byte := l ++ List.replicate ((8 - l.length % 8) % 8) 0
/-- SZ of an entry of `n` bytes. -/
def szCode (n : Nat) : Nat := if n = 1 then 0 else if n = 2 then 1 else if n = 4 then 2 else if n = 8 then 3 else 4
/-- Bytes of DATA that SZ names. -/
def szBytes (sz : Nat) : Nat := if sz = 4 then 64 else 2 ^ sz
/-- Header word 0. -/
def header0 (path sz addr : Nat) : Nat := path * 2 ^ 60 + sz * 2 ^ 57 + addr % 2 ^ 57
/-- The bytes of an entry. -/
def entBytes (e : LogEnt) (prev : Nat) : List Byte :=
  leBytes 8 (header0 e.path e.sz e.addr) ++ leBytes 8 (e.win * 2 ^ 32 + prev) ++ padded e.data

/-- The log entries of an AMCAS are final, or its window is committed: the Measure engine sees them now, with the kind that they have (R211, R315). -/
def tapFinal (s : State) (a : Access) : State :=
  match a.op, s.thread? a.tid with
  | .rmw 8 _ _ _, some t =>
    a.logs.foldl (fun s r => tapThread s { t with pc := a.pc, core := a.core } 6 [r.off / 8, r.win, bits (logNat s a.pid r.off 8) 57 3, 0]) s
  | _, _ => s

/-! ### Blocks (R212) -/

/-- Blocks of a context that are free: no core holds them and every entry is committed. -/
def dropFree (l : List LogBlock) : List LogBlock := l.filter fun b => b.holder.isSome || !b.owners.isEmpty
/-- Change the block with a number. -/
def modBlock (s : State) (pid : BitVec 16) (idx : Nat) (f : LogBlock → LogBlock) : State :=
  { s with logBlocks := s.logBlocks.map fun b => if b.pid = pid ∧ b.idx = idx then f b else b }
/-- The block of a context that a core reserves next: the lowest-numbered free one (log entry 122, DESIGN CHOICE). -/
def freeBlock (s : State) (pid : BitVec 16) : Option Nat :=
  let held := s.logBlocks.filter fun b => b.pid == pid
  (upTo (held.length + 1)).find? fun i =>
    decide (i < sysQ s (descAt pid + 0x10) / 4096) && !(held.any fun b => b.idx == i)

/-- What an append comes to. -/
inductive Append where
  | ok (s : State) (offs : List Nat)
  | full (val : W64)
  | fault (cause : Nat) (addr : Nat)
  deriving DecidableEq, Repr

/-- Close a block that has no room, for the thread that appends: PAD to its end (R212), and the core gives it up. -/
def closeBlock (s : State) (t : Thread) (b : LogBlock) : Except Nat State :=
  let tail := 4096 - b.used
  let done (s : State) : State :=
    let s1 := modBlock s b.pid b.idx fun b => { b with holder := none, used := 4096 }
    { s1 with logBlocks := dropFree s1.logBlocks }
  if tail = 0 then .ok (done s)
  else
    let w := leBytes 8 (header0 0 7 0) ++ (if tail = 8 then [] else leBytes 8 tail)
    match writeLog s t (b.idx * 4096 + b.used) w with
    | .ok s1 => .ok (done s1)
    | .error c => .error c

/-- Append one entry for a thread: room in the core's block, or a block reserved afresh; the entry joins the thread's chain
(R212, R213). -/
def appendOne (s : State) (tid core : Nat) (pid : BitVec 16) (e : LogEnt) : Append :=
  match s.thread? tid with
  | none => .full e.val
  | some t =>
    let size := 16 + (padded e.data).length
    let lhead := tget s t 0x1B0 4
    let prev := if lhead = 0 then 0xFFFFFFFF else lhead - 1
    let put (s : State) (idx used : Nat) : Append :=
      let off := idx * 4096 + used
      match writeLog s { t with core := core } off (entBytes e prev) with
      | .error c => .fault c (logAddr s pid off)
      | .ok s1 =>
        let s2 := modBlock s1 pid idx fun b =>
          { b with used := used + size, owners := if b.owners.contains (tid, e.win) then b.owners else (tid, e.win) :: b.owners }
        let s3 := tput s2 tid 0x1B0 4 (off / 8 + 1)
        .ok (if e.late then s3 else tapThread s3 t 6 [off / 8, e.win, e.sz, 0]) [off]
    let fresh (s : State) : Append :=
      match freeBlock s pid with
      | none => .full e.val
      | some i => put { s with logBlocks := { pid := pid, idx := i, holder := some core, used := 0, owners := [] } :: s.logBlocks } i 0
    match s.logBlocks.find? fun b => b.pid == pid && b.holder == some core with
    | none => fresh s
    | some b =>
      if b.used + size ≤ 4096 then put s b.idx b.used
      else
        match closeBlock s { t with core := core } b with
        | .error c => .fault c (logAddr s pid (b.idx * 4096 + b.used))
        | .ok s1 => fresh s1

/-- Append entries in order, all of them or none. -/
def appendList (s : State) (tid core : Nat) (pid : BitVec 16) : List LogEnt → Append
  | [] => .ok s []
  | e :: rest =>
    match appendOne s tid core pid e with
    | .ok s1 o =>
      match appendList s1 tid core pid rest with
      | .ok s2 os => .ok s2 (o ++ os)
      | bad => bad
    | bad => bad

/-! ### Windows -/

/-- Offset that a link of the chain holds: in units of 8 bytes plus 1, 0 for none. -/
def linkOff (l : Nat) : Nat := 8 * (l - 1)

/-- Why the page that holds a byte of a context's log area cannot be read, as cause and pointer. -/
def logFault (s : State) (pid : BitVec 16) (off : Nat) : Option (Nat × Nat) :=
  match deviceAddr s pid (logAddr s pid off) false with
  | .ok _ => none
  | .error c => some (c, logAddr s pid off)

/-- Why the markers of a thread's open windows cannot be read. -/
def chainFault (s : State) (pid : BitVec 16) : Nat → Nat → Option (Nat × Nat)
  | 0, _ => none
  | n + 1, link =>
    if link = 0 then none
    else
      match logFault s pid (linkOff link) with
      | some f => some f
      | none => chainFault s pid n (logNat s pid (linkOff link + 16) 4)

/-- The open windows from an OPEN marker outward: number and link, innermost first (R257). -/
def windowsFrom (s : State) (pid : BitVec 16) : Nat → Nat → List (Nat × Nat)
  | 0, _ => []
  | n + 1, link =>
    if link = 0 then []
    else (logNat s pid (linkOff link) 4, link) :: windowsFrom s pid n (logNat s pid (linkOff link + 16) 4)

/-- A thread's open windows, innermost first. -/
def windowsOf (s : State) (t : Thread) : List (Nat × Nat) := windowsFrom s t.pid (nopenOf s t) (tget s t 0x1B4 4)

/-- Entries of a thread's windows are committed: they hold their blocks no longer, and accesses still to be performed write them no more. -/
def releaseEntries (s0 : State) (pid : BitVec 16) (tid : Nat) (wins : List Nat) : State :=
  let s := s0.accesses.foldl (fun s a => if a.tid = tid then tapFinal s { a with logs := a.logs.filter fun r => wins.contains r.win } else s) s0
  { s with
    accesses := s.accesses.map fun a => if a.tid = tid then { a with logs := a.logs.filter fun r => !wins.contains r.win } else a
    logBlocks := dropFree (s.logBlocks.map fun b =>
      if b.pid = pid then { b with owners := b.owners.filter fun o => !(o.1 == tid && wins.contains o.2) } else b) }

/-- A thread has `left` windows left of which the oldest is `wold`; with none left the window state is cleared (R260). -/
def setWindows (s : State) (tid left nfix wold : Nat) : State :=
  let s1 := tput (tput s tid 0x193 1 left) tid 0x192 1 nfix
  if left = 0 then
    (tput (tput s1 tid 0x194 4 0) tid 0x1B0 8 0).modThread tid fun t => { t with wincur := 0 }
  else tput s1 tid 0x194 4 wold

/-- Commit the `c` oldest windows of a thread (R260). -/
def commitOldest (s : State) (t : Thread) (c : Nat) : State :=
  let ws := (windowsOf s t).reverse
  let left := nopenOf s t - c
  let s1 := releaseEntries s t.pid t.tid ((ws.take c).map (·.1))
  setWindows s1 t.tid left (tget s t 0x192 1 - c) ((ws.drop c).headD (0, 0)).1

/-- How long ago a window was opened, by its number (R209, R215). -/
def windowAge (s : State) (pid : BitVec 16) (w : Nat) : Nat := (wnextOf s pid + 2 ^ 32 - w) % 2 ^ 32

/-- OLDEST: commit the context's oldest open window; LOST is set in its thread (R215, R264). A thread whose markers do not translate is passed over
(log entry 123, DESIGN CHOICE). -/
def oldestPolicy (s : State) (pid : BitVec 16) : Option State :=
  let ts := s.allThreads.filter fun t => t.pid == pid && nopenOf s t != 0 && !t.unpicking && (chainFault s pid (nopenOf s t) (tget s t 0x1B4 4)).isNone
  let better (a b : Thread) : Thread :=
    if windowAge s pid (tget s a 0x194 4) < windowAge s pid (tget s b 0x194 4) then b else a
  match ts with
  | [] => none
  | t :: rest =>
    let u := rest.foldl better t
    let s1 := tput s u.tid 0x180 4 (setBits (tget s u 0x180 4) 11 1 1)
    some (commitOldest s1 u 1)

/-- Append the entries that a bundle needs under the context's policy (R215). `ents` says them for a state, since a thread that
loses its last window logs no longer. -/
def appendPolicy (tid core : Nat) (pid : BitVec 16) (ents : State → List LogEnt) : Nat → State → Append
  | n, s =>
    match appendList s tid core pid (ents s) with
    | .full v =>
      if bits (sysQ s (descAt pid + 0x18)) 0 2 = 1 then
        match n, oldestPolicy s pid with
        | m + 1, some s1 => appendPolicy tid core pid ents m s1
        | _, _ => .full v
      else .full v
    | r => r

/-- A bound on the windows OLDEST can commit. -/
def openCount (s : State) (pid : BitVec 16) : Nat :=
  (s.allThreads.filter fun t => t.pid == pid).foldl (fun n t => n + nopenOf s t) 0

/-- The current thread appends: LOGFULL is precise, a fault of the log area suspends it at its bundle (R215), and it waits while a link on the way
retrains (R391). What it has done before the append since the state `s0` does not stand then. -/
def loggedFrom (s0 s : State) (ents : State → List LogEnt) (k : State → List Nat → State) : State :=
  match appendPolicy s.cur.tid s.cur.core s.cur.pid ents (openCount s s.cur.pid) s with
  | .ok s1 offs => k s1 offs
  | .full v => trap s cLOGFULL v
  | .fault 0 _ => { s0 with cur := { s0.cur with npc := s0.cur.pc }, flow := .stalled }
  | .fault c a => suspendFault (logStop s0 s0.cur a) c 1 0 (BitVec.ofNat 64 a) 0 s0.cur.pc
/-- The same, of a thread that has done nothing before. -/
def logged (s : State) (ents : State → List LogEnt) (k : State → List Nat → State) : State := loggedFrom s s ents k

/-- An effect that cannot be undone: it fixes the thread's open windows, or under STRICT takes FIXEDWIN (R216). -/
def irreversible (s : State) (val : W64) (k : State → State) : State :=
  if nopen s = 0 then k s
  else if strictLog s s.cur.pid then trap s cFIXEDWIN val
  else k (setSt s 0x192 1 (nopen s))

/-! ### UNPICK (R261, R262) -/

/-- Where a restoring write of `n` bytes lands, with the translation that it has cached: none where R198 refuses it, an error where its
page does not translate. -/
def restorePlace (s : State) (t : Thread) (path addr n : Nat) : Except (Nat × State) (Option (State × Loc)) :=
  match path with
  | 2 => .ok (some (s, .pool (poolKey t.core addr)))
  | 3 => if nbrAllowed s t (addr / 2 ^ 20) (addr % 2 ^ 20) n then .ok (some (s, .pool addr)) else .ok none
  | _ =>
    match threadPlace s t .store path addr with
    | (s1, .ok l) => .ok (some (s1, l))
    | (s1, .error c) => .error (c, s1)

/-- Restore one entry: the state, and whether the write was performed; or the state, the cause and the pointer that stop it. -/
def restoreEntry (s : State) (t : Thread) (off : Nat) : Except (State × Nat × Nat) (State × Bool) :=
  let h := logNat s t.pid off 8
  let path := bits h 60 4
  let n := szBytes (bits h 57 3)
  match restorePlace s t path (bits h 0 57) n with
  | .error (c, s1) => .error (s1, c, path * 2 ^ 60 + bits h 0 57)
  | .ok none => .ok (s, false)
  | .ok (some (s, .dropped)) => .ok (errCount s (dieOf t.core) 0x58, false)
  | .ok (some (s, .pool k)) =>
    let d := readLoc s (.log t.pid (off + 16)) n
    .ok ({ s with pool := s.pool.writeBytes k d, poolPoison := unpoison s.poolPoison k n }, true)
  | .ok (some (s, l)) => .ok (writeLoc s none l (readLoc s (.log t.pid (off + 16)) n) 0 0, true)

/-- Does UNPICK restore the entry: no marker, no NOOP, no PAD, and of a window. -/
def restores (s : State) (pid : BitVec 16) (off : Nat) : Bool :=
  decide (bits (logNat s pid off 8) 57 3 ≤ 4) && logNat s pid (off + 12) 4 != 0

/-- The walk from LHEAD to the marker at link `m`: restored state, whether every restore was performed, or the
state that a fault stopped it in, with LHEAD at the entry not yet restored. -/
def unpickWalk (tid m : Nat) : Nat → State → Bool → Except (State × Nat × Nat) (State × Bool)
  | 0, s, all => .ok (s, all)
  | n + 1, s, all =>
    match s.thread? tid with
    | none => .ok (s, all)
    | some t =>
      let l := tget s t 0x1B0 4
      if l = m ∨ l = 0 then .ok (s, all)
      else
        let off := linkOff l
        match logFault s t.pid off with
        | some (c, p) => .error (s, c, p)
        | none =>
          let prev := logNat s t.pid (off + 8) 4
          let next := if prev = 0xFFFFFFFF then 0 else prev + 1
          if restores s t.pid off then
            match restoreEntry s t off with
            | .error f => .error f
            | .ok (s1, did) => unpickWalk tid m n ((tput s1 tid 0x1B0 4 next).modThread tid fun t => { t with answer := if did then t.answer else [1] }) (all && did)
          else unpickWalk tid m n (tput s tid 0x1B0 4 next) all

end Sys2Proof.Machine
end

