-- ==== Sys2Proof/Machine/Access.lean ====
section
/-!
DEFINITION. Accesses to memory: checking pointers, issuing, holding back behind fences and ordered accesses (R247, R248),
performing the pieces of a store or an atomic and landing those of a load (R71, R220 to R222), and the atomics'
new values (R104 to R107). An access is in flight from its issue until the device's step performs or lands it; which pending
step the device takes next, and which piece of the access that step performs, is open, so that different bytes may be accessed in any order.
-/
namespace Sys2Proof.Machine

/-! ### Stops -/

/-- The bundle does not issue yet: it is tried again at the thread's next turn. -/
def retry (s : State) : State := { s with cur := { s.cur with npc := s.cur.pc }, flow := .stalled }

/-- A precise stop: the thread leaves its slot in STOPPED at its bundle, and the debugger is notified (R354, R352). -/
def stopCurrent (s : State) (code kind path : Nat) (x3 : W64) : State :=
  let t := s.cur
  { debugNotice s t (stopWord code kind path t.core t.slot) x3 with
    cur := { t with state := .stopped, slotHeld := true, npc := t.pc, wait := none, lastFault := x3 }, flow := .suspended }

/-- BRK and WATCH: a stop where a debugger is attached, else vectored; a second trap goes to the fault service (R22, R331, R363). -/
def breakOr (s : State) (cause kind path : Nat) (val : W64) : State :=
  if sysQ s (svcAt s.cur.pid + 0x10) = 0 ∨ bitAt (s.pool.readNat (wsKey s.cur + 0x180) 4) 12 then trap s cause val
  else stopCurrent s cause kind path val

/-- What a bundle accesses at its issue waits while a link on the way retrains (R391). -/
def whenReachable (s : State) (ls : List Loc) (k : State → State) : State :=
  if ls.any (linkBusy s (dieOf s.cur.core)) then retry s else k s

/-! ### Checking pointers -/

/-- What checking all pointers of an access comes to: the first that fails by its own form, else the first that its translation
stops, else the first whose translation is not cached (R72, R250). -/
inductive Checked where
  | ok (locs : List Loc)
  | bad (cause : Nat) (p : W64)
  | stop (cause : Nat) (p : W64)
  | miss (p : W64)
  deriving DecidableEq, Repr

/-- Join the check of one pointer to those of the later ones. -/
def joinChecked (p : W64) : Chk → Checked → Checked
  | .bad c, _ => .bad c p
  | _, .bad c q => .bad c q
  | .stop c, _ => .stop c p
  | _, .stop c q => .stop c q
  | .miss, _ => .miss p
  | _, .miss q => .miss q
  | .ok l, .ok ls => .ok (l :: ls)

/-- Check pointers for accesses of `n` bytes each, with the value that a store carries to each (R410). -/
def checkPtrs (s : State) (t : Thread) (kind : AccKind) (n : Nat) : List Nat → List W64 → Checked
  | _, [] => .ok []
  | vs, p :: rest => joinChecked p (checkPtr s t kind p n (vs.headD 0)) (checkPtrs s t kind n vs.tail rest)

/-- An access of which a page is revoked counts once in the error block of its die (R210). -/
def countDrops (s : State) (ls : List Loc) : State := if ls.contains .dropped then errCount s (dieOf s.cur.core) 0x58 else s

/-- Check pointers, and go on with their places. A trap is precise, a fault of translation suspends at the bundle, and a
translation that no station has cached is walked for first (R72). -/
def withPlaces (s : State) (kind : AccKind) (n : Nat) (vs : List Nat) (ptrs : List W64) (k : State → List Loc → State) : State :=
  match checkPtrs s s.cur kind n vs ptrs with
  | .ok ls => k (countDrops s ls) ls
  | .bad c p => if c = cWATCH then breakOr s c (kindCode kind) (pathOf p) p else trap s c p
  | .stop c p => suspendFault s c (kindCode kind) (pathOf p) p 0 s.cur.pc
  | .miss p => (stall s .walk).later [.pageWalk s.cur.tid p kind]

/-! ### Order -/

/-- The pieces of an access that are still to be performed: a load's piece is performed when its bytes are read. -/
def Access.todo (a : Access) : List Piece :=
  if a.early then [] else a.pieces.filter fun p => a.op != .load || p.data.isEmpty

/-- Is the second core in the instance of a scope that a thread on the first core fixes (R219). -/
def inInstance (scope core other : Nat) : Bool :=
  match scope with
  | 0 => false
  | 1 => core == other
  | 2 => if isCtl core || isCtl other then core == other else clusterOf core == clusterOf other
  | 3 => if isCtl core || isCtl other then core == other else dieOf core == dieOf other
  | _ => true

/-- The earlier accesses of a thread that are not performed yet. -/
def unperformed (s : State) (tid id : Nat) : List Nat :=
  (s.accesses.filter fun b => b.tid == tid && decide (b.id < id) && !b.early).map (·.id)

/-- The releases of a narrow scope that have left, while an access that they follow is not performed (R236). -/
def openReleases (s : State) : List OpenRelease := s.opens.filter fun o => o.waits.any fun i => s.accesses.any fun b => b.id == i && !b.early

/-- Do these pieces of a thread on a core wait: a release whose scope's instance holds the thread has left and it would see it before what
the release follows (R219, R228, R247). -/
def heldByRelease (s : State) (tid core : Nat) (ps : List Piece) : Bool :=
  (openReleases s).any fun o => o.tid != tid && inInstance o.scope o.core core && ps.any fun p => overlapsIn s p.loc p.n o.loc o.n

/-- A release at a scope that holds all parties of the package waits for all earlier accesses (R247). -/
def wideRelease (ord scope : Nat) : Bool := decide (2 ≤ ord ∧ 4 ≤ scope)
/-- A release at `.core`, `.clu` or `.die`: the parties of its instance see it after what it follows, the others when it is made
(R219, R236). -/
def narrowRelease (ord scope : Nat) : Bool := decide (2 ≤ ord ∧ 1 ≤ scope ∧ scope < 4)

/-- Is a release of some pieces still behind earlier accesses of its thread: a wide one until they are performed, a narrow one while one of them
waits for another thread's open release, and one at `.th` while one of them reaches the same bytes (R247). -/
def releaseBehind (s : State) (tid id ord scope : Nat) (ps : List Piece) : Bool :=
  (wideRelease ord scope && !(unperformed s tid id).isEmpty) ||
    (narrowRelease ord scope && s.accesses.any fun b =>
      b.tid == tid && decide (b.id < id) && !b.early && heldByRelease s b.tid b.core b.todo) ||
    (decide (2 ≤ ord) && scope == 0 && s.accesses.any fun b =>
      b.tid == tid && decide (b.id < id) && b.todo.any fun q => ps.any fun p => overlapsIn s p.loc p.n q.loc q.n)

/-- Is an access in flight. -/
def inFlight (s : State) (id : Nat) : Bool := s.accesses.any fun a => a.id == id
/-- The thread's accesses in flight. -/
def ownAccesses (s : State) (tid : Nat) : List Access := s.accesses.filter fun a => a.tid == tid
/-- Is it a load. -/
def AccOp.isLoad : AccOp → Bool
  | .load => true
  | _ => false

/-- Does an acquire in flight, a release in flight or open, or a fence hold back this access of a thread (R247, R248). A release at `.th` leaves once
no earlier access of the thread to the same bytes is outstanding.
`store` says whether it counts as a store, `ro` whether it is an RO load. -/
def heldBackOf (s : State) (t : Thread) (store ro : Bool) : Bool :=
  (ownAccesses s t.tid).any (fun a => a.ord % 2 == 1 || (store && 2 ≤ a.ord && (a.scope != 0 || releaseBehind s a.tid a.id a.ord a.scope a.todo))) ||
    (store && (openReleases s).any fun o => o.tid == t.tid) ||
    t.holds.any fun h =>
      h.waits.any (inFlight s) && (h.kind == 0 || h.kind == 2 || (h.kind == 1 && store) || (h.kind == 3 && ro))
/-- The same for the current thread. -/
def heldBack (s : State) (store ro : Bool) : Bool := heldBackOf s s.cur store ro

/-- The access issues, unless it is held back. -/
def unheld (s : State) (store ro : Bool) (k : State → State) : State := if heldBack s store ro then retry s else k s

/-! ### Atomics -/

/-- The FP32 sum of an AMFADD: one exact product with MCNT, rounded once by RNE (R106). -/
def amfaddSum (old k mcnt : Nat) : Nat :=
  let p := match fpv k with
    | .fin n m e => Fv.fin n (m * mcnt) e
    | v => v
  (addV .rne (fpv old) p).1

/-- The signed value of the low `8n` bits. -/
def sintN (v n : Nat) : Int := (sextN v (8 * n)).toInt

/-- The value an atomic writes, or none where it writes nothing (R105 to R107, R152); `n` is its width in bytes. -/
def amoNew (aop n old k cmp mcnt : Nat) : Option Nat :=
  let m := 2 ^ (8 * n)
  match aop with
  | 0 => some ((old + k * mcnt) % m)
  | 1 => some (amfaddSum old k mcnt)
  | 2 => some (if sintN k n < sintN old n then k % m else old)
  | 3 => some (if sintN old n < sintN k n then k % m else old)
  | 4 => some (Nat.land old (k % m))
  | 5 => some (Nat.lor old (k % m))
  | 6 => some (if mcnt % 2 = 1 then Nat.xor old (k % m) else old)
  | 7 => some (k % m)
  | _ => if old = cmp % m then some (k % m) else none

/-! ### Registers that an access writes -/

/-- The offset and bytes of a register in its workspace. -/
def regSpan : RegName → Nat × Nat
  | .x n => (8 * n, 8)
  | .iv n => (0x100 + 8 * n, 8)
  | .v n => (0x400 + 0x40 * n, 64)
  | .p _ => (0x180, 4)

/-- Write a register of the workspace at `base`; a poisoned value poisons it whole (R400). -/
def putReg (s : State) (base : Nat) (r : RegName) (v : Nat) (poison : Bool) : State :=
  match r with
  | .x 0 => s
  | .p 0 => s
  | .p n => { s with pool := s.pool.writeNat (base + 0x180) 4 (setBits (s.pool.readNat (base + 0x180) 4) n 1 v) }
  | r =>
    let a := base + (regSpan r).1
    let n := (regSpan r).2
    let s1 := { s with pool := s.pool.writeNat a n v, poolPoison := unpoison s.poolPoison a n }
    if poison then { s1 with poolPoison := granules a n ++ s1.poolPoison } else s1

/-- The registers a destination names. -/
def destRegs : Dest → List RegName
  | .none => []
  | .x n _ _ => if n = 0 then [] else [.x n]
  | .iv n => [.iv n]
  | .v n => [.v n]
  | .fixed vals => (vals.map (·.1)).filter fun r => r != .x 0 && r != .p 0

/-- Write the value that an access returns. -/
def putDest (s : State) (base : Nat) (d : Dest) (v : Nat) (poison : Bool) : State :=
  match d with
  | .none => s
  | .x n size sg => putReg s base (.x n) ((if sg then sextN v (8 * size) else zextN v (8 * size)).toNat) poison
  | .iv n => putReg s base (.iv n) v poison
  | .v n => putReg s base (.v n) v poison
  | .fixed vals => vals.foldl (fun s r => putReg s base r.1 r.2 poison) s

/-! ### Issuing -/

/-- Put an access in flight: its destination registers are pending, and the device has a step to take. -/
def putInFlight (s : State) (a : Access) (dsts : List RegName) (e : Nat → Event) : State :=
  let id := s.nextId
  let a1 := { a with id := id }
  let t := s.cur
  { (s.later [e id]) with
    accesses := s.accesses ++ [a1], nextId := id + 1
    cur := { t with pend := t.pend ++ dsts.map fun r => { base := a.base, reg := r, id := id } } }

/-- A new access of the current thread. -/
def newAccess (s : State) (path : Nat) (op : AccOp) (pieces : List Piece) (d : Dest) (ord scope : Nat) : Access :=
  { id := s.nextId, tid := s.cur.tid, core := s.cur.core, path := path, op := op, pieces := pieces, base := wsOf s, dst := d
    ord := ord, scope := scope, early := false, poison := false, level := s.cur.priv, logs := [], pid := s.cur.pid
    amo := op != .load && op != .store, fences := s.cur.fences, pc := s.cur.pc, done := [] }

/-- Is a place in the current thread's own core. -/
def ownCore (s : State) : Loc → Bool
  | .pool k => k / 2 ^ 20 == s.cur.core
  | _ => false

/-- Is a place in the pool of another core. -/
def farPool (s : State) : Loc → Bool
  | .pool k => k / 2 ^ 20 != s.cur.core
  | _ => false

/-- Is a place one of the register words of the current thread's frame ring. -/
def ringPlace (s : State) : Loc → Bool
  | .pool k => inRing s s.cur k
  | _ => false

/-- Are the pieces accessed at the issue of their bundle: all in the own core's pool, and either one indivisible step, or register words
of the thread, which its next bundle reads. All other accesses are in flight. -/
def atIssue (s : State) (ps : List Piece) : Bool :=
  ps.all (fun p => ownCore s p.loc) && (decide (ps.length ≤ 1) || ps.any fun p => ringPlace s p.loc)

/-- Do pieces reach a register of a thread that an access before the one numbered `id` has still to write (R8, R71). -/
def pendingPlace (t : Thread) (id : Nat) (ps : List Piece) : Bool :=
  t.pend.any fun r => decide (r.id < id) &&
    ps.any fun p => overlaps p.loc p.n (.pool (r.base + (regSpan r.reg).1)) (regSpan r.reg).2

/-- Do these pieces, which would be accessed at issue, wait: an access of the thread in flight reaches their bytes (R71, R224, R226) or has still to
write the register that they are (R8, R71), or a release of another thread of their instance is open. -/
def notYet (s : State) (ps : List Piece) : Bool :=
  pendingPlace s.cur s.nextId ps ||
  ((ownAccesses s s.cur.tid).any fun b => b.todo.any fun q => ps.any fun p => overlapsIn s p.loc p.n q.loc q.n) ||
    heldByRelease s s.cur.tid s.cur.core ps

/-- The bytes that the pieces of a load have read. -/
def readPieces (s : State) (ps : List Piece) : List Piece :=
  ps.map fun p => { p with data := readLoc s p.loc p.n }
/-- Value of the bytes that a load's pieces hold. -/
def piecesValue (ps : List Piece) : Nat := leNat (ps.flatMap (·.data))

/-- A load of pieces: its pointers are checked, then it is in flight. What is accessed at issue has been read; another core's pool is
read by the core it names (R198). -/
def loadPieces (s : State) (n : Nat) (ptrs : List W64) (sub : Nat) (d : Dest) (ord scope : Nat) : State :=
  let path := pathOf (ptrs.headD 0)
  unheld s false (path == 1) fun s =>
    withPlaces s .load n [] ptrs fun s ls =>
      let split (p : W64 × Loc) : List Piece := (upTo (n / sub)).map fun i =>
        let l := match p.2 with
          | .mem a => Loc.mem (a + sub * i)
          | .pool a => .pool (a + sub * i)
          | .sys a => .sys (a + sub * i)
          | .log q a => .log q (a + sub * i)
          | .meas t a => .meas t (a + sub * i)
          | .dropped => .dropped
        { ptr := p.1 + BitVec.ofNat 64 (sub * i), loc := l, n := sub, data := [] }
      let ps := (ptrs.zip ls).flatMap split
      let a := newAccess s path .load ps d ord scope
      if ls.any (farPool s) then putInFlight s a (destRegs d) .nbrAccess
      else if !atIssue s ps then putInFlight s a (destRegs d) .loadDataLands
      else if notYet s ps then retry s
      else putInFlight s { a with pieces := readPieces s ps, early := true, poison := ps.any fun p => poisonedLoc s p.loc p.n }
          (destRegs d) .loadDataLands

/-- The log entries of stores to places: one for each piece, or one for each 64-byte line in the order first touched (R211, R251). -/
def storeEntries (ptrs : List (W64 × Loc × Nat)) (lines : Bool) : List (W64 × Loc × Nat) :=
  if lines then
    ptrs.foldl (fun acc p =>
      let r := p.1.toNat % 64
      let l := match p.2.1 with
        | .mem a => Loc.mem (a - r)
        | .pool a => .pool (a - r)
        | l => l
      let q := p.1 - BitVec.ofNat 64 r
      if acc.any fun x => x.1 == q then acc else acc ++ [(q, l, 64)]) []
  else ptrs

/-- Is a store through a pointer to a place logged (R196, R211): not on SYS, and on GEN not to another package. -/
def loggedPlace (p : W64) : Loc → Bool
  | .mem pa => pathOf p == 4 || !isRemote pa
  | .pool _ => true
  | .dropped => true
  | _ => false

/-- WIN of the entries of the current thread (R213). -/
def entryWin (s : State) : Nat := if nopen s = 0 then 0 else s.cur.wincur.toNat

/-- The entries that stores of the current thread need in a state (R211, R214): none without an open window or debug-log mode. -/
def entriesFor (places : List (W64 × Loc × Nat)) (s : State) : List LogEnt :=
  if nopen s = 0 ∧ !dlogOf s s.cur then []
  else (places.filter fun p => loggedPlace p.1 p.2.1).map fun p =>
    { path := pathOf p.1, sz := szCode p.2.2, addr := addrOf p.1, win := entryWin s
      data := readLoc s p.2.1 p.2.2, val := p.1 }

/-- The log entries of stores of the current thread. One for a line reports the pointer of the lowest lane that touches it, where the log has no
room (R362). -/
def storeLog (places : List (W64 × Loc × Nat)) (lines : Bool) (s : State) : List LogEnt :=
  let es := entriesFor (storeEntries places lines) s
  if lines then
    es.map fun e =>
      match places.find? fun p => pathOf p.1 == e.path && addrOf p.1 / 64 == e.addr / 64 with
      | some p => { e with val := p.1 }
      | none => e
  else es

/-- The log entries of an atomic of the current thread. Whether that of an AMCAS is a NOOP is known when it is performed: its event is sent then (R211,
R315). -/
def opEntries (op : AccOp) (es : State → List LogEnt) (s : State) : List LogEnt :=
  match op with
  | .rmw 8 _ _ _ => (es s).map fun e => { e with late := true }
  | _ => es s

/-- Is an access of the current thread still to be performed to bytes that log entries hold. -/
def lineBusy (s : State) (entries : List (W64 × Loc × Nat)) : Bool :=
  (ownAccesses s s.cur.tid).any fun b => b.todo.any fun q => entries.any fun e => overlapsIn s e.2.1 e.2.2 q.loc q.n

/-- Does the place make the store irreversible (R196, R216). -/
def fixesWindow : Loc → Bool
  | .sys _ => true
  | .mem pa => isRemote pa
  | _ => false

/-- DATA of the log entries of an access takes the bytes that a piece now overwrites, but for bytes that an earlier lane of the access
has written, whose old contents it holds (R211, R251). -/
def patchLogs (s : State) (a : Access) (p : Piece) : State :=
  if a.done.any fun d => overlaps p.loc p.n d.1 d.2 then s else a.logs.foldl (fun s r =>
    let at? : Option Nat := match r.loc, p.loc with
      | .mem x, .mem y => if x ≤ y ∧ y + p.n ≤ x + r.n then some (y - x) else none
      | .pool x, .pool y => if x ≤ y ∧ y + p.n ≤ x + r.n then some (y - x) else none
      | _, _ => none
    match at? with
    | none => s
    | some d =>
      match (s.thread? a.tid).map fun t => writeLog s t (r.off + 16 + d) (readLoc s p.loc p.n) with
      | some (.ok s1) => s1
      | _ => s) s

/-- A failing AMCAS logs a NOOP (R211): SZ of its entry becomes 6. -/
def noopLogs (s : State) (a : Access) : State :=
  a.logs.foldl (fun s r =>
    match (s.thread? a.tid).map fun t =>
      writeLog s t (r.off + 7) [BitVec.ofNat 8 (logNat s a.pid (r.off + 7) 1 / 16 * 16 + 12 + logNat s a.pid (r.off + 7) 1 % 2)] with
    | some (.ok s1) => s1
    | _ => s) s

/-- A release is made while earlier accesses of its thread are not performed, one of a narrow scope or one to register words of the thread: it is
open (R236, R247). -/
def openRelease (s : State) (a : Access) (p : Piece) : State :=
  let waits := unperformed s a.tid a.id
  if decide (2 ≤ a.ord ∧ 1 ≤ a.scope) && !waits.isEmpty then
    { s with opens := { tid := a.tid, core := a.core, scope := a.scope, loc := p.loc, n := p.n, waits := waits, meet := false } :: openReleases s }
  else s

/-- Perform one piece of a store (R227); data that came poisoned poisons what it is written to, and a granule that the access has wholly written is poisoned no longer (R399, R400). A dropped one writes
nothing (R210). -/
def performPiece (s : State) (a : Access) (p : Piece) (level : Nat) : State :=
  if p.loc = .dropped then s
  else
    let s1 := writeLoc (openRelease (patchLogs s a p) a p) (s.thread? a.tid) p.loc p.data level (dieOf a.core)
    if a.poison || p.bad then spoil s1 p.loc p.n else coverPoison s1 p.loc p.n a.done

/-- The access with one more piece performed. -/
def Access.did (a : Access) (p : Piece) : Access := { a with pieces := a.pieces.erase p, done := (p.loc, p.n) :: a.done }

/-- Perform pieces of a store, in the order given. -/
def performAll (level : Nat) : List Piece → Access → State → State
  | [], _, s => s
  | p :: rest, a, s => performAll level rest (a.did p) (performPiece s a p level)

/-- Perform an atomic: one indivisible read and write (R104, R229). The state, the old value and whether it was poisoned. -/
def performRmw (s : State) (a : Access) (p : Piece) (aop k cmp mcnt : Nat) : State × Nat × Bool :=
  let old := leNat (readLoc s p.loc p.n)
  let bad := poisonedLoc s p.loc p.n
  match amoNew aop p.n old k cmp mcnt with
  | some v =>
    if p.loc = .dropped then (tapFinal s a, old, false)
    else
      let s1 := writeLoc (openRelease (patchLogs s a p) a p) (s.thread? a.tid) p.loc (leBytes p.n v) 1 (dieOf a.core)
      (tapFinal (if a.poison then spoil s1 p.loc p.n else s1) a, old, bad || a.poison)
  | none => (tapFinal (noopLogs (patchLogs s a p) a) a, old, bad)

/-- The value an atomic returns (R104, R106). -/
def rmwDest (d : BitVec 5) (aop n : Nat) : Dest := .x d.toNat n (n == 4 && aop != 1)

/-- Stores of pieces or one atomic: the order, the pointers, the windows, the log, then the access performed at issue or
put in flight (R101, R104, R211, R216). A release that still waits is in flight; one to register words of the thread is made at once, and no party
of its scope sees it before what it follows (R8, R247). A vector store with log entries issues once no earlier access of the thread is outstanding to
their lines, whose bytes the entries hold (R211). One that the log area stops fixes no window (R216). -/
def storePieces (s : State) (kind : AccKind) (op : AccOp) (n : Nat) (ptrs : List (W64 × List Byte)) (sub : Nat) (lines : Bool)
    (d : Dest) (ord scope : Nat) : State :=
  unheld s true false fun s =>
    withPlaces s kind n (ptrs.map fun p => leNat p.2) (ptrs.map (·.1)) fun s ls =>
      let places := (ptrs.zip ls).map fun p => (p.1.1, p.2, n)
      let split (p : (W64 × List Byte) × Loc) : List Piece := (upTo (n / sub)).map fun i =>
        let l := match p.2 with
          | .mem x => Loc.mem (x + sub * i)
          | .pool x => .pool (x + sub * i)
          | .sys x => .sys (x + sub * i)
          | l => l
        { ptr := p.1.1 + BitVec.ofNat 64 (sub * i), loc := l, n := sub, data := (p.1.2.drop (sub * i)).take sub }
      let ps := (ptrs.zip ls).flatMap split
      let waits := releaseBehind s s.cur.tid s.nextId ord scope ps && !(ps.any fun p => ringPlace s p.loc)
      let now := atIssue s ps
      let far := ls.any (farPool s)
      let entries := (storeEntries places lines).filter fun p => loggedPlace p.1 p.2.1
      let go (s0 s : State) : State :=
        loggedFrom s0 s (opEntries op (storeLog places lines)) fun s offs =>
          let refs := (offs.zip entries).map fun r => { off := r.1, loc := r.2.2.1, n := r.2.2.2, win := entryWin s : LogRef }
          let a := { newAccess s (pathOf (ptrs.headD (0, [])).1) op ps d ord scope with logs := refs }
          if now && !waits then
            match op with
            | .rmw aop k cmp mcnt =>
              match ps with
              | p :: _ =>
                let r := performRmw s a p aop k cmp mcnt
                putInFlight r.1 { a with op := .load, early := true, poison := r.2.2, pieces := [{ p with data := leBytes p.n r.2.1 }] }
                  (destRegs d) .loadDataLands
              | [] => s
            | _ => performAll s.cur.priv ps a s
          else if far then putInFlight s a (destRegs d) .nbrAccess
          else putInFlight s a (destRegs d) .storePerformed
      if (now && !waits && notYet s ps) || (lines && !(entriesFor places s).isEmpty && lineBusy s entries) then retry s
      else
        match (ptrs.zip ls).find? fun p => fixesWindow p.2 with
        | some p => irreversible s p.1.1 (go s)
        | none => go s s

/-! ### Performing and landing -/

/-- A pending step that a SYS access must follow: SYS accesses keep issue order (R201, R226). -/
def sysStep : Event → Bool
  | .registerWrite _ _ _ => true
  | .exti _ => true
  | .qgo => true
  | .fvadv _ => true
  | .tadm _ => true
  | .ccgoResume _ _ => true
  | .ccgoTrap _ _ _ => true
  | .ccgoRetire _ _ => true
  | .ccgoStop _ _ => true
  | .ccgoCresume _ _ _ => true
  | .ccgoCend _ _ _ _ => true
  | .dcmdHalt _ _ => true
  | .dcmdStop _ _ _ => true
  | .dcmdStep _ _ _ _ => true
  | .dcmdRstep _ _ _ _ => true
  | .dcmdGo _ _ _ => true
  | .dcmdDlogOn _ _ _ => true
  | .dcmdDlogOff _ _ _ => true
  | .dcmdMark _ _ _ => true
  | .dcmdTrim _ _ _ => true
  | _ => false

/-- Is it an access on the SYS path. -/
def onSys (a : Access) : Bool := a.path == 5

/-- Do accesses of one thread to the same bytes keep program order without a fence: the codes C and A of R226 for their paths. -/
def pathsOrdered (p q : Nat) : Bool :=
  (p == q && (p == 0 || p == 4 || p == 5 || p == 6)) || ((p == 2 || p == 3) && (q == 2 || q == 3))

/-- Do accesses of one thread to the same bytes keep program order where a FENCE stands between them: the code F of R226. -/
def fenceOrders (p q : Nat) : Bool :=
  ((p == 0 || p == 1 || p == 4) && (q == 0 || q == 1 || q == 4)) || (p == 6 && q == 0) || (p == 7 && q == 7)

/-- Does a later access of a thread keep its order with an earlier one to the same bytes (R224, R226): on these paths, or since a FENCE
stands between them. -/
def keepsOrder (b a : Access) : Bool := pathsOrdered b.path a.path || (fenceOrders b.path a.path && decide (b.fences < a.fences))

/-- The latest piece, still to be performed, of an earlier access of the thread that a piece must be ordered after. -/
def latestBefore (s : State) (a : Access) (p : Piece) : Option (Access × Piece) :=
  ((s.accesses.filter fun b => b.tid == a.tid && decide (b.id < a.id) && keepsOrder b a).flatMap fun b =>
    (b.todo.filter fun q => overlapsIn s p.loc p.n q.loc q.n).map fun q => (b, q)).getLast?

/-- Where a piece of a store lies, as an address of its own memory: in main memory, or in a pool outside the workspaces. -/
def plainPlace (s : State) : Loc → Option Nat
  | .mem x => some x
  | .pool x => if inWorkspaces s x then none else some x
  | _ => none

/-- A load takes the bytes of its thread's own latest store to them on the same path, while that store is still outstanding (R71, R222):
the bytes, and whether they are poisoned. -/
def forwarded (s : State) (a : Access) (p : Piece) : Option (List Byte × Bool) :=
  match a.op, latestBefore s a p with
  | .load, some (b, q) =>
    match plainPlace s p.loc, plainPlace s q.loc with
    | some x, some y =>
      if b.op = .store ∧ b.path = a.path ∧ y ≤ x ∧ x + p.n ≤ y + q.n then some ((q.data.drop (x - y)).take p.n, b.poison || q.bad) else none
    | _, _ => none
  | _, _ => none

/-- Must the access wait: an earlier access of its thread that it is ordered after reaches the same bytes (R71, R224, R226), it is a
release behind an earlier one (R247), it reaches a register that an earlier one has still to write (R8, R71), it would see an open release too early (R236), or it is on SYS and an earlier SYS store
has still its effect to make. -/
def mustFollow (s : State) (a : Access) : Bool :=
  (onSys a && s.agenda.any sysStep) || ((s.thread? a.tid).any fun t => pendingPlace t a.id a.todo) || releaseBehind s a.tid a.id a.ord a.scope a.todo ||
    (a.todo.any fun p => (latestBefore s a p).isSome && (forwarded s a p).isNone) || heldByRelease s a.tid a.core a.todo

/-- Change an access in flight. -/
def modAccess (s : State) (id : Nat) (f : Access → Access) : State :=
  { s with accesses := s.accesses.map fun a => if a.id = id then f a else a }

/-- What an access that is over leaves in its thread: no register and no fence waits for it; where it was the last that a FENCE.ro waited for,
the lines brought in before now serve the thread no longer (R225, R248). `fill` is the number of the next fill. -/
def Thread.afterAccess (t : Thread) (id fill : Nat) : Thread :=
  { t with
    pend := t.pend.filter fun p => p.id ≠ id
    holds := (t.holds.map fun h => { h with waits := h.waits.filter (· ≠ id) }).filter fun h => !h.waits.isEmpty
    roFrom := if t.holds.any fun h => h.kind == 3 && h.waits.contains id && h.waits.all (· == id) then fill else t.roFrom }

/-- An access is over: nothing waits for it any more. -/
def endAccess (s : State) (a : Access) : State :=
  { s with accesses := s.accesses.filter fun b => b.id ≠ a.id }.modThread a.tid fun t => t.afterAccess a.id s.roNext

/-- The line of a read-only buffer that may serve a thread: one brought in since its last FENCE.ro, or since its creation (R199, R225). -/
def roLine (s : State) (core : Nat) (pid : BitVec 16) (va from' : Nat) : Option RoLine :=
  s.ro.find? fun l => l.cluster == clusterOf core && l.pid == pid && l.line == va / 128 && decide (from' ≤ l.fill)

/-- A line comes into a cluster's buffer, which holds 512 of 128 bytes (R199): the one of the same address goes, and the oldest where there
is no room (log entry 43, DESIGN CHOICE). -/
def roFill (s : State) (cluster : Nat) (pid : BitVec 16) (va : Nat) (bytes : List Byte) : State :=
  { s with
    roNext := s.roNext + 1
    ro := { cluster := cluster, pid := pid, line := va / 128, bytes := bytes, fill := s.roNext } ::
      keepFirst (fun l => l.cluster == cluster) 511 (s.ro.filter fun l => !(l.cluster == cluster && l.pid == pid && l.line == va / 128)) }

/-- Read one piece of a load. An RO piece comes from the cluster's buffer, and a miss brings its line in (R199), unless the frame is another
package's (R203). A LOG piece whose page does not translate is reported to the fault service and not to the thread (R201; log entry 105,
DEDUCED). -/
def readPiece (s : State) (a : Access) (p : Piece) : List Byte × State :=
  match a.path, p.loc with
  | 1, .mem pa =>
    let va := addrOf p.ptr
    match roLine s a.core a.pid va (((s.thread? a.tid).map (·.roFrom)).getD 0) with
    | some l => ((l.bytes.drop (va % 128)).take p.n, s)
    | none =>
      (s.hbm.readBytes pa p.n, if isRemote pa then s else roFill s (clusterOf a.core) a.pid va (s.hbm.readBytes (pa - va % 128) 128))
  | _, .log pid off =>
    (readLoc s p.loc p.n,
      match deviceAddr s pid (logAddr s pid off) false, s.thread? a.tid with
      | .error c, some t => s.later [.faultNotification pid t.recd (stopWord c 0 6 a.core t.slot) p.ptr 0]
      | _, _ => s)
  | _, l => (readLoc s l p.n, s)

/-- Choose one of `n` alternatives that the spec leaves open: by the list `sched`, else the first (log entry 38, DESIGN CHOICE). -/
def pickOf (s : State) (n : Nat) : Nat × State :=
  if n ≤ 1 then (0, s)
  else
    match s.sched with
    | [] => (0, s)
    | c :: rest => (c % n, { s with sched := rest })

/-- The bytes of a piece of a load: those of the thread's own outstanding store, or those of its place. -/
def pieceBytes (s : State) (a : Access) (p : Piece) : List Byte × Bool × State :=
  match forwarded s a p with
  | some f => (f.1, f.2, s)
  | none =>
    let r := readPiece s a p
    (r.1, poisonedLoc s p.loc p.n, r.2)

/-- The pieces of a load that read the same bytes take the same write (R251). -/
def fillSame (p : Piece) (data : List Byte) (ps : List Piece) : List Piece :=
  ps.map fun q => if q.data.isEmpty && q.loc == p.loc && q.n == p.n then { q with data := data } else q

/-- The pieces of a store that no lower lane's piece to the same bytes goes before (R251). -/
def leaders : List Piece → List Piece → List Piece
  | _, [] => []
  | seen, p :: rest =>
    (if seen.any fun q => overlaps p.loc p.n q.loc q.n then [] else [p]) ++ leaders (p :: seen) rest

/-- The registers of an access are written (R71), also in what a MEET that waits for its answer keeps of its workspace (R148). -/
def landValue (s : State) (a : Access) (v : Nat) (poison : Bool) : State :=
  (putDest s a.base a.dst v poison).modThread a.tid fun t =>
    { t with seam := t.seam.map fun r =>
        let u := putDest { s with pool := r.undo, poolPoison := r.undoPoison } a.base a.dst v poison
        { r with undo := u.pool, undoPoison := u.poolPoison } }

/-- All bytes of a load have arrived: its registers are written (R71). -/
def landAccess (s : State) (a : Access) : State :=
  endAccess (landValue s a (piecesValue a.pieces) a.poison) a

/-- An access gets no answer, because the link that carries it is down (R391): a load or an atomic returns poisoned data; a store or
an atomic may have been performed or not (log entry 8, DESIGN CHOICE), and for a store the fault service is told. -/
def unanswered (s : State) (a : Access) : State :=
  let ran := Config.unansweredStorePerformed s.freeNext
  let s1 : State := { s with freeNext := s.freeNext + 1 }
  let p := (a.pieces.headD { ptr := 0, loc := .dropped, n := 0, data := [] }).ptr
  match a.op with
  | .load =>
    let r := freshValue s1 ((a.pieces.map (·.n)).sum)
    let s2 := landValue r.2 a r.1 true
    endAccess (if a.amo then tellUnanswered s2 { (s2.thread? a.tid).getD s2.cur with pid := a.pid, core := a.core } 2 a.path p else s2) a
  | .store =>
    let s2 := if ran then performAll a.level a.pieces a s1 else s1
    let t := (s2.thread? a.tid).getD s2.cur
    endAccess (tellUnanswered s2 { t with pid := a.pid, core := a.core } 1 a.path p) a
  | .rmw aop k cmp mcnt =>
    match a.pieces with
    | q :: _ =>
      let s2 := if ran then (performRmw s1 a q aop k cmp mcnt).1 else tapFinal s1 a
      let r := freshValue s2 q.n
      let t := (s2.thread? a.tid).getD s2.cur
      endAccess (tellUnanswered (landValue r.2 a r.1 true) { t with pid := a.pid, core := a.core } 2 a.path p) a
    | [] => endAccess s1 a

/-- One step of a load: one of its pieces is read, the choice being open (R220), and with the last one the load goes on to `fin`. -/
def loadStep (s : State) (a : Access) (fin : State → Access → State) (again : Event) : State :=
  match a.todo with
  | [] => fin s a
  | p0 :: _ =>
    let c := pickOf s a.todo.length
    let p := a.todo.getD c.1 p0
    let r := pieceBytes c.2 a p
    let a1 := { a with pieces := fillSame p r.1 a.pieces, poison := a.poison || r.2.1 }
    if a1.todo.isEmpty then fin r.2.2 a1 else (modAccess r.2.2 a.id fun _ => a1).later [again]

/-- One step of a store: one of its pieces is performed, the choice being open among lanes to different bytes (R220, R251), and with the
last one the store goes on to `fin`. -/
def storeStep (s : State) (a : Access) (fin : State → Access → State) (again : Event) : State :=
  match leaders [] a.pieces with
  | [] => fin s a
  | p0 :: rest =>
    let c := pickOf s (p0 :: rest).length
    let p := (p0 :: rest).getD c.1 p0
    let s1 := performPiece c.2 a p a.level
    if (a.did p).pieces.isEmpty then fin s1 (a.did p) else (modAccess s1 a.id fun _ => a.did p).later [again]

/-- One step of a load in flight. -/
def landStep (s : State) (a : Access) : State := loadStep s a landAccess (.loadDataLands a.id)

/-- One step of a store or an atomic in flight. -/
def performStep (s : State) (a : Access) : State :=
  match a.op, a.pieces with
  | .rmw aop k cmp mcnt, p :: _ =>
    let r := performRmw s a p aop k cmp mcnt
    endAccess (landValue r.1 a r.2.1 r.2.2) a
  | _, _ => storeStep s a endAccess (.storePerformed a.id)

/-- The core that an NBR access names takes its part (R198): it reads a piece of a load, or makes a piece of the store or the atomic;
after the last one the answer travels back. -/
def nbrStep (s : State) (a : Access) : State :=
  let back (op : AccOp) (e : Event) (s : State) (a1 : Access) : State :=
    (modAccess s a.id fun _ => { a1 with op := op, early := true }).later [e]
  match a.op, a.pieces with
  | .load, _ => loadStep s a (back .load (.loadDataLands a.id)) (.nbrAccess a.id)
  | .rmw aop k cmp mcnt, p :: _ =>
    let r := performRmw s a p aop k cmp mcnt
    back .load (.loadDataLands a.id) r.1 { a with pieces := [{ p with data := leBytes p.n r.2.1 }], poison := r.2.2 }
  | _, _ => storeStep s a (back .store (.storePerformed a.id)) (.nbrAccess a.id)

end Sys2Proof.Machine
end

