-- ==== Sys2Proof/Machine/Control.lean ====
section
/-!
DEFINITION. Control flow, calls and frames (01_the_sequential_machine.md R17 to R20, 04_scalar_instructions.md R94 to R100).
-/
namespace Sys2Proof.Machine

/-- A displacement in bundles from the bundle's own address (R95). -/
def bundleTarget (s : State) (disp len : Nat) : W64 := s.cur.pc + sextN disp len * 8

/-- The next workspace of the frame ring (R18). -/
def frameNext (s : State) (t : Thread) : Nat :=
  if t.wp + 0x800 < t.ring + frameRing s t * 0x800 then t.wp + 0x800 else t.ring
/-- The workspace before the current one in the frame ring (R20). -/
def framePrev (s : State) (t : Thread) : Nat :=
  if t.ring < t.wp then t.wp - 0x800 else t.ring + (frameRing s t - 1) * 0x800

/-- Poison marks that move with a copy of `n` bytes: the granules that bytes of a poisoned one reach. -/
def movedPoison (src : List Nat) (sa : Nat) (dst : List Nat) (da n : Nat) : List Nat :=
  unpoison dst da n ++ src.flatMap fun g =>
    let lo := Nat.max (8 * g) sa
    let hi := Nat.min (8 * g + 8) (sa + n)
    if lo < hi then granules (da + (lo - sa)) (hi - lo) else []

/-- Bytes of the thread's spill area (R126): 2^SPL KiB of its launch, and 1 KiB for a thread of no launch (log entry 112, DESIGN CHOICE). -/
def spillSize (s : State) (t : Thread) : Nat :=
  match s.launch? t.lnch with
  | some l => 2 ^ l.spl * 1024
  | none => 1024

/-- Spill areas of a context: base and end offset in its backing store. -/
def spillAreas (s : State) (pid : BitVec 16) : List (Nat × Nat) :=
  let b := sysQ s (descAt pid + 0x30)
  (s.allThreads.filter fun t => t.pid == pid && t.spill != 0).map fun t =>
    (t.slim.toNat - b - spillSize s t, t.slim.toNat - b)

/-- The lowest place of the backing store with room for a spill area (R126, log entry 18, DESIGN CHOICE). -/
def freeSpill (s : State) (t : Thread) : Option Nat :=
  let size := spillSize s t
  let areas := spillAreas s t.pid
  let cands := (0 :: areas.map fun a => (a.2 + size - 1) / size * size).filter fun o =>
    decide (o + size ≤ sysQ s (descAt t.pid + 0x38)) && !(areas.any fun a => decide (a.1 < o + size ∧ o < a.2))
  match cands with
  | [] => none
  | c :: rest => some (rest.foldl Nat.min c)

/-- The thread's spill area, taken at its first spill (R126); a reserved slot has none (R290). -/
def withSpillArea (s : State) (k : State → State) : State :=
  let t := s.cur
  if t.spill ≠ 0 then k s
  else if t.handler.isSome then trap s cSTACKOVF 0
  else
    match freeSpill s t with
    | none => trap s cSTACKOVF 0
    | some o =>
      let base := sysQ s (descAt t.pid + 0x30) + o
      k { s with cur := { t with spill := BitVec.ofNat 64 base, slim := BitVec.ofNat 64 (base + spillSize s t) } }

/-- A frame at a key of the pools goes to the places of its parts, with its poison marks. -/
def frameOut (die key : Nat) : List (Loc × Nat) → Nat → State → State
  | [], _, s => s
  | (l, n) :: rest, o, s =>
    frameOut die key rest (o + n)
      (match l with
        | .mem pa =>
          { s with
            hbm := s.hbm.copyFrom pa s.pool (key + o) n
            hbmPoison := movedPoison s.poolPoison (key + o) s.hbmPoison pa n }
        | l => writeLoc s none l (s.pool.readBytes (key + o) n) 3 die)

/-- A frame at a key of the pools comes from the places of its parts, with its poison marks; a dropped part reads zero (R210). -/
def frameIn (die key : Nat) : List (Loc × Nat) → Nat → State → State
  | [], _, s => s
  | (l, n) :: rest, o, s =>
    frameIn die key rest (o + n)
      (match l with
        | .mem pa =>
          { s with
            pool := s.pool.copyFrom (key + o) s.hbm pa n
            poolPoison := movedPoison s.hbmPoison pa s.poolPoison (key + o) n }
        | l => putPoolBytes (if l = .dropped then errCount s die 0x58 else s) (key + o) (readLoc s l n))

/-- Write the frame at a position of the ring to the backing store (R18, R19): stores of the thread, of which every page is translated first.
Loads still to land in it come first. Where the way is cut, it may be written or not, and the fault service is told (R391; log entry 8, DESIGN
CHOICE). A first spill whose new area is too small leaves SPILL as it was, with the new area's base in TVAL (log entry 131, DESIGN CHOICE). -/
def spillFrame (s : State) (pos : Nat) (k : State → State) : State :=
  let key := poolKey s.cur.core pos
  if s.cur.pend.any fun p => p.base == key then retry s
  else withSpillArea s fun s0 =>
    let t := s0.cur
    if t.slim.toNat < t.spill.toNat + 0x800 then trap s cSTACKOVF t.spill
    else
      match threadPlaces t .store 0 (pageParts 3 (addrOf t.spill) 0x800) s0 with
      | (s1, .error f) => suspendFault s1 f.1 1 0 (BitVec.ofNat 64 f.2) 0 t.pc
      | (s1, .ok ls) => whenReachable s1 (ls.map (·.1)) fun s1 =>
        let s2 :=
          if ls.any fun l => cutOff s1 (dieOf t.core) l.1 then
            let s2 := if Config.unansweredStorePerformed s1.freeNext then frameOut (dieOf t.core) key ls 0 s1 else s1
            tellUnanswered { s2 with freeNext := s2.freeNext + 1 } t 1 0 t.spill
          else frameOut (dieOf t.core) key ls 0 s1
        k (s2.modCur fun t => { t with spill := t.spill + 0x800, spilled := t.spilled + 1 })

/-- A LOC pointer. -/
def locPtr (off : Nat) : W64 := BitVec.ofNat 64 (0x2 * 2 ^ 60 + off)

/-- CALL to a target (R17): the target is checked, a full ring spills its oldest frame, and the new frame takes x1 to x7, the
status block, SRSEED and TVEC, as they stood before the bundle; its other words are undefined. DEPTH is 8 bits wide and wraps, so that a
call at depth 255 leaves depth 0 (log entry 102, DESIGN CHOICE). -/
def callTo (s : State) (target : W64) : State :=
  checkTarget s target fun s =>
    let new := frameNext s s.cur
    let full := s.cur.depth.toNat - s.cur.spilled + 1 ≥ frameRing s s.cur
    let go (s : State) : State :=
      let old := wsKey s.cur
      let k := poolKey s.cur.core new
      let m0 := rpool s
      let m1 := s.pool.forget (k + 8) (k + 0x800) s.freeNext
      let m2 := (m1.clear k (k + 8)).copyFrom (k + 8) m0 (old + 8) 56
      let m3 := m2.copyFrom (k + 0x180) m0 (old + 0x180) 64
      let m4 := m3.copyFrom (k + 0x1D0) m0 (old + 0x1D0) 16
      let m5 := (m4.writeNat (k + 0x1C0) 8 (s.cur.pc + 8).toNat).writeNat (k + 0x1C8) 8 (locPtr s.cur.wp).toNat
      { s with
        pool := m5, freeNext := s.freeNext + 1
        poolPoison := movedPoison (rpoison s) (old + 8) (unpoison s.poolPoison k 0x800) (k + 8) 56
        cur := { s.cur with wp := new, npc := target, depth := s.cur.depth + 1 } }
    if full then spillFrame s new go else go s

/-- Read a spilled caller's frame back (R20): loads of the thread, of which every page is translated first; its word of x0 is zero, and bit 0 of
its STAT set, whatever the backing store holds (R7, R9). Where the way is cut, poisoned data returns (R391). -/
def refillFrame (s : State) (pos : Nat) (k : State → State) : State :=
  let t := s.cur
  let key := poolKey t.core pos
  let p := t.spill - 0x800
  if t.pend.any fun q => q.base == key then retry s
  else
    match threadPlaces t .load 0 (pageParts 3 (addrOf p) 0x800) s with
    | (s1, .error f) => suspendFault s1 f.1 0 0 (BitVec.ofNat 64 f.2) 0 t.pc
    | (s1, .ok ls) => whenReachable s1 (ls.map (·.1)) fun s1 =>
      let s2 : State :=
        if ls.any fun l => cutOff s1 (dieOf t.core) l.1 then
          { s1 with pool := s1.pool.forget key (key + 0x800) s1.freeNext, poolPoison := granules key 0x800 ++ s1.poolPoison, freeNext := s1.freeNext + 1 }
        else frameIn (dieOf t.core) key ls 0 s1
      k ((fixRing s2 key 1).modCur fun t => { t with spill := p, spilled := t.spilled - 1 })

/-- RET (R20): the caller's frame takes x1 to x7, the status block, SRSEED and TVEC as they stood before the bundle (R50). A bad target traps before a
spilled frame is read back (log entry 124, DESIGN CHOICE). -/
def returnCall (s : State) : State :=
  let t := s.cur
  if t.depth = 0 then trap s cILLEG (bundleNow s)
  else
    let target : W64 := BitVec.ofNat 64 (getSt s 0x1C0 8)
    checkTarget s target fun s =>
      let old := wsKey s.cur
      let prev := framePrev s s.cur
      let m0 := rpool s
      let q0 := rpoison s
      let go (s : State) : State :=
        let k := poolKey s.cur.core prev
        let m1 := (s.pool.copyFrom (k + 8) m0 (old + 8) 56).copyFrom (k + 0x180) m0 (old + 0x180) 64
        let m2 := m1.copyFrom (k + 0x1D0) m0 (old + 0x1D0) 16
        { s with
          pool := m2, poolPoison := movedPoison q0 (old + 8) (unpoison (unpoison s.poolPoison (k + 0x180) 64) (k + 0x1D0) 16) (k + 8) 56
          cur := { s.cur with wp := prev, npc := target, depth := s.cur.depth - 1 } }
      if s.cur.depth.toNat ≤ s.cur.spilled then refillFrame s prev go else go s

/-- C_NOP (R52, R100). -/
def execCNop (_g : BitVec 4) (s : State) : Result :=
  .next (s)

/-- BR (R94, R95). -/
def execBr (d : BitVec 21) (g : BitVec 4) (s : State) : Result :=
  .next (guarded g s fun s => goTo s (bundleTarget s d.toNat 21))

/-- CALL (R17 to R19, R98). -/
def execCall (d : BitVec 21) (g : BitVec 4) (s : State) : Result :=
  .next (guarded g s fun s => callTo s (bundleTarget s d.toNat 21))

/-- JMPR (R94, R97). -/
def execJmpr (b : BitVec 5) (o : BitVec 11) (g : BitVec 4) (s : State) : Result :=
  .next (guarded g s fun s => goTo s (plusOff (rX s b) o.toNat 11 8))

/-- CALLR (R17 to R19, R97). -/
def execCallr (b : BitVec 5) (o : BitVec 11) (g : BitVec 4) (s : State) : Result :=
  .next (guarded g s fun s => callTo s (plusOff (rX s b) o.toNat 11 8))

/-- RET (R20, R97). -/
def execRet (g : BitVec 4) (s : State) : Result :=
  .next (guarded g s returnCall)

/-- LOOP (R99). -/
def execLoop (d : BitVec 5) (o : BitVec 11) (g : BitVec 4) (s : State) : Result :=
  .next (guarded g s fun s =>
    let v := rX s d - 1
    if v = 0 then wX s d v
    else checkTarget s (bundleTarget s o.toNat 11) fun s => goTo (wX s d v) (bundleTarget s o.toNat 11))

/-- BR_LONG (R94, R95). -/
def execBrLong (ext : W32) (g : BitVec 4) (s : State) : Result :=
  .next (guarded g s fun s => goTo s (bundleTarget s ext.toNat 32))

/-- CALL_LONG (R17 to R19, R98). -/
def execCallLong (ext : W32) (g : BitVec 4) (s : State) : Result :=
  .next (guarded g s fun s => callTo s (bundleTarget s ext.toNat 32))

/-- JMP (R94, R96). -/
def execJmp (ext : W32) (g : BitVec 4) (s : State) : Result :=
  .next (guarded g s fun s => goTo s (BitVec.ofNat 64 (bits s.cur.pc.toNat 35 22 * 2 ^ 35 + ext.toNat * 8)))

end Sys2Proof.Machine
end

