-- ==== Sys2Proof/Machine/Records.lean ====
section
/-!
DEFINITION. Continuation records and the saved images of workspaces in a context's memory (R126), and what a suspension leaves behind
(R127).
-/
namespace Sys2Proof.Machine

/-! ### Records (R126) -/

/-- The code of a state (R126). -/
def stateCode : TState → Nat
  | .free => 0
  | .ready => 1
  | .running => 2
  | .seam => 3
  | .waiting => 4
  | .fault => 5
  | .preempted => 6
  | .stopped => 7

/-- Core id as CORE and HOME hold it; a control core reads its number on die K (log entry 12, DESIGN CHOICE). -/
def coreField (core : Nat) : Nat := core % 4096

/-- WLOC: where the thread's workspace is. -/
def wlocOf (t : Thread) : W64 :=
  if t.img.isSome then BitVec.ofNat 64 ((imageAt t + (t.wp - t.ring)) % 2 ^ 57) else locPtr t.wp

/-- The bytes of a continuation record. -/
def recordBytes (t : Thread) : List Byte :=
  let home := if t.img.isSome && !t.home then 0xFFF else coreField t.core
  let grpw := t.lnch * 2 ^ 48 + t.grps.toNat % 2 ^ 36
  let cstat := home * 2 ^ 52 + t.slot * 2 ^ 48 + t.depth.toNat * 2 ^ 32 + t.key * 2 ^ 16 + stateCode t.state
  leBytes 8 t.pc.toNat ++ leBytes 8 (wlocOf t).toNat ++ leBytes 4 t.lmask.toNat ++ leBytes 4 t.mcnt.toNat ++ leBytes 4 t.unitid.toNat ++
    leBytes 4 t.draw.toNat ++ leBytes 8 t.spill.toNat ++ leBytes 8 t.slim.toNat ++ leBytes 8 grpw ++ leBytes 8 cstat

/-- The record's place in memory; a thread made before its context has page tables keeps it in its core only. -/
def recordAddr (s : State) (t : Thread) : Option Nat :=
  if t.recd = 0 then none
  else
    match deviceAddr s t.pid (addrOf t.recd) true with
    | .ok pa => some pa
    | .error _ => none

/-- Write a thread's record as it is given (R126). -/
def putRecord (s : State) (t : Thread) : State :=
  match recordAddr s t with
  | none => s
  | some pa => { s with hbm := s.hbm.writeBytes pa (recordBytes t), hbmPoison := unpoison s.hbmPoison pa 64 }

/-- Write a thread's record (R126). -/
def saveRecord (s : State) (tid : Nat) : State :=
  match s.thread? tid with
  | none => s
  | some t => putRecord s t

/-- The image of a thread that is not resident stands in its context's memory, if that place translates. -/
def saveImage (s : State) (tid : Nat) : State :=
  match s.thread? tid with
  | none => s
  | some t =>
    match t.img with
    | none => s
    | some m =>
      match ctxWrite s t.pid (imageAt t) (m.readBytes 0 (frameRing s t * 0x800)) with
      | .ok s1 => s1
      | .error _ => s

/-- A thread whose record holds the WLOC `w`: its image is read from there; a resident workspace is at that offset. A poisoned granule of
the image stays poisoned where its bytes are as they were. -/
def loadWloc (s : State) (t : Thread) (w : Nat) : Thread :=
  match t.img with
  | some m =>
    if w / 2 ^ 60 ≠ 0 then t
    else
      match ctxRead s t.pid ((w + 2 ^ 57 - (t.wp - t.ring)) % 2 ^ 57) (frameRing s t * 0x800) with
      | .ok l =>
        let m1 := fixFrames (Memory.empty.writeBytes 0 l) 0 (frameRing s t)
        { t with img := some m1, imgPoison := t.imgPoison.filter fun g => m1.readBytes (8 * g) 8 == m.readBytes (8 * g) 8 }
      | .error _ => t
  | none =>
    let off := w % 2 ^ 60
    if w / 2 ^ 60 ≠ 2 ∨ off % 0x800 ≠ 0 ∨ 0xC0000 ≤ off then t else { t with wp := off, ring := off - (t.wp - t.ring) }

/-- Take the fields that supervisor software may have written in a record (R126). -/
def loadRecord (s : State) (tid : Nat) : State :=
  match s.thread? tid with
  | none => s
  | some t =>
    match recordAddr s t with
    | none => s
    | some pa =>
      let q (o n : Nat) : Nat := s.hbm.readNat (pa + o) n
      let s1 := s.modThread tid fun t =>
        { loadWloc s t (q 8 8) with
          pc := BitVec.ofNat 64 (q 0 8), npc := BitVec.ofNat 64 (q 0 8), lmask := BitVec.ofNat 32 (q 0x10 4)
          mcnt := BitVec.ofNat 32 (q 0x14 4), draw := BitVec.ofNat 32 (q 0x1C 4), spill := BitVec.ofNat 64 (q 0x20 8)
          slim := BitVec.ofNat 64 (q 0x28 8) }
      let s2 := match s1.thread? tid with
        | some u => if u.img.isNone && u.ring != t.ring then fixRing s1 (poolKey u.core u.ring) (frameRing s1 u) else s1
        | none => s1
      tput s2 tid 0x18C 4 (q 0x14 4)

/-- The lowest record of the continuation area that no live thread has (R126, log entry 19, DESIGN CHOICE). -/
def freeRecord (s : State) (pid : BitVec 16) : W64 :=
  let used := (s.allThreads.filter fun t => t.pid == pid).map fun t => t.recd.toNat
  let base := sysQ s (descAt pid + 0x28)
  let k := ((upTo (used.length + 1)).find? fun i => !used.contains (base + 64 * i)).getD 0
  BitVec.ofNat 64 (base + 64 * k)

/-- Has the area room for one more record: its page maps, writable (R158, log entry 19, DESIGN CHOICE). -/
def recordRoom (s : State) (pid : BitVec 16) : Bool :=
  match deviceAddr s pid (addrOf (freeRecord s pid)) true with
  | .ok _ => true
  | .error _ => false

/-- Blocks outside LMASK become undefined at a suspension; blocks 6 and 7 stand (R127). -/
def dropDead (s : State) (tid : Nat) : State :=
  match s.thread? tid with
  | none => s
  | some t =>
    if t.img.isSome then s
    else
      let k := wsKey t
      (upTo 32).foldl (fun s i =>
        if bitAt t.lmask.toNat i || i == 6 || i == 7 then s
        else
          { s with
            pool := s.pool.forget (k + 0x40 * i + (if i = 0 then 8 else 0)) (k + 0x40 * i + 0x40) s.freeNext
            freeNext := s.freeNext + 1 }) s

/-- What a suspension leaves behind: dead blocks undefined, the record written (R126, R127). -/
def settle (s : State) (tid : Nat) : State := saveRecord (dropDead s tid) tid

end Sys2Proof.Machine
end

