-- ==== Sys2Proof/Machine/LoadStore.lean ====
section
/-!
DEFINITION. Loads, stores, atomics, fences, vector access, prefetch, and the steps of accesses and walks (04 R101 to R107, 05 R113, 09 R195 to R207, 12 R245 to R255).
-/
namespace Sys2Proof.Machine

/-- Scalar load (R101). -/
def loadX (s : State) (d : BitVec 5) (p : W64) (n : Nat) (sg : Bool) (ord scope : Nat) : State :=
  loadPieces s n [p] n (.x d.toNat n sg) ord scope
/-- Scalar store (R101). -/
def storeX (s : State) (d : BitVec 5) (p : W64) (n ord scope : Nat) : State :=
  storePieces s .store .store n [(p, leBytes n (rX s d).toNat)] n false .none ord scope
/-- Pointer of a load or store with offset, short form (R101). -/
def ptrShort (s : State) (b : BitVec 5) (o : BitVec 11) (n : Nat) : W64 := plusOff (rX s b) o.toNat 11 n
/-- Pointer of the long form: a byte offset (R101). -/
def ptrLong (s : State) (b : BitVec 5) (ext : W32) : W64 := rX s b + extS ext
/-- Width of an atomic (R104). -/
def amoBytes (w : BitVec 1) : Nat := if w = 1 then 8 else 4
/-- An atomic (R104, R105): operand X(d), MCNT from before the bundle. -/
def atomic (s : State) (aop : Nat) (d b : BitVec 5) (n ord scope : Nat) : State :=
  storePieces s .atomic (.rmw aop (rX s d).toNat 0 (rcur s).mcnt.toNat) n [(rX s b, [])] n false (rmwDest d aop n) ord scope
/-- The 16 pointers of a strided access (R249). -/
def stridePtrs (s : State) (b c : BitVec 5) : List W64 := (upTo 16).map fun i => rX s b + BitVec.ofNat 64 i * rX s c
/-- The 16 pointers of a gathered access (R249). -/
def gatherPtrs (s : State) (b : BitVec 5) (c : BitVec 4) : List W64 := (getV s c.toNat).map fun l => rX s b + sextN l 32
/-- A lane whose bits [63:57] differ from the base pointer's takes ADDR, unless a lower lane fails (R250). -/
def laneTops (s : State) (kind : AccKind) (base : W64) (ptrs : List W64) (k : State → State) : State :=
  match ptrs.findIdx? fun p => bits p.toNat 57 7 != bits base.toNat 57 7 with
  | none => k s
  | some i =>
    match checkPtrs s s.cur kind 4 [] (ptrs.take i) with
    | .bad c p => if c = cWATCH then breakOr s c (kindCode kind) (pathOf p) p else trap s c p
    | _ => trap s cADDR (ptrs.getD i 0)
/-- LDVS and LDVG (R249 to R251). -/
def loadLanes (s : State) (d : BitVec 4) (base : W64) (ptrs : List W64) : State :=
  laneTops s .load base ptrs fun s => loadPieces s 4 ptrs 4 (.v d.toNat) 0 0
/-- STVS and STVG (R249 to R251). -/
def storeLanes (s : State) (d : BitVec 4) (base : W64) (ptrs : List W64) : State :=
  laneTops s .store base ptrs fun s =>
    storePieces s .store .store 4 (ptrs.zip ((getV s d.toNat).map (leBytes 4))) 4 true .none 0 0
/-- Pointer of LDV and STV (R188). -/
def ptrV (s : State) (b c : BitVec 5) : W64 := rX s b + (rX s c <<< 6)
/-- Bytes of an interval register as a value. -/
def ivBits (i : Ival) : Nat := i.lo % 2 ^ 32 + 2 ^ 32 * (i.hi % 2 ^ 32)
/-- IVST (R113). -/
def storeIv (s : State) (d : BitVec 4) (p : W64) : State :=
  storePieces s .store .store 8 [(p, leBytes 8 (ivBits (getIv s d.toNat)))] 8 false .none 0 0

/-- PREF (R255): a translation cached, and for `.ro` a fill of the cluster's buffer begun. Nothing else can be seen of it. -/
def prefetch (s : State) (h : Nat) (p : W64) : State :=
  let path := pathOf p
  let va := addrOf p
  let wanted := bits p.toNat 57 3 == 0 && (path == 0 || path == 1 || (path == 4 && h != 1))
  if !wanted || untranslated s s.cur || revokedPid s (stationOf (dieOf s.cur.core) va) s.cur.pid then s
  else
    let s := tapMiss s s.cur va
    match walk s s.cur.pid va with
    | .page => s
    | .leaf e lvl pa =>
      if !leafPermits e path s.cur.priv .load then s
      else
        let s1 := cacheLeaf s s.cur va e lvl pa false
        if h = 1 then s1.later [.roBufferFill (clusterOf s.cur.core) s.cur.pid (BitVec.ofNat 57 va)] else s1

/-- FENCE (R248): what it waits for, and for `.ro` the lines of the context leave the cluster's buffer, with the fills asked for
before it (R199); no line brought in before its condition is met serves the thread from then on (R225). -/
def fence (s : State) (kind : Nat) : State :=
  let own := ownAccesses s s.cur.tid
  let waits := (if kind = 0 then own.filter fun a => a.op != .store else own).map (·.id)
  let s1 := s.modCur fun t =>
    { t with
      fences := t.fences + 1
      holds := if waits.isEmpty then t.holds else t.holds ++ [{ kind := kind, waits := waits }]
      roFrom := if kind = 3 ∧ waits.isEmpty then s.roNext else t.roFrom }
  if kind = 3 then
    let cl := clusterOf s.cur.core
    { s1 with
      ro := s1.ro.filter fun l => !(l.cluster == cl && l.pid == s.cur.pid)
      agenda := s1.agenda.filter fun e =>
        match e with
        | .roBufferFill c p _ => !(c == cl && p == s.cur.pid)
        | _ => true }
  else s1

/-- The thread is suspended in FAULT at its bundle by something other than its own issue (R127, R207, R333). -/
def suspendThread (s : State) (t : Thread) (code kind path : Nat) (x3 x4 : W64) : State :=
  settle ((s.later [.faultNotification t.pid t.recd (stopWord code kind path t.core t.slot) x3 x4]).modThread t.tid fun t =>
    { t with state := .fault, wait := none, lastFault := x3, idleTs := s.ts }) t.tid

/-- Is a pending walk one for the same identifier and page at the same station: the misses share one walk (R204). -/
def sameWalk (s : State) (t : Thread) (p : W64) : Event → Bool
  | .pageWalk u q _ => (s.thread? u).any fun x =>
      x.wait == some .walk && x.pid == t.pid && addrOf q / 4096 == addrOf p / 4096 &&
        stationOf (dieOf x.core) (addrOf q) == stationOf (dieOf t.core) (addrOf p)
  | _ => false
/-- A walk as its thread, pointer and kind. -/
def walkOf : Event → Option (Nat × W64 × AccKind)
  | .pageWalk u q k => some (u, q, k)
  | _ => none
/-- Does an access write: its walk sets D (R207). -/
def kindWrites (k : AccKind) : Bool := k == .store || k == .atomic

/-- A walk ends in a cached translation, or suspends a thread whose access asked for it (R207, R210). -/
def walkEnds (w : Walked) (dirty : Bool) (s0 : State) (t : Thread) (p : W64) (kind : AccKind) : State :=
  let va := addrOf p
  let s := tapThread s0 t 8 [bits va 12 32, stationOf (dieOf t.core) va, s0.ts - t.waitFrom, 0]
  if revokedPid s (stationOf (dieOf t.core) va) t.pid then suspendThread s t cREVOKED (kindCode kind) (pathOf p) p 0
  else
    match w with
    | .page => suspendThread s t cPAGE (kindCode kind) (pathOf p) p 0
    | .leaf e lvl pa =>
      if !leafPermits e (pathOf p) t.priv kind then suspendThread s t cPROT (kindCode kind) (pathOf p) p 0
      else (cacheLeaf s t va e lvl pa dirty).modThread t.tid fun t => { t with wait := none }

/-- One walk for a thread's access and for all that share it (R204). -/
def sharedWalk (s : State) (t : Thread) (p : W64) (kind : AccKind) : State :=
  let all := (t.tid, p, kind) :: (s.agenda.filter (sameWalk s t p)).filterMap walkOf
  let w := walk s t.pid (addrOf p)
  let dirty : Bool := match w with
    | .leaf e _ _ => all.any fun x => kindWrites x.2.2 && (s.thread? x.1).any fun u => leafPermits e (pathOf x.2.1) u.priv x.2.2
    | .page => false
  all.foldl (fun s x =>
    match s.thread? x.1 with
    | some u => walkEnds w dirty s u x.2.1 x.2.2
    | none => s) { s with agenda := s.agenda.filter fun e => !sameWalk s t p e }

/-- The step of an access in flight; one that must wait comes back to the end of the pending steps, and one
whose way is cut gets no answer, as `lost` says (R391). -/
def accessStep (s : State) (id : Nat) (again : Event) (lost k : State → Access → State) : Result :=
  let busy (a : Access) : Bool := (a.pieces.any fun p => linkBusy s (dieOf a.core) p.loc) ||
    a.logs.any fun r => (logPlace s a.pid r.off).any (linkBusy s (dieOf a.core))
  match s.accesses.find? fun a => a.id == id with
  | none => .next s
  | some a =>
    if a.early then .next (k s a)
    else if mustFollow s a || busy a then .next (s.later [again])
    else if a.pieces.any fun p => cutOff s (dieOf a.core) p.loc then .next (lost s a)
    else .next (k s a)

/-- LD_B (R101). -/
def execLdB (d : BitVec 5) (b : BitVec 5) (o : BitVec 11) (g : BitVec 4) (s : State) : Result :=
  .next (guarded g s fun s => loadX s d (ptrShort s b o 1) 1 true 0 0)

/-- LD_BU (R101). -/
def execLdBu (d : BitVec 5) (b : BitVec 5) (o : BitVec 11) (g : BitVec 4) (s : State) : Result :=
  .next (guarded g s fun s => loadX s d (ptrShort s b o 1) 1 false 0 0)

/-- LD_H (R101). -/
def execLdH (d : BitVec 5) (b : BitVec 5) (o : BitVec 11) (g : BitVec 4) (s : State) : Result :=
  .next (guarded g s fun s => loadX s d (ptrShort s b o 2) 2 true 0 0)

/-- LD_HU (R101). -/
def execLdHu (d : BitVec 5) (b : BitVec 5) (o : BitVec 11) (g : BitVec 4) (s : State) : Result :=
  .next (guarded g s fun s => loadX s d (ptrShort s b o 2) 2 false 0 0)

/-- LD_W (R101). -/
def execLdW (d : BitVec 5) (b : BitVec 5) (o : BitVec 11) (g : BitVec 4) (s : State) : Result :=
  .next (guarded g s fun s => loadX s d (ptrShort s b o 4) 4 true 0 0)

/-- LD_WU (R101). -/
def execLdWu (d : BitVec 5) (b : BitVec 5) (o : BitVec 11) (g : BitVec 4) (s : State) : Result :=
  .next (guarded g s fun s => loadX s d (ptrShort s b o 4) 4 false 0 0)

/-- LD_D (R101). -/
def execLdD (d : BitVec 5) (b : BitVec 5) (o : BitVec 11) (g : BitVec 4) (s : State) : Result :=
  .next (guarded g s fun s => loadX s d (ptrShort s b o 8) 8 false 0 0)

/-- ST_B (R101). -/
def execStB (d : BitVec 5) (b : BitVec 5) (o : BitVec 11) (g : BitVec 4) (s : State) : Result :=
  .next (guarded g s fun s => storeX s d (ptrShort s b o 1) 1 0 0)

/-- ST_H (R101). -/
def execStH (d : BitVec 5) (b : BitVec 5) (o : BitVec 11) (g : BitVec 4) (s : State) : Result :=
  .next (guarded g s fun s => storeX s d (ptrShort s b o 2) 2 0 0)

/-- ST_W (R101). -/
def execStW (d : BitVec 5) (b : BitVec 5) (o : BitVec 11) (g : BitVec 4) (s : State) : Result :=
  .next (guarded g s fun s => storeX s d (ptrShort s b o 4) 4 0 0)

/-- ST_D (R101). -/
def execStD (d : BitVec 5) (b : BitVec 5) (o : BitVec 11) (g : BitVec 4) (s : State) : Result :=
  .next (guarded g s fun s => storeX s d (ptrShort s b o 8) 8 0 0)

/-- LDX (R102). -/
def execLdx (d : BitVec 5) (b : BitVec 5) (c : BitVec 5) (s : BitVec 2) (g : BitVec 4) (st : State) : Result :=
  .next (guarded g st fun st => loadX st d (rX st b + (rX st c <<< s.toNat)) (2 ^ s.toNat) true 0 0)

/-- LDX_U (R102). -/
def execLdxU (d : BitVec 5) (b : BitVec 5) (c : BitVec 5) (s : BitVec 2) (g : BitVec 4) (st : State) : Result :=
  .next (guarded g st fun st => loadX st d (rX st b + (rX st c <<< s.toNat)) (2 ^ s.toNat) false 0 0)

/-- STX (R102). -/
def execStx (d : BitVec 5) (b : BitVec 5) (c : BitVec 5) (s : BitVec 2) (g : BitVec 4) (st : State) : Result :=
  .next (guarded g st fun st => storeX st d (rX st b + (rX st c <<< s.toNat)) (2 ^ s.toNat) 0 0)

/-- LD_ORDERED (R103, R245 to R247). -/
def execLdOrdered (d : BitVec 5) (b : BitVec 5) (o : BitVec 2) (s : BitVec 3) (z : BitVec 2) (g : BitVec 4) (st : State) : Result :=
  .next (guarded g st fun st => loadX st d (rX st b) (2 ^ z.toNat) true o.toNat s.toNat)

/-- LD_U_ORDERED (R103, R245 to R247). -/
def execLdUOrdered (d : BitVec 5) (b : BitVec 5) (o : BitVec 2) (s : BitVec 3) (z : BitVec 2) (g : BitVec 4) (st : State) : Result :=
  .next (guarded g st fun st => loadX st d (rX st b) (2 ^ z.toNat) false o.toNat s.toNat)

/-- ST_ORDERED (R103, R245 to R247). -/
def execStOrdered (d : BitVec 5) (b : BitVec 5) (o : BitVec 2) (s : BitVec 3) (z : BitVec 2) (g : BitVec 4) (st : State) : Result :=
  .next (guarded g st fun st => storeX st d (rX st b) (2 ^ z.toNat) o.toNat s.toNat)

/-- AMADD (R104, R105). -/
def execAmadd (d : BitVec 5) (b : BitVec 5) (w : BitVec 1) (o : BitVec 2) (s : BitVec 3) (g : BitVec 4) (st : State) : Result :=
  .next (guarded g st fun st => atomic st 0 d b (amoBytes w) o.toNat s.toNat)

/-- AMFADD (R104, R106). -/
def execAmfadd (d : BitVec 5) (b : BitVec 5) (o : BitVec 2) (s : BitVec 3) (g : BitVec 4) (st : State) : Result :=
  .next (guarded g st fun st => atomic st 1 d b 4 o.toNat s.toNat)

/-- AMMIN (R104, R105). -/
def execAmmin (d : BitVec 5) (b : BitVec 5) (w : BitVec 1) (o : BitVec 2) (s : BitVec 3) (g : BitVec 4) (st : State) : Result :=
  .next (guarded g st fun st => atomic st 2 d b (amoBytes w) o.toNat s.toNat)

/-- AMMAX (R104, R105). -/
def execAmmax (d : BitVec 5) (b : BitVec 5) (w : BitVec 1) (o : BitVec 2) (s : BitVec 3) (g : BitVec 4) (st : State) : Result :=
  .next (guarded g st fun st => atomic st 3 d b (amoBytes w) o.toNat s.toNat)

/-- AMAND (R104, R105). -/
def execAmand (d : BitVec 5) (b : BitVec 5) (w : BitVec 1) (o : BitVec 2) (s : BitVec 3) (g : BitVec 4) (st : State) : Result :=
  .next (guarded g st fun st => atomic st 4 d b (amoBytes w) o.toNat s.toNat)

/-- AMOR (R104, R105). -/
def execAmor (d : BitVec 5) (b : BitVec 5) (w : BitVec 1) (o : BitVec 2) (s : BitVec 3) (g : BitVec 4) (st : State) : Result :=
  .next (guarded g st fun st => atomic st 5 d b (amoBytes w) o.toNat s.toNat)

/-- AMXOR (R104, R105). -/
def execAmxor (d : BitVec 5) (b : BitVec 5) (w : BitVec 1) (o : BitVec 2) (s : BitVec 3) (g : BitVec 4) (st : State) : Result :=
  .next (guarded g st fun st => atomic st 6 d b (amoBytes w) o.toNat s.toNat)

/-- AMXCHG (R104, R105). -/
def execAmxchg (d : BitVec 5) (b : BitVec 5) (w : BitVec 1) (o : BitVec 2) (s : BitVec 3) (g : BitVec 4) (st : State) : Result :=
  .next (guarded g st fun st => atomic st 7 d b (amoBytes w) o.toNat s.toNat)

/-- AMCAS (R104, R107). -/
def execAmcas (d : BitVec 5) (b : BitVec 5) (w : BitVec 1) (o : BitVec 2) (s : BitVec 3) (g : BitVec 4) (st : State) : Result :=
  .next (guarded g st fun st =>
    storePieces st .atomic (.rmw 8 (getX st (d.toNat + 1)).toNat (rX st d).toNat 1) (amoBytes w) [(rX st b, [])] (amoBytes w) false
      (rmwDest d 8 (amoBytes w)) o.toNat s.toNat)

/-- LDV (R188). -/
def execLdv (d : BitVec 4) (b : BitVec 5) (c : BitVec 5) (g : BitVec 4) (s : State) : Result :=
  .next (guarded g s fun s => loadPieces s 64 [ptrV s b c] 4 (.v d.toNat) 0 0)

/-- STV (R188). -/
def execStv (d : BitVec 4) (b : BitVec 5) (c : BitVec 5) (g : BitVec 4) (s : State) : Result :=
  .next (guarded g s fun s => storePieces s .store .store 64 [(ptrV s b c, getVBytes s d.toNat)] 4 true .none 0 0)

/-- LDVS (R249 to R251). -/
def execLdvs (d : BitVec 4) (b : BitVec 5) (c : BitVec 5) (g : BitVec 4) (s : State) : Result :=
  .next (guarded g s fun s => loadLanes s d (rX s b) (stridePtrs s b c))

/-- STVS (R249 to R251). -/
def execStvs (d : BitVec 4) (b : BitVec 5) (c : BitVec 5) (g : BitVec 4) (s : State) : Result :=
  .next (guarded g s fun s => storeLanes s d (rX s b) (stridePtrs s b c))

/-- LDVG (R249 to R251). -/
def execLdvg (d : BitVec 4) (b : BitVec 5) (c : BitVec 4) (g : BitVec 4) (s : State) : Result :=
  .next (guarded g s fun s => loadLanes s d (rX s b) (gatherPtrs s b c))

/-- STVG (R249 to R251). -/
def execStvg (d : BitVec 4) (b : BitVec 5) (c : BitVec 4) (g : BitVec 4) (s : State) : Result :=
  .next (guarded g s fun s => storeLanes s d (rX s b) (gatherPtrs s b c))

/-- IVLD (R113). -/
def execIvld (d : BitVec 4) (b : BitVec 5) (o : BitVec 11) (g : BitVec 4) (s : State) : Result :=
  .next (guarded g s fun s => loadPieces s 8 [ptrShort s b o 8] 8 (.iv d.toNat) 0 0)

/-- IVST (R113). -/
def execIvst (d : BitVec 4) (b : BitVec 5) (o : BitVec 11) (g : BitVec 4) (s : State) : Result :=
  .next (guarded g s fun s => storeIv s d (ptrShort s b o 8))

/-- FENCE (R248). -/
def execFence (k : BitVec 2) (_s : BitVec 3) (g : BitVec 4) (st : State) : Result :=
  .next (guarded g st fun st => fence st k.toNat)

/-- PREF (R255). -/
def execPref (h : BitVec 5) (b : BitVec 5) (g : BitVec 4) (s : State) : Result :=
  .next (guarded g s fun s => prefetch s h.toNat (rX s b))

/-- LD_B_LONG (R101). -/
def execLdBLong (d : BitVec 5) (b : BitVec 5) (ext : W32) (g : BitVec 4) (s : State) : Result :=
  .next (guarded g s fun s => loadX s d (ptrLong s b ext) 1 true 0 0)

/-- LD_BU_LONG (R101). -/
def execLdBuLong (d : BitVec 5) (b : BitVec 5) (ext : W32) (g : BitVec 4) (s : State) : Result :=
  .next (guarded g s fun s => loadX s d (ptrLong s b ext) 1 false 0 0)

/-- LD_H_LONG (R101). -/
def execLdHLong (d : BitVec 5) (b : BitVec 5) (ext : W32) (g : BitVec 4) (s : State) : Result :=
  .next (guarded g s fun s => loadX s d (ptrLong s b ext) 2 true 0 0)

/-- LD_HU_LONG (R101). -/
def execLdHuLong (d : BitVec 5) (b : BitVec 5) (ext : W32) (g : BitVec 4) (s : State) : Result :=
  .next (guarded g s fun s => loadX s d (ptrLong s b ext) 2 false 0 0)

/-- LD_W_LONG (R101). -/
def execLdWLong (d : BitVec 5) (b : BitVec 5) (ext : W32) (g : BitVec 4) (s : State) : Result :=
  .next (guarded g s fun s => loadX s d (ptrLong s b ext) 4 true 0 0)

/-- LD_WU_LONG (R101). -/
def execLdWuLong (d : BitVec 5) (b : BitVec 5) (ext : W32) (g : BitVec 4) (s : State) : Result :=
  .next (guarded g s fun s => loadX s d (ptrLong s b ext) 4 false 0 0)

/-- LD_D_LONG (R101). -/
def execLdDLong (d : BitVec 5) (b : BitVec 5) (ext : W32) (g : BitVec 4) (s : State) : Result :=
  .next (guarded g s fun s => loadX s d (ptrLong s b ext) 8 false 0 0)

/-- ST_B_LONG (R101). -/
def execStBLong (d : BitVec 5) (b : BitVec 5) (ext : W32) (g : BitVec 4) (s : State) : Result :=
  .next (guarded g s fun s => storeX s d (ptrLong s b ext) 1 0 0)

/-- ST_H_LONG (R101). -/
def execStHLong (d : BitVec 5) (b : BitVec 5) (ext : W32) (g : BitVec 4) (s : State) : Result :=
  .next (guarded g s fun s => storeX s d (ptrLong s b ext) 2 0 0)

/-- ST_W_LONG (R101). -/
def execStWLong (d : BitVec 5) (b : BitVec 5) (ext : W32) (g : BitVec 4) (s : State) : Result :=
  .next (guarded g s fun s => storeX s d (ptrLong s b ext) 4 0 0)

/-- ST_D_LONG (R101). -/
def execStDLong (d : BitVec 5) (b : BitVec 5) (ext : W32) (g : BitVec 4) (s : State) : Result :=
  .next (guarded g s fun s => storeX s d (ptrLong s b ext) 8 0 0)

/-- LD_ORDERED_LONG (R103, R245 to R247). -/
def execLdOrderedLong (d : BitVec 5) (b : BitVec 5) (o : BitVec 2) (s : BitVec 3) (z : BitVec 2) (ext : W32) (g : BitVec 4) (st : State) : Result :=
  .next (guarded g st fun st => loadX st d (ptrLong st b ext) (2 ^ z.toNat) true o.toNat s.toNat)

/-- LD_U_ORDERED_LONG (R103, R245 to R247). -/
def execLdUOrderedLong (d : BitVec 5) (b : BitVec 5) (o : BitVec 2) (s : BitVec 3) (z : BitVec 2) (ext : W32) (g : BitVec 4) (st : State) : Result :=
  .next (guarded g st fun st => loadX st d (ptrLong st b ext) (2 ^ z.toNat) false o.toNat s.toNat)

/-- ST_ORDERED_LONG (R103, R245 to R247). -/
def execStOrderedLong (d : BitVec 5) (b : BitVec 5) (o : BitVec 2) (s : BitVec 3) (z : BitVec 2) (ext : W32) (g : BitVec 4) (st : State) : Result :=
  .next (guarded g st fun st => storeX st d (ptrLong st b ext) (2 ^ z.toNat) o.toNat s.toNat)

/-- IVLD_LONG (R113). -/
def execIvldLong (d : BitVec 4) (b : BitVec 5) (ext : W32) (g : BitVec 4) (s : State) : Result :=
  .next (guarded g s fun s => loadPieces s 8 [ptrLong s b ext] 8 (.iv d.toNat) 0 0)

/-- IVST_LONG (R113). -/
def execIvstLong (d : BitVec 4) (b : BitVec 5) (ext : W32) (g : BitVec 4) (s : State) : Result :=
  .next (guarded g s fun s => storeIv s d (ptrLong s b ext))

/-- LOAD_DATA_LANDS (R71, R198, R224). -/
def execLoadDataLands (id : Nat) (s : State) : Result :=
  accessStep s id (.loadDataLands id) unanswered fun s a => if a.early then landAccess s a else landStep s a

/-- STORE_PERFORMED (R227, R222, R229). -/
def execStorePerformed (id : Nat) (s : State) : Result :=
  accessStep s id (.storePerformed id) unanswered performStep

/-- NBR_ACCESS (R198). -/
def execNbrAccess (id : Nat) (s : State) : Result :=
  accessStep s id (.nbrAccess id) unanswered nbrStep

/-- PAGE_WALK (R204 to R207). -/
def execPageWalk (tid : Nat) (va : W64) (kind : AccKind) (s : State) : Result :=
  match s.thread? tid with
  | none => .next s
  | some t => .next (if t.wait = some .walk then sharedWalk s t va kind else s)

/-- RO_BUFFER_FILL (R199, R203, R255). -/
def execRoBufferFill (cluster : Nat) (pid : BitVec 16) (va : BitVec 57) (s : State) : Result :=
  .next (match walk s pid va.toNat with
    | .page => s
    | .leaf e lvl _ =>
      let pa := leafAddr s e lvl (va.toNat - va.toNat % 128)
      if isRemote pa then s else roFill s cluster pid va.toNat (s.hbm.readBytes pa 128))

end Sys2Proof.Machine
end

