-- ==== Sys2Proof/Machine/Window.lean ====
section
/-!
DEFINITION. Append and basting windows (12_memory_instructions.md R252 to R264).
-/
namespace Sys2Proof.Machine

/-- Is the wait of the bundle that issues again over (R361: its effect has begun and is not begun again). -/
def resumed (s : State) : Bool := s.cur.wait == some .released

/-- ADDR, ALIGN or PROT of a range of bytes that a descriptor names, by R12, R13, R195 to R198. -/
def rangeCause (s : State) (t : Thread) (kind : AccKind) (p : W64) (len align : Nat) : Option Nat :=
  let a := addrOf p
  let past := match pathOf p with
    | 2 => decide (0xC0000 < a + len)
    | 3 => decide (0xC0000 < a % 2 ^ 20 + len)
    | _ => decide (2 ^ 57 < a + len)
  if badAddr s t p 1 || past then some cADDR
  else if a % align ≠ 0 then some cALIGN
  else if len ≠ 0 ∧ !pathAllowed s t kind p len 0 then some cPROT
  else none

/-- The element stores collected so far are made: at issue where they reach register words, else in flight. -/
def sendElements (s : State) (ps : List Piece) (refs : List LogRef) : State :=
  match ps with
  | [] => s
  | p :: _ =>
    let a := { newAccess s (pathOf p.ptr) .store ps .none 0 0 with logs := refs }
    if ps.all (fun p => ownCore s p.loc) && ps.any (fun p => ringPlace s p.loc) && !notYet s ps then performAll s.cur.priv ps a s
    else if ps.any fun p => farPool s p.loc then putInFlight s a [] .nbrAccess
    else putInFlight s a [] .storePerformed

/-- Would element stores through `base` start what a WORLD switch under way no longer lets start (R341, R379). -/
def elementsLate (s : State) (base : W64) : Bool :=
  pathOf base == 3 && (s.part s.cur.part).worldPhase == 1 && worldThread s s.cur.part s.cur

/-- The element stores of a VAPPEND, one after the other: each is translated, logged and put with those before it; the
first that a page or the log stops holds itself and the rest back, and the thread is suspended at PC + 8 (R215, R254). -/
def elementStores : List (W64 × Nat) → List Piece → List LogRef → State → State
  | [], ps, refs, s => sendElements s ps refs
  | (p, v) :: rest, ps, refs, s =>
    let stop (s : State) (c : Nat) (x3 : W64) : State :=
      let s1 := sendElements s ps refs
      { (suspendFault s1 c 1 (pathOf p) x3 0 (s1.cur.pc + 8)) with
        flow := .done } |>.modCur fun t => { t with heldStores := (p, v) :: rest }
    let go (s : State) (l : Loc) : State :=
      let fixed := if fixesWindow l ∧ nopen s ≠ 0 then setSt s 0x192 1 (nopen s) else s
      match appendPolicy s.cur.tid s.cur.core s.cur.pid (entriesFor [(p, l, 4)]) (openCount fixed s.cur.pid) fixed with
      | .ok s1 offs =>
        elementStores rest (ps ++ [{ ptr := p, loc := l, n := 4, data := leBytes 4 v }])
          (refs ++ offs.map fun o => { off := o, loc := l, n := 4, win := entryWin s1 }) s1
      | .full w => stop s cLOGFULL w
      | .fault 0 _ => retry s
      | .fault c a => stop (logStop s s.cur a) c (BitVec.ofNat 64 a)
    match checkPtr s s.cur .store p 4 v with
    | .ok l => go (countDrops s [l]) l
    | .bad c => stop s c p
    | .stop c => stop s c p
    | .miss =>
      match threadPlace s s.cur .store (pathOf p) (addrOf p) with
      | (s1, .ok l) => go (countDrops s1 [l]) l
      | (s1, .error c) => stop s1 c p

/-- The place of COUNT in a descriptor (R252). -/
def countPlace : Loc → Loc
  | .mem x => .mem (x + 8)
  | .pool x => .pool (x + 8)
  | l => l

/-- VAPPEND at its issue, when its entry for COUNT is logged (R215), and again once its indivisible step has answered with the old COUNT, BASE and CAP (R253). -/
def vappend (s : State) (d b : BitVec 5) (c : BitVec 3) (neg : Bool) (m : Nat) : State :=
  let p := rX s b
  let v := getV s (2 * c.toNat)
  let mask := getV s (2 * c.toNat + 1)
  let sel := (v.zip mask).filter fun x => bitAt x.2 31 != neg
  match resumed s, s.cur.answer with
  | true, [old, base, cap, fix] =>
    let es := (upTo (Nat.min (sel.length * m) (cap - old))).map fun k =>
      (BitVec.ofNat 64 (base + 4 * (old + k)), (sel.getD (k % sel.length) (0, 0)).1)
    let s1 := if fix = 1 ∧ nopen s ≠ 0 then setSt s 0x192 1 (nopen s) else s
    let s2 := wX (s1.modCur fun t => { t with answer := [] }) d (BitVec.ofNat 64 old)
    if !es.isEmpty && elementsLate s2 (BitVec.ofNat 64 base) then
      s2.modCur fun t => { t with state := .preempted, wait := none, npc := t.pc + 8, heldStores := es, idleTs := s2.ts }
    else
      let s3 := elementStores es [] [] s2
      if s3.flow = .stalled then retry s else s3
  | true, [v] => putReg (s.modCur fun t => { t with answer := [] }) (wsOf s) (.x d.toNat) v true
  | _, _ =>
    if pathOf p ≠ 0 ∧ pathOf p ≠ 2 ∧ pathOf p ≠ 3 then trap s cADDR p
    else
      unheld s true false fun s =>
        withPlaces s .atomic 16 [] [p] fun s ls =>
          let l := ls.headD .dropped
          if fixesWindow l ∧ nopen s ≠ 0 ∧ strictLog s s.cur.pid then trap s cFIXEDWIN p
          else
            let cl := countPlace l
            logged s (entriesFor [(p + 8, cl, 4)]) fun s offs =>
              let a := { newAccess s (pathOf p) (.rmw 0 (sel.length * m) 0 1) [{ ptr := p, loc := l, n := 16, data := [] }] .none 0 0 with
                logs := offs.map fun o => { off := o, loc := cl, n := 4, win := entryWin s } }
              stall (putInFlight s a [] .vappendReserve) (.append s.nextId)

/-- The bundle's wait is over; what the device answered stands in `answer`. -/
def answerThread (s : State) (tid : Nat) (l : List Nat) : State :=
  s.modThread tid fun t => { t with wait := some .released, answer := l }

/-- Does an element reach another package's frame (R203). -/
def farElement (s : State) (t : Thread) (p : W64) : Bool :=
  (pathOf p == 0 || pathOf p == 4) && (match deviceAddr s t.pid (addrOf p) false with
    | .ok pa => isRemote pa
    | .error _ => false)

/-- The cause that a VAPPEND's wait ends with where one of its element stores meets a watchpoint: WATCH of R331, which a debugger may take. -/
def cWATCHED : Nat := cWATCH + 256

/-- Why no element store of a VAPPEND may be made: BASE and CAP break their rules (R253), an element is watched (R356), or it would fix a
window under STRICT (R216). -/
def appendCause (s : State) (t : Thread) (base : W64) (cap : Nat) (es : List W64) : Option (Nat × W64) :=
  let path := pathOf base
  if bits base.toNat 57 3 ≠ 0 ∨ (path ≠ 0 ∧ path ≠ 2 ∧ path ≠ 3 ∧ path ≠ 4) then some (cADDR, base)
  else
    match rangeCause s t .store base (4 * cap) 4 with
    | some c => some (c, base)
    | none =>
      match es.find? fun p => watched s t .store p 4 with
      | some p => some (cWATCHED, p)
      | none =>
        if nopenOf s t ≠ 0 ∧ strictLog s t.pid then (es.find? (farElement s t)).map fun p => (cFIXEDWIN, p) else none

/-- The indivisible step of VAPPEND (R253): COUNT advances, its old value in the entry that was logged for it, or the thread's bundle traps,
its entry a NOOP, and nothing else of it stands. -/
def vappendStep (s : State) (a : Access) : State :=
  match a.pieces, s.thread? a.tid, a.op with
  | p :: _, some t, .rmw _ need _ _ =>
    let raw := leNat (readLoc s p.loc 16)
    let base : W64 := BitVec.ofNat 64 raw
    let old := bits raw 64 32
    let cap := bits raw 96 32
    let es := (upTo (Nat.min need (cap - old))).map fun k => base + BitVec.ofNat 64 (4 * (old + k))
    match appendCause s t base cap es with
    | some v => (endAccess (noopLogs s a) a).modThread a.tid fun t => { t with wait := none, trapNext := some v }
    | none =>
      let s1 := performPiece s a { p with loc := countPlace p.loc, n := 4, data := leBytes 4 (Nat.min (old + need) (2 ^ 32 - 1)) } a.level
      answerThread (endAccess s1 a) a.tid [old, base.toNat, cap, b2n (fixesWindow p.loc)]
  | _, _, _ => endAccess s a

/-- The indivisible step of a VAPPEND gets no answer: COUNT may have advanced or not, xd receives poisoned data, no element is stored, since none has an
address, and the fault service is told (R391; log entry 8, DESIGN CHOICE). -/
def appendLost (s : State) (a : Access) : State :=
  let s1 := match a.pieces, a.op with
    | p :: _, .rmw _ need _ _ =>
      let old := bits (leNat (readLoc s p.loc 16)) 64 32
      if Config.unansweredStorePerformed s.freeNext then
        performPiece s a { p with loc := countPlace p.loc, n := 4, data := leBytes 4 (Nat.min (old + need) (2 ^ 32 - 1)) } a.level
      else s
    | _, _ => s
  let r := freshValue { s1 with freeNext := s1.freeNext + 1 } 8
  let t := (s.thread? a.tid).getD s.cur
  answerThread (endAccess (tellUnanswered r.2 { t with pid := a.pid, core := a.core } 2 a.path (a.pieces.headD { ptr := 0, loc := .dropped, n := 0, data := [] }).ptr) a) a.tid [r.1]

/-- key of a window number (R258). -/
def windowKey (wold n : Nat) : Nat := (n + 2 ^ 32 - wold) % 2 ^ 32

/-- WOLD of the thread. -/
def woldOf (s : State) : Nat := getSt s 0x194 4

/-- BASTE (R257, R259). -/
def baste (s : State) (d : BitVec 5) : State :=
  if sysQ s (descAt s.cur.pid + 0x10) = 0 ∨ nopen s = 255 then wX s d 0
  else
    let w := wnextOf s s.cur.pid
    let marker (s : State) : List LogEnt :=
      [{ path := 0xF, sz := 6, addr := w, win := w, val := bundleNow s
         data := leBytes 4 (getSt s 0x1B4 4) ++ leBytes 4 s.cur.wincur.toNat }]
    logged s marker fun s _ =>
      let s1 := setWnext s s.cur.pid (if w + 1 = 2 ^ 32 then 1 else w + 1)
      let s2 := setSt s1 0x1B4 4 (getSt s1 0x1B0 4)
      let s3 := if nopen s2 = 0 then setSt s2 0x194 4 w else s2
      let s4 := setSt s3 0x193 1 (nopen s3 + 1)
      wX (tapThread (s4.modCur fun t => { t with wincur := BitVec.ofNat 32 w }) s.cur 7 [0, w, 0, 0]) d (BitVec.ofNat 64 w)

/-- The window that an operand names: 0 names `zero` (R260, R261). -/
def namedWindow (x : W64) (whenZero : Nat) : Nat := if x.toNat % 2 ^ 32 = 0 then whenZero else x.toNat % 2 ^ 32

/-- The markers of the thread's open windows are read; on a page that does not translate the thread is suspended at its bundle (R257, R261). -/
def withMarkers (s : State) (k : State → State) : State :=
  match chainFault s s.cur.pid (nopen s) (getSt s 0x1B4 4) with
  | some (c, a) => suspendFault s c 0 0 (BitVec.ofNat 64 a) 0 s.cur.pc
  | none => k s

/-- TACK (R260). -/
def tack (s : State) (d : BitVec 5) (x : W64) : State :=
  let k (n : Nat) : Nat := windowKey (woldOf s) n
  let n := namedWindow x s.cur.wincur.toNat
  if nopen s = 0 ∨ k s.cur.wincur.toNat < k n then wX (tapThread s s.cur 7 [1, n, 2, 0]) d 2
  else withMarkers s fun s =>
    let c := ((windowsOf s s.cur).filter fun w => decide (k w.1 ≤ k n)).length
    wX (tapThread (commitOldest s s.cur c) s.cur 7 [1, n, 0, 0]) d 0

/-- UNPICK (R261, R262). -/
def unpick (s : State) (d : BitVec 5) (x : W64) : State :=
  let k (n : Nat) : Nat := windowKey (woldOf s) n
  let n := namedWindow x (woldOf s)
  let out (s : State) (r : Nat) : State := wX (tapThread s s.cur 7 [2, n, r, 0]) d (BitVec.ofNat 64 r)
  if nopen s = 0 ∨ k s.cur.wincur.toNat < k n then out s 2
  else if ownAccesses s s.cur.tid ≠ [] then retry s
  else if let some (c, a) := chainFault s s.cur.pid (nopen s) (getSt s 0x1B4 4) then
    suspendFault (s.modCur fun t => { t with unpicking := true }) c 0 0 (BitVec.ofNat 64 a) 0 s.cur.pc
  else
    let back := (windowsOf s s.cur).filter fun w => decide (k n ≤ k w.1)
    let c := back.length
    let m := (back.getLast?.getD (0, 0)).2
    if nopen s - c < nfix s then out s 1
    else
      match unpickWalk s.cur.tid m (sysQ s (descAt s.cur.pid + 0x10) / 16 + 1) s s.cur.answer.isEmpty with
      | .error (s1, cause, p) =>
        let s2 := s1.modCur fun t => { t with unpicking := true }
        suspendFault s2 cause 1 (p / 2 ^ 60) (BitVec.ofNat 64 p) 0 s2.cur.pc
      | .ok (s1, all) =>
        let off := linkOff m
        let prev := logNat s1 s1.cur.pid (off + 8) 4
        let data := logNat s1 s1.cur.pid (off + 16) 8
        let left := nopen s - c
        let s2 := releaseEntries s1 s1.cur.pid s1.cur.tid (back.map (·.1))
        let s3 := setSt (setSt s2 0x1B0 4 (if prev = 0xFFFFFFFF then 0 else prev + 1)) 0x1B4 4 (data % 2 ^ 32)
        let s4 := (setSt s3 0x193 1 left).modCur fun t =>
          { t with wincur := BitVec.ofNat 32 (data / 2 ^ 32), unpicking := false, answer := [] }
        let s5 := if left = 0 then setWindows s4 s4.cur.tid 0 (nfix s4) 0 else s4
        out s5 (if all then 0 else 3)

/-- VAPPEND (R252 to R254). -/
def execVappend (d : BitVec 5) (b : BitVec 5) (c : BitVec 3) (n : BitVec 1) (g : BitVec 4) (s : State) : Result :=
  .next (guarded g s fun s => vappend s d b c (n == 1) 1)

/-- VAPPEND_M (R252 to R254). -/
def execVappendM (d : BitVec 5) (b : BitVec 5) (c : BitVec 3) (n : BitVec 1) (g : BitVec 4) (s : State) : Result :=
  .next (guarded g s fun s => vappend s d b c (n == 1) (rcur s).mcnt.toNat)

/-- BASTE (R257, R259). -/
def execBaste (d : BitVec 5) (g : BitVec 4) (s : State) : Result :=
  .next (guarded g s fun s => baste s d)

/-- TACK (R260). -/
def execTack (d : BitVec 5) (b : BitVec 5) (g : BitVec 4) (s : State) : Result :=
  .next (guarded g s fun s => tack s d (rX s b))

/-- UNPICK (R261, R262). -/
def execUnpick (d : BitVec 5) (b : BitVec 5) (g : BitVec 4) (s : State) : Result :=
  .next (guarded g s fun s => unpick s d (rX s b))

/-- BWIN (R263). -/
def execBwin (d : BitVec 5) (b : BitVec 5) (s : BitVec 11) (g : BitVec 4) (st : State) : Result :=
  .next (guarded g st fun st =>
    match s.toNat with
    | 0 => wX st d (BitVec.ofNat 64 (getSt st 0x190 8))
    | 1 => wX st d (BitVec.ofNat 64 st.cur.wincur.toNat)
    | 2 => wX st d (BitVec.ofNat 64 (4096 * (st.logBlocks.filter fun x => x.pid == st.cur.pid).length))
    | _ => withMarkers st fun st => wX st d (BitVec.ofNat 64 ((windowsOf st st.cur).reverse.getD (rX st b).toNat (0, 0)).1))

/-- VAPPEND_RESERVE (R253). -/
def execVappendReserve (id : Nat) (s : State) : Result :=
  accessStep s id (.vappendReserve id) appendLost vappendStep

end Sys2Proof.Machine
end

