-- ==== Sys2Proof/Machine/Threads.lean ====
section
/-!
DEFINITION. Continuations: groups and counts (R137, R142, R145, R168), records (R126), workspace images and positions (R127,
R128, R290), creation (R134, R138), spools and placement (R139 to R141, R157), suspension and release.
-/
namespace Sys2Proof.Machine

/-! ### Groups and counts -/

/-- The groups of a thread (R11, R137). -/
def groupsOf (t : Thread) : List Nat :=
  ((upTo 4).filter fun i => bitAt t.grps.toNat (32 + i)).map fun i => bits t.grps.toNat (8 * i) 8
/-- Change a launch. -/
def State.modLaunch (s : State) (h : Nat) (f : Launch → Launch) : State :=
  { s with launches := s.launches.map fun l => if l.h = h then f l else l }
/-- C(g) of a thread's groups rises or falls (R145). -/
def changeC (s : State) (t : Thread) (f : Nat → Nat) : State :=
  s.modLaunch t.lnch fun l => { l with cnt := (groupsOf t).foldl (fun c g => countMod c g f) l.cnt }
/-- C(g) of a launch. -/
def countC (s : State) (h g : Nat) : Nat :=
  match s.launch? h with
  | some l => countGet l.cnt g
  | none => 0
/-- A spawn raises C(g), L(g) and the live count by the child's MCNT (R138). -/
def spawnCounts (s : State) (t : Thread) (m : Nat) : State :=
  s.modLaunch t.lnch fun l =>
    { l with
      live := l.live + m
      cnt := (groupsOf t).foldl (fun c g => countMod c g (· + m)) l.cnt
      liv := (groupsOf t).foldl (fun c g => countMod c g (· + m)) l.liv }

/-! ### Workspace images -/

/-- The image of a new workspace with registers, p1 to p7 and flags zero, and the given FMODE, SRSEED, TVEC and MCNT (R9, R134). The bytes that
R134 does not name are zero too (log entry 113, DESIGN CHOICE). -/
def newImage (fmode seed tvec mcnt : Nat) (xs : List W64) : Memory :=
  let m1 := (((Memory.empty.writeNat 0x180 1 1).writeNat 0x188 4 fmode).writeNat 0x18C 4 mcnt).writeNat 0x1D0 8 seed
  ((upTo xs.length).zip xs).foldl (fun m p => m.writeNat (8 * (p.1 + 1)) 8 p.2.toNat) (m1.writeNat 0x1D8 8 tvec)

/-- A workspace with the defaults of a context (R134, R290, R332). -/
def contextImage (s : State) (pid : BitVec 16) (xs : List W64) : Memory :=
  newImage (sysW s (svcAt pid + 0x28)) (sysQ s (svcAt pid + 0x30)) (sysQ s (svcAt pid + 0x38)) 1 xs

/-- The commands of a core's threads that its engines have not finished: those still queued, and those in an engine. -/
def liveCmds (s : State) (core : Nat) : List Cmd :=
  let c := s.core core
  c.cmds ++ c.mxu.map (·.cmd) ++ ((s.copies.filter fun x => x.core == core).map (·.cmd)) ++
    s.sums.flatMap fun x => (x.parts'.filter fun p => p.1 == core).map (·.2.1)
/-- A thread's commands of a queue that are not finished (R270, R296). -/
def outstanding (s : State) (t : Thread) (q : Nat) : Nat :=
  ((liveCmds s t.core).filter fun c => c.tid == t.tid && c.q == q).length

/-- Must the thread come back to its core and position: an open window, or pinned by engine state (R257, R271). -/
def isPinned (s : State) (t : Thread) : Bool :=
  !t.streams.isEmpty || !t.batches.isEmpty || !t.unsealed.isEmpty || !t.crowns.isEmpty ||
    (liveCmds s t.core).any (fun c => c.tid == t.tid) || (s.core t.core).records.any fun r => r.tid == t.tid
/-- The same with open windows. -/
def mustReturn (s : State) (t : Thread) : Bool := isPinned s t || nopenOf s t != 0

/-- Write a resident workspace back with its frame ring and its poison marks: the thread holds the image, and it stands in memory at WLOC
(R126 to R128, R400). -/
def writeBack (s : State) (tid : Nat) : State :=
  match s.thread? tid with
  | none => s
  | some t =>
    if t.img.isSome then s
    else
      let n := frameRing s t * 0x800
      let k := poolKey t.core t.ring
      saveImage (saveRecord (s.modThread tid fun t =>
        { t with
          img := some (Memory.empty.copyFrom 0 s.pool k n), imgPoison := movedPoison s.poolPoison k [] 0 n, home := mustReturn s t }) tid) tid

/-- Positions that the reserved slots own at the top (R290). -/
def reservedCount (pword : W64) : Nat := popcount 3 (bits pword.toNat 32 3)

/-- The rings of the workspaces resident on a core, with their threads. -/
def residents (s : State) (core : Nat) : List Thread := s.allThreads.filter fun t => t.core == core && t.img.isNone

/-- Do two rings overlap. -/
def ringMeets (s : State) (a : Thread) (ring n : Nat) : Bool :=
  decide (a.ring < ring + n ∧ ring < a.ring + frameRing s a * 0x800)

/-- A free frame ring for a thread on a core (R128, R290, R348). -/
def freeRing (s : State) (t : Thread) (core : Nat) : Option Nat :=
  let w := pwordOf s t core
  let base := if isClass0 s t then c0off s t.part else 0
  let f := bits w.toNat 24 3 + 1
  let n := bits w.toNat 0 7 - (if isClass0 s t then 0 else reservedCount w)
  ((upTo (n + 1 - f)).map fun i => base + i * 0x800).find? fun r =>
    !((residents s core).any fun u => u.tid != t.tid && ringMeets s u r (f * 0x800))

/-- Move a thread's image into the pool of a core at a ring; x0 and p0 hold in each of its frames (R7, R9). -/
def bringIn (s : State) (tid core ring : Nat) : State :=
  match s.thread? tid with
  | none => s
  | some t =>
    match t.img with
    | none => s
    | some m =>
      let n := (bits (pwordOf s t core).toNat 24 3 + 1) * 0x800
      let k := poolKey core ring
      { s with
        pool := fixFrames (s.pool.copyFrom k m 0 n) k (n / 0x800), poolPoison := movedPoison t.imgPoison 0 s.poolPoison k n }.modThread tid fun t =>
          { t with img := none, imgPoison := [], home := true, core := core, wp := ring + (t.wp - t.ring), ring := ring }

/-! ### Slots -/

/-- Is a slot enabled as reserved by the core's partition word (R125). -/
def reservedSlot (s : State) (core slot : Nat) : Bool :=
  decide (13 ≤ slot) && bitAt (s.core core).pword.toNat (32 + slot - 13)
/-- The slot that an entry of a table names. -/
def tableSlot (tbl : BitVec 128) (e : Nat) : Nat := bits tbl.toNat (4 * e) 4
/-- Does a core's table name a slot. -/
def slotNamed (s : State) (core slot : Nat) : Bool := (upTo 32).any fun e => tableSlot (s.core core).table e == slot
/-- BOOTST (R412). -/
def bootst (s : State) : Nat := sysQ s (attBase + 0x4C8)

/-- Is the bring-up halted: no control core runs (R409, R412). -/
def halted (s : State) : Bool := decide (0xE0 ≤ bootst s)
/-- Is the bring-up past the step that leaves `v` in BOOTST, and not halted (R409, R412). -/
def bootPast (s : State) (v : Nat) : Bool := decide (v ≤ bootst s ∧ bootst s < 0xE0)

/-- May threads of the thread's context run in its partition now: the context holds it, or nobody does and the slice is
its tenant's, and no WORLD switch is under way; class-0 work is not concerned (R341, R348, R395). No context holds a partition before
BOOTST is 0x30 (R412). Control cores are in no partition. -/
def mayRun (s : State) (t : Thread) : Bool :=
  isCtl t.core || (bootPast s 0x30 && (isClass0 s t ||
    ((s.part t.part).worldPhase == 0 && (match (s.part t.part).holder with
      | some p => p == t.pid
      | none => (s.part t.part).tenant.all (· == tenantOf t.pid)))))

/-- Is an ordinary slot vacant and to be filled: named by its table, no thread in it, no stop holding it (R128, R354). -/
def slotVacant (s : State) (core slot : Nat) : Bool :=
  slotNamed s core slot && !reservedSlot s core slot && (slotThread s core slot).isNone &&
    !(s.allThreads.any fun t => t.core == core && t.slot == slot && t.state == .stopped && t.slotHeld && mayRun s t)
/-- Does a slot of the partition belong to class 0 (R347). -/
def class0Slot (s : State) (core slot : Nat) : Bool :=
  match partOfCore s core with
  | some p => bitAt (c0slot s p) slot
  | none => false

/-! ### Spools (R140, R141) -/

/-- Is a place one of a spool, or of the home spool of a core (R139, R140). -/
def spooled : Place → Bool
  | .spool _ => true
  | .pinned _ => true
  | _ => false

/-- Spools of a partition. -/
def spoolsOf (s : State) (part : Nat) : List Nat := (blocksOf s part).flatMap fun b => upFrom (4 * b) 4

/-- Put a ready thread into a queue, with its launch's priority as its KEY (R140); its record says so (R126). -/
def enqueue (s : State) (tid : Nat) (p : Place) : State :=
  let n := s.nextEnq
  saveRecord ({ s with nextEnq := n + 1 }.modThread tid fun t =>
    { t with state := .ready, place := p, key := t.prio, enq := n, enqTs := s.ts, slotHeld := false }) tid

/-- Insertion into a spool chosen uniformly at random (R140). -/
def intoSpool (s : State) (tid : Nat) : State :=
  match s.thread? tid with
  | none => s
  | some t =>
    let sp := spoolsOf s t.part
    let (i, s1) := randomBelow s sp.length
    enqueue s1 tid (.spool (sp.getD i 0))

/-- Order of spool entries: KEY, enqueue time, UNITID (R140). -/
def entryBefore (a b : Thread) : Bool :=
  if a.key ≠ b.key then decide (a.key < b.key)
  else if a.enqTs ≠ b.enqTs then decide (a.enqTs < b.enqTs)
  else if a.unitid ≠ b.unitid then decide (a.unitid.toNat < b.unitid.toNat)
  else decide (a.enq < b.enq)

/-- The first of a list of threads by an order. -/
def bestOf (before : Thread → Thread → Bool) : List Thread → Option Thread
  | [] => none
  | t :: rest =>
    match bestOf before rest with
    | none => some t
    | some u => if before u t then some u else some t

/-- A thread can be brought in once none of its accesses is in flight (R223). -/
def canRun (s : State) (t : Thread) : Bool := t.state == .ready && mayRun s t && (ownAccesses s t.tid).isEmpty

/-- Head of a spool, of the class-0 heap or of the other (R348). -/
def spoolHead (s : State) (n : Nat) (c0 : Bool) : Option Thread :=
  bestOf entryBefore (s.allThreads.filter fun t => canRun s t && t.place == .spool n && isClass0 s t == c0)

/-- Oldest of the threads at a place. -/
def oldestAt (s : State) (p : Place) (c0 : Bool) : Option Thread :=
  bestOf (fun a b => decide (a.enq < b.enq)) (s.allThreads.filter fun t => canRun s t && t.place == p && isClass0 s t == c0)

/-- The thread that fills a vacant slot (R128): pinned spawns, the spawn FIFO, then the better of two spool heads. -/
def nextForSlot (s : State) (core slot : Nat) : Option Thread × State :=
  let c0 := class0Slot s core slot
  match oldestAt s (.pinned core) c0 with
  | some t => (some t, s)
  | none =>
    match oldestAt s (.fifo core) c0 with
    | some t => (some t, s)
    | none =>
      match partOfCore s core with
      | none => (none, s)
      | some p =>
        let sp := spoolsOf s p
        let (i, s1) := randomBelow s sp.length
        let (j, s2) := randomBelow s1 sp.length
        match spoolHead s2 (sp.getD i 0) c0, spoolHead s2 (sp.getD j 0) c0 with
        | none, x => (x, s2)
        | x, none => (x, s2)
        | some a, some b => (some (if entryBefore b a then b else a), s2)

/-- May a resident workspace be written back: its thread is suspended, and none of its accesses is in flight (R127, R223). -/
def mayLeave (s : State) (t : Thread) : Bool :=
  t.state != .running && t.handler.isNone && (ownAccesses s t.tid).isEmpty
/-- The suspended resident workspace of a core that has been idle longest (R128). -/
def idleLongest (s : State) (core : Nat) (but : Nat) : Option Thread :=
  bestOf (fun a b => decide (a.idleTs < b.idleTs)) ((residents s core).filter fun t => t.tid != but && mayLeave s t)
/-- The resident workspaces that hold the position to which a thread must return (R257). -/
def inPlaceOf (s : State) (t : Thread) : List Thread :=
  (residents s t.core).filter fun u => u.tid != t.tid && ringMeets s u t.ring (frameRing s t * 0x800)
/-- The position that a thread is brought into: the one it left, if it must return there, else any free one (R128, R257). -/
def ringFor (s : State) (t : Thread) (core : Nat) : Option Nat :=
  if t.home then (if (inPlaceOf s t).isEmpty then some t.ring else none) else freeRing s t core
/-- The workspace that is written back first where no position is free for a thread. -/
def leaverFor (s : State) (t : Thread) (core : Nat) : Option Thread :=
  if t.home then (inPlaceOf s t).find? (mayLeave s) else idleLongest s core t.tid

/-! ### The pending-launch pool (R143) and the layout (R133) -/

/-- Free entries of a partition's pool. -/
def poolFree (s : State) (part : Nat) : Nat := 4096 - (s.part part).taken

/-- The launch whose reservation a waiter may draw from. -/
def waitParent (s : State) (w : PoolWait) : Option Launch :=
  if w.isLaunch then none
  else
    match s.thread? w.id with
    | some t => s.launch? t.lnch
    | none => none

/-- Hold for one waiter the entries that it can draw. -/
def serveOne (s : State) (part : Nat) (w : PoolWait) : PoolWait × State :=
  let want := w.need - (w.ofParent + w.free)
  let a := match waitParent s w with
    | some l => Nat.min want l.resv
    | none => 0
  let f := Nat.min (want - a) (poolFree s part)
  let s1 := match waitParent s w with
    | some l => s.modLaunch l.h fun l => { l with resv := l.resv - a }
    | none => s
  ({ w with ofParent := w.ofParent + a, free := w.free + f }, s1.modPart part fun p => { p with taken := p.taken + f })

/-- Hold for the waiters, in order, the entries that are free. -/
def serveList (part : Nat) : List PoolWait → State → List PoolWait × State
  | [], s => ([], s)
  | w :: rest, s =>
    let r := serveOne s part w
    let q := serveList part rest r.2
    (r.1 :: q.1, q.2)

/-- Serve the waiters of a partition; one that has all it needs goes on (R143, R170). -/
def serve (s : State) (part : Nat) : State :=
  let r := serveList part (s.part part).waiters s
  let s1 := r.2.modPart part fun p => { p with waiters := r.1 }
  if r.1.any fun w => decide (w.need ≤ w.ofParent + w.free) then s1.later [.launchwWake part] else s1

/-- Entries go back: those of a launch's reservation to it while it stands, the others to the free pool. -/
def giveBack (s : State) (part : Nat) (parent : Option Nat) (nParent nFree : Nat) : State :=
  let s1 := match parent with
    | some h =>
      if (s.launch? h).isSome then s.modLaunch h fun l => { l with resv := l.resv + nParent }
      else s.modPart part fun p => { p with taken := p.taken - nParent }
    | none => s.modPart part fun p => { p with taken := p.taken - nParent }
  serve (s1.modPart part fun p => { p with taken := p.taken - nFree }) part

/-- Write STATUS of a launch (R129). -/
def writeStatus (s : State) (l : Launch) (v : Nat) : State := ctxPut s l.fromPid (addrOf l.lpb + 0xF8) 8 v

/-- The first unit of a launch dispatches: STATUS 2, and its first entry is free (R129, R143). -/
def firstDispatch (s : State) (h : Nat) : State :=
  match s.launch? h with
  | none => s
  | some l =>
    if l.first then
      let s1 := writeStatus (s.modLaunch h fun l => { l with first := false, state := 2 }) l 2
      giveBack s1 l.part l.parent (b2n l.firstOfParent) (1 - b2n l.firstOfParent)
    else s

/-- The tables of SLOTWs that are due on a core take effect, in order; while class 0 holds the cores they are the tenant's saved table
(R345, R370). -/
def slotTables (s : State) (core : Nat) : State :=
  s.modCore core fun k =>
    match (k.newTables.filter fun n => decide (n.2 ≤ tsOf s core)).getLast? with
    | none => k
    | some n =>
      let rest := k.newTables.filter fun n => decide (tsOf s core < n.2)
      if k.tenantTable.isSome then { k with tenantTable := some n.1, newTables := rest } else { k with table := n.1, newTables := rest }

/-- Every core of a partition takes a partition word and a slot table; while class 0 holds the cores, the table is the tenant's
saved one (R133, R345). A SLOTW that is not yet due still takes effect at its cycle (R370). -/
def setLayout (s : State) (part : Nat) (pword : W64) (stmpl : BitVec 128) : State :=
  (coresOf s part).foldl (fun s c => s.modCore c fun x =>
    if (s.part part).class0On then { x with pword := pword, tenantTable := some stmpl }
    else { x with pword := pword, table := stmpl }) s

/-- A context begins to hold a partition that nobody holds, with its layout, at its first dispatch there (R372); the format contexts
are as at reset (R273), and the cores' histograms are its own (R353). -/
def beginHolding (s : State) (t : Thread) : State :=
  if isCtl t.core ∨ isClass0 s t ∨ (s.part t.part).holder ≠ none ∨ !bootPast s 0x30 then s
  else
    let s0 := s.modPart t.part fun p => { p with holder := some t.pid }
    let s1 := (coresOf s t.part).foldl (fun s c => s.modCore c fun x => { x with fmt := 0, hist := [] }) s0
    match (s.part t.part).layouts.find? fun l => l.1 == t.pid with
    | some l => setLayout s1 t.part l.2.1 l.2.2
    | none => s1

/-- Give a ready thread a slot of a core: its workspace is resident already, or it is brought into a free position, for which
the idle workspaces are written back as needed (R128, R257). `n` bounds how many. -/
def takeSlot : Nat → State → Nat → Nat → Nat → State
  | n, s0, core, slot, tid =>
    match s0.thread? tid with
    | none => s0
    | some t =>
      let s := beginHolding s0 t
      let run (s : State) : State :=
        saveRecord (firstDispatch (s.modThread tid fun t =>
          { t with state := .running, slot := slot, place := .nowhere, slotHeld := false, npc := t.pc, waitFrom := s.ts }) t.lnch) tid
      if !isCtl core ∧ !slotNamed s core slot then s
      else if t.core = core ∧ t.img.isNone then run s
      else
        let s1 := writeBack s tid
        match s1.thread? tid with
        | none => s
        | some t1 =>
          match ringFor s1 t1 core with
          | some r => run (bringIn s1 tid core r)
          | none =>
            match n, leaverFor s1 t1 core with
            | m + 1, some u => takeSlot m (writeBack s1 u.tid) core slot tid
            | _, _ => s

/-! ### Placing a thread -/

/-- A ready thread whose workspace is on a core queues as a pinned entry of that core, any other goes into a spool (R157). One
that a debugger has asked to stop enters STOPPED instead (R354). A handler goes on in its reserved slot, once its earlier accesses have been
performed (R223, R290). -/
def makeReady (s : State) (tid : Nat) : State :=
  match s.thread? tid with
  | none => s
  | some t =>
    if t.stopNext then
      saveImage (saveRecord (debugNotice (s.modThread tid fun t =>
        { t with
          state := .stopped, stopNext := false, slotHeld := false, lastFault := 0, place := .nowhere
          wait := if t.wait = some .released then t.wait else none }) t (stopWord 0 15 0 t.core t.slot) 0) tid) tid
    else
      let s1 := s.modThread tid fun t => { t with wait := if t.wait = some .released then t.wait else none, slotHeld := false }
      if t.handler.isSome then saveRecord (s1.modThread tid fun t => { t with state := .ready, npc := t.pc }) tid
      else if t.home || isCtl t.core then enqueue s1 tid (.pinned t.core) else intoSpool s1 tid

/-- The thread's wait has ended: one in its slot goes on there, one suspended becomes ready (R157, R167). -/
def wakeThread (s : State) (tid : Nat) : State :=
  match s.thread? tid with
  | none => s
  | some t => if t.state = .waiting then makeReady s tid else s

/-! ### Creation -/

/-- Add a thread; no line that a read-only buffer holds now serves it (R225). -/
def addThread (s : State) (t : Thread) : State :=
  saveRecord { s with threads := s.threads ++ [{ t with roFrom := s.roNext }], nextTid := s.nextTid + 1 } t.tid

/-- A child by SPAWN, FORK or MOVM: what it inherits (R138). -/
def childOf (s : State) (pc : W64) (img : Memory) (mcnt : W32) (draw : W32) : Thread :=
  let p := rcur s
  { Thread.make s.nextTid p.core 0 p.priv p.pid with
    state := .ready, pc := pc, npc := pc, home := false, part := p.part, mcnt := mcnt, unitid := p.unitid, unitidx := p.unitidx
    draw := draw, lnch := p.lnch, grps := p.grps, key := p.prio, prio := p.prio, pclass := p.pclass
    recd := freeRecord s p.pid, img := some img, enqTs := s.ts }

/-- A thread that the device spawns on a control core with x1 to x4 (R333, R404, R415); none while the package is halted (R412). -/
def spawnControl (s : State) (pid : BitVec 16) (core : Nat) (pc : W64) (xs : List W64) : State :=
  if halted s then s else
  let t := { Thread.make s.nextTid core 0 1 pid with
    state := .ready, pc := pc, npc := pc, home := false, recd := freeRecord s pid, img := some (contextImage s pid xs), enqTs := s.ts }
  (addThread s t).later [.activeMessage core t.tid]

/-- A handler of a reserved slot: slot 13, 14 or 15 in the workspace position it owns (R290). -/
def handlerSlot : Handler → Nat
  | .row => 13
  | .landing _ => 14
  | .sampling => 15

/-- The workspace position of a reserved slot (R290). -/
def handlerRing (pword : W64) (slot : Nat) : Nat :=
  (bits pword.toNat 0 7 - 1 - popcount (slot - 13) (bits pword.toNat 32 3)) * 0x800

/-- Start a handler thread (R279, R288, R290, R291). -/
def startHandler (s : State) (core : Nat) (h : Handler) (pid : BitVec 16) (unitid : W32) (pc : W64) (xs : List W64) : State :=
  let slot := handlerSlot h
  let ring := handlerRing (s.core core).pword slot
  let t := { Thread.make s.nextTid core slot 0 pid with
    pc := pc, npc := pc, part := (partOfCore s core).getD 0, wp := ring, ring := ring, unitid := unitid, handler := some h
    recd := freeRecord s pid }
  let k := poolKey core ring
  addThread { s with pool := s.pool.copyFrom k (contextImage s pid xs) 0 0x800, poolPoison := unpoison s.poolPoison k 0x800 } t

/-- Is a pending step one of a thread or of an access of its own. -/
def stepOf (s : State) (tid : Nat) : Event → Bool
  | .loadDataLands i => s.accesses.any fun a => a.id == i && a.tid == tid
  | .storePerformed i => s.accesses.any fun a => a.id == i && a.tid == tid
  | .nbrAccess i => s.accesses.any fun a => a.id == i && a.tid == tid
  | .vappendReserve i => s.accesses.any fun a => a.id == i && a.tid == tid
  | .pageWalk t _ _ => t == tid
  | .activeMessage _ t => t == tid
  | .spoolKeyAging t => t == tid
  | .seamArrival t => t == tid
  | .slotWaitTimeout t => t == tid
  | .async t => t == tid
  | .preemptTurnLimit t => t == tid
  | .crtakeRecheck t => t == tid
  | _ => false

/-- A thread waits for pool entries no longer: those held for it go back (R143). -/
def dropWaiter (s : State) (t : Thread) : State :=
  s.parts.foldl (fun s p =>
    match p.waiters.find? fun w => !w.isLaunch && w.id == t.tid with
    | none => s
    | some w =>
      giveBack (s.modPart p.part fun p => { p with waiters := p.waiters.filter fun w => w.isLaunch || w.id != t.tid })
        p.part (some t.lnch) w.ofParent w.free) s

/-- Take a thread away: its workspace, record and spill area are free, and nothing of it is pending any more (R161). -/
def removeThread (s : State) (tid : Nat) : State :=
  let s0 := match s.thread? tid with
    | some t => putRecord (dropWaiter s t) { t with state := .free }
    | none => s
  let s1 := { s0 with
    agenda := s0.agenda.filter fun e => !stepOf s0 tid e
    accesses := s0.accesses.filter fun a => a.tid ≠ tid }.modThread tid fun t => { t with state := .free }
  if s1.cur.tid = tid then s1 else { s1 with threads := s1.threads.filter fun t => t.tid ≠ tid }

/-! ### Working on a thread -/

/-- A bundle has had its effect: the thread goes on at its next pc, waits, or has left its slot. -/
def finishBundle (s : State) : State :=
  let w : Option Wait := match s.flow with
    | .done => if s.cur.seam.isSome then some .seamAnswer else none
    | .stalled => s.cur.wait
    | _ => none
  let s0 := { s with
    cur := { s.cur with
      pc := s.cur.npc, wait := w, crownWait := if s.flow = .stalled then s.cur.crownWait else none
      queueWait := if s.flow = .stalled then s.cur.queueWait else none }
    flow := .done, issue := none, pre := none }
  let s1 := if s0.cur.state = .running then s0 else s0.modCur fun t => { t with idleTs := s0.ts }
  if s1.cur.state = .running then s1 else if s1.cur.state = .stopped then saveRecord s1 s1.cur.tid else settle s1 s1.cur.tid

/-- Something happens to a thread between its bundles, or ends the bundle it waits in. -/
def onThread (s : State) (tid : Nat) (f : State → State) : State :=
  let s1 := switchTo s tid
  finishBundle (f { s1 with cur := { s1.cur with npc := s1.cur.pc }, pre := none, flow := .done })

/-- Notify the fault service (R333). -/
def notifyFault (s : State) (t : Thread) (x2 x3 x4 : W64) : State := s.later [.faultNotification t.pid t.recd x2 x3 x4]

end Sys2Proof.Machine
end

