-- ==== Sys2Proof/Machine/Parallel.lean ====
section
/-!
DEFINITION. Parallel instructions and the filling of slots (07 R156 to R168, R172; 06 R138 to R142, R157).
-/
namespace Sys2Proof.Machine

/-- A counted operation takes its effect once the thread's earlier accesses have been performed: its release (R231, log entry
20), and it is held back like a store or a load (R248). -/
def whenDrained (s : State) (k : State → State) : State :=
  unheld s true false fun s => if ownAccesses s s.cur.tid ≠ [] then retry s else k s

/-- Is a core one that a thread of the partition may name (R158): a fenced one is not (R395; log entry 126, DESIGN CHOICE). -/
def coreInPart (s : State) (t : Thread) (core : Nat) : Bool :=
  !isCtl t.core && partOfCore s core == some t.part && !fenced s core

/-- Place a new child: on a named core it travels as an active message, else it goes into a spool; one of a control core, which
has no partition, queues at that core (R139, R140, log entry 21, DEDUCED). -/
def placeChild (s : State) (t : Thread) (named : Option Nat) : State :=
  match named with
  | some c => (s.modThread t.tid fun u => { u with core := c }).later [.activeMessage c t.tid]
  | none => if isCtl t.core then s.later [.activeMessage t.core t.tid] else intoSpool s t.tid

/-- The named core of SPAWN.C or FORK.C: PROT where it is not in the partition (R158). -/
def withCore (s : State) (c : Option (BitVec 5)) (k : State → Option Nat → State) : State :=
  match c with
  | none => k s none
  | some r =>
    let core := (rX s r).toNat % 4096
    if coreInPart s s.cur core then k s (some core) else trap s cPROT (BitVec.ofNat 64 core)

/-- A free record for a child, or the sender is suspended as for a translation fault (R158). -/
def withRecord (s : State) (k : State → State) : State :=
  if recordRoom s s.cur.pid then k s
  else suspendFault s cPAGE 1 0 (freeRecord s s.cur.pid) 0 s.cur.pc

/-- Make the child of an instruction with a draw of the sender's stream, and count it (R138). -/
def makeChild (s : State) (pc : W64) (img : Memory) (mcnt : W32) (named : Option Nat) (counted : Bool) : State :=
  let t := childOf s pc img mcnt (drawOut s 0)
  let s1 := if counted then spawnCounts s t mcnt.toNat else s
  placeChild (addThread (advanceDraw s1 1) t) t named

/-- SPAWN and SPAWN.C (R158). -/
def spawn (s : State) (a : BitVec 5) (pc : W64) (c : Option (BitVec 5)) : State :=
  notReserved s fun s => whenDrained s fun s => checkTarget s pc fun s => withCore s c fun s named =>
    withRecord s fun s => irreversible s (bundleNow s) fun s =>
      let xs := (upTo 4).map fun i => getX s (a.toNat + i)
      let img := newImage (fmode s) (getSt s 0x1D0 8) (getSt s 0x1D8 8) (rcur s).mcnt.toNat xs
      makeChild s pc img (rcur s).mcnt named true

/-- The image of a FORK's child: x1 to x31, iv0 to iv15, the status block with windows, sticky bits and trap fields cleared, and
the linkage of its stream and vector; `p` reads 1 in it (R138, R159). -/
def forkImage (s : State) (p mcnt : Nat) : Memory :=
  let k := wsOf s
  let m1 := Memory.empty.copyFrom 8 (rpool s) (k + 8) 0x178
  let stat := setBits (setBits (getSt s 0x180 4) 8 24 0) p 1 1
  let m2 := ((m1.writeNat 0x180 4 stat).writeNat 0x188 4 (fmode s)).writeNat 0x18C 4 mcnt
  (m2.writeNat 0x1D0 8 (getSt s 0x1D0 8)).writeNat 0x1D8 8 (getSt s 0x1D8 8)

/-- FORK and FORK.C (R159). -/
def fork (s : State) (p : BitVec 3) (c : Option (BitVec 5)) : State :=
  notReserved s fun s => whenDrained s fun s => withCore s c fun s named =>
    withRecord s fun s => irreversible s (bundleNow s) fun s =>
      let m := (rcur s).mcnt
      setP (makeChild s (s.cur.pc + 8) (forkImage s p.toNat m.toNat) m named true) p.toNat false

/-- MOVM (R160). -/
def movm (s : State) (p : BitVec 3) (k : W64) : State :=
  notReserved s fun s =>
    let m := (rcur s).mcnt
    if 0 < k.toNat ∧ k.toNat < m.toNat then
      whenDrained s fun s => withRecord s fun s => irreversible s (bundleNow s) fun s =>
        let kk : W32 := k.setWidth 32
        let s1 := makeChild s (s.cur.pc + 8) (forkImage s p.toNat kk.toNat) kk none false
        let s2 := setSt (s1.modCur fun t => { t with mcnt := m - kk }) 0x18C 4 (m - kk).toNat
        setP s2 p.toNat false
    else setP (advanceDraw s 1) p.toNat false

/-! ### Ending a thread (R142, R161) -/

/-- Close the rounds of a launch whose closing group has no member outside a seam (R149). Of several tables with one closing group that
which has waited longest for an arrival closes first (log entry 114, DESIGN CHOICE). -/
def closeRounds (s : State) (h : Nat) (gs : List Nat) : State :=
  s.later ((s.seams.filter fun r => r.launch == h && gs.contains r.grp && countC s h r.grp == 0).map fun r =>
    .seamRoundClose r.pid r.tbl)

/-- The members waiting at BARG g of a launch, by UNITID. -/
def bargWaiters (s : State) (h g : Nat) : List Thread :=
  let l := s.allThreads.filter fun t => t.lnch == h && t.wait == some (.group g)
  l.mergeSort fun a b => decide (a.unitid.toNat ≤ b.unitid.toNat)

/-- BARG g completes when every live member waits at it: A(g) returns to 0, and each waiter goes on in its slot, or is ready after its BARG
(R168). -/
def bargCheck (s : State) (h g : Nat) : State :=
  match s.launch? h with
  | none => s
  | some l =>
    let a := countGet l.arr g
    if a ≠ 0 ∧ a = countGet l.liv g then
      let s1 := s.modLaunch h fun l => { l with arr := countMod l.arr g fun _ => 0 }
      (bargWaiters s h g).foldl (fun s t =>
        if t.state = .running then s.modThread t.tid fun t => { t with wait := some .released }
        else makeReady (s.modThread t.tid fun t => { t with wait := none }) t.tid) s1
    else s

/-- A holder that ends without passing leaves the Crown at its member: CST 0, and a pass message to that core (R394). -/
def dropCrown (s : State) (t : Thread) (r : Nat) : State :=
  { s with hbm := s.hbm.writeNat (r + 0x10) 4 0, hbmPoison := unpoison s.hbmPoison (r + 0x10) 4 }.later
    [.crownPassMessage (coreField t.core) r (routerOf t.core) (isClass0 s t)]

/-- What an engine does when a handler thread ends (R161, R279, R288, R304). -/
def endHandler (s : State) (t : Thread) : State :=
  match t.handler with
  | none => s
  | some .row => (s.modCore t.core fun c => { c with mxu := c.mxu.map fun r => { r with handling := false } }).later [.mxuRowDrain t.core]
  | some (.landing copy) =>
    (s.modCore t.core fun c => { c with landing := eraseFirst (fun x => x.1 == copy) c.landing }).later [.landingHandlerStart t.core]
  | some .sampling => s.modCore t.core fun c => { c with watchBusy := false }

/-- End a thread (R161): its windows are committed, groups and launch count it no longer, its records are dropped. `atSeam` says
that its arrival has lowered C(g) already. -/
def retire (s : State) (t : Thread) (atSeam : Bool) : State :=
  let s1 := if nopenOf s t = 0 then s else commitOldest s t (nopenOf s t)
  let m := t.mcnt.toNat
  let gs := groupsOf t
  let low (c : List (Nat × Nat)) : List (Nat × Nat) := gs.foldl (fun c g => countMod c g (· - m)) c
  let waits : Option Nat := match t.wait with
    | some (.group g) => some g
    | _ => none
  let s2 := s1.modLaunch t.lnch fun l =>
    { l with
      live := l.live - m, cnt := if atSeam then l.cnt else low l.cnt, liv := low l.liv
      arr := match waits with
        | some g => countMod l.arr g (· - m)
        | none => l.arr }
  let s3 := s2.modCore t.core fun c => { c with records := c.records.filter fun r => r.tid ≠ t.tid }
  let s4 := endHandler (t.crowns.foldl (fun s r => dropCrown s t r) s3) t
  let s5 := removeThread s4 t.tid
  let s6 := closeRounds s5 t.lnch gs
  let s7 := gs.foldl (fun s g => bargCheck s t.lnch g) s6
  match s7.launch? t.lnch with
  | some l => if l.live = 0 ∧ t.handler.isNone ∧ m ≠ 0 then s7.later [.launchCompletion t.lnch] else s7
  | none => s7

/-- QUIT (R161, R360). -/
def quit (s : State) : State :=
  whenDrained s fun s =>
    if (liveCmds s s.cur.core).any fun c => c.tid == s.cur.tid then stall s .drainEngines
    else retire s s.cur false

/-- YIELD and YIELD.H (R162). -/
def yield (s : State) (h : Bool) : State :=
  notReserved s fun s =>
    let t := s.cur
    let s1 := s.modCur fun t => { t with key := t.prio, home := true }
    let fifo := (s.allThreads.filter fun u => u.place == .fifo t.core).length
    if h || mustReturn s t || isCtl t.core then
      enqueue s1 t.tid (if fifo < 8 then .fifo t.core else .pinned t.core)
    else intoSpool s1 t.tid

/-! ### Barriers -/

/-- A barrier word that takes no arrival (R165). -/
def malformedBarrier (w : Nat) : Bool :=
  bits w 24 24 == 0 || bits w 0 24 == 0 || decide (bits w 24 24 < bits w 0 24)

/-- The word after `m` arrivals, none where it is malformed (R166). -/
def arrive (w m : Nat) : Option Nat :=
  if malformedBarrier w then none
  else
    let e := bits w 24 24
    let t := (e - bits w 0 24) + m
    some ((bits w 48 16 + t / e) % 2 ^ 16 * 2 ^ 48 + e * 2 ^ 24 + (e - t % e))

/-- A pointer to a barrier word: LOC or NBR, aligned, on LOC in the scratchpad (R165). -/
def withBarrier (s : State) (kind : AccKind) (p : W64) (k : State → Nat → State) : State :=
  if pathOf p ≠ 2 ∧ pathOf p ≠ 3 then trap s cADDR p
  else
    withPlaces s kind 8 [] [p] fun s ls =>
      let r := ownRegions s s.cur
      if pathOf p = 2 ∧ !within (addrOf p) 8 r.spLo r.spHi then trap s cPROT p
      else
        match ls with
        | [.pool key] => k s key
        | _ => s

/-- Has a phase passed a value (R167). -/
def phasePassed (w v : Nat) : Bool :=
  let d := (bits w 48 16 + 2 ^ 16 - v % 2 ^ 16) % 2 ^ 16
  decide (1 ≤ d ∧ d ≤ 2 ^ 15)

/-- BARA (R166). -/
def bara (s : State) (d : BitVec 5) (p : W64) : State :=
  whenDrained s fun s => withBarrier s .atomic p fun s key =>
    if notYet s [{ ptr := p, loc := .pool key, n := 8, data := [] }] then retry s
    else irreversible s p fun s =>
    let w := s.pool.readNat key 8
    match arrive w (rcur s).mcnt.toNat with
    | none => wX s d 0xFFFFFFFFFFFFFFFF
    | some v => wX (putPool s key 8 v) d (BitVec.ofNat 64 (bits w 48 16))

/-- BARW (R167). Its read is a load: it comes after the thread's own earlier accesses to the word (R222, R224). -/
def barw (s : State) (v p : W64) : State :=
  notReserved s fun s =>
    if resumed s then s
    else
      unheld s false false fun s => withBarrier s .load p fun s key =>
        if notYet s [{ ptr := p, loc := .pool key, n := 8, data := [] }] then retry s
        else if phasePassed (s.pool.readNat key 8) v.toNat then s
        else stall s (.barrier (key / 2 ^ 20) (key % 2 ^ 20) (v.toNat % 2 ^ 16))

/-- BARG (R168). -/
def barg (s : State) (g : Nat) : State :=
  notReserved s fun s =>
    if resumed s then s
    else if !(groupsOf s.cur).contains g then trap s cILLEG (bundleNow s)
    else if s.cur.wait = some (.group g) then stall s (.group g)
    else
      whenDrained s fun s =>
        let m := s.cur.mcnt.toNat
        let s1 := s.modLaunch s.cur.lnch fun l => { l with arr := countMod l.arr g (· + m) }
        match s1.launch? s1.cur.lnch with
        | none => s
        | some l =>
          if countGet l.arr g = countGet l.liv g then bargCheck s1 s1.cur.lnch g
          else stall s1 (.group g)

/-- The block of a thread's launch, and the context whose translation reaches it. A launch that has completed has it still while one of its threads
lives (R172). -/
def launchBlockOf (s : State) (t : Thread) : Option (W64 × BitVec 16) :=
  match s.launch? t.lnch with
  | some l => some (l.lpb, l.fromPid)
  | none => (s.ended.find? fun e => e.1 == t.lnch).map (·.2)

/-- TASK.ARM and TASK.DIS (R172): one indivisible change of ARM in the block of the thread's launch, an atomic in the context whose
translation reaches the block, at the supervisor's level at least (R206, R207, R210; log entry 17, DEDUCED). -/
def task (s : State) (f : Nat → Nat) : State :=
  notReserved s fun s =>
    match launchBlockOf s s.cur with
    | none => trap s cPROT (bundleNow s)
    | some (lpb, from') =>
      whenDrained s fun s =>
        let p := lpb + 0x90
        match threadPlace s { s.cur with pid := from', priv := Nat.max 1 s.cur.priv } .atomic 0 (addrOf p) with
        | (s1, .error c) => suspendFault s1 c 2 0 p 0 s.cur.pc
        | (s1, .ok pl) =>
          if notYet s1 [{ ptr := p, loc := pl, n := 8, data := [] }] then retry s1
          else irreversible s1 (bundleNow s) fun s =>
          writeLoc s none pl (leBytes 8 (f (leNat (readLoc s pl 8)))) 1 (dieOf s.cur.core)

/-- A thread that gets no slot at its core waits in the spawn FIFO, or, where that is full, as a pinned entry of the core's home spool
(R139). -/
def queueAt (s : State) (core tid : Nat) : State :=
  let fifo := (s.allThreads.filter fun u => u.place == .fifo core).length
  enqueue s tid (if fifo < 8 then .fifo core else .pinned core)

/-- A thread arrives at the core it was sent to (R139, R329): the lowest vacant slot of those that its class may fill (R348), else it
queues. -/
def messageArrives (s : State) (t : Thread) (core : Nat) : State :=
  let s0 := s.modThread t.tid fun t => { t with core := core }
  match (upTo 16).find? fun i => slotVacant s core i && class0Slot s core i == isClass0 s t && mayRun s t with
  | some slot =>
    let s1 := takeSlot 64 s0 core slot t.tid
    match s1.thread? t.tid with
    | some u => if u.state = .running then s1 else queueAt s0 core t.tid
    | none => s1
  | none => queueAt s0 core t.tid

/-- The hem edges that a thread's active message crosses from its sender (R383). -/
def messageRoute (t : Thread) (core : Nat) : List Link :=
  hemRoute (if ctlCore0 ≤ t.sender then 4 else t.sender / 256) (dieOf core)

/-- A message whose way is cut by a hem edge that is down may or may not arrive, and the fault service is told (R391; log entry 8, DESIGN
CHOICE). A thread whose message is lost runs no more; its launch counts it still (log entry 90, DEDUCED). -/
def messageCut (s : State) (t : Thread) (core : Nat) : State :=
  let s1 := notifyFault { s with freeNext := s.freeNext + 1 } t (stopWord cPOISON 15 0 core 0) 0 0
  if Config.unansweredStorePerformed s.freeNext then messageArrives s1 t core else s1

/-- A message of the outgoing context that travels while a WORLD switch stops it leaves the mesh into a holding buffer (R341). -/
def heldInMesh (s : State) (t : Thread) : Bool := (s.part t.part).worldPhase == 1 && worldThread s t.part t

/-- SPAWN (R138, R158). -/
def execSpawn (a : BitVec 5) (b : BitVec 5) (g : BitVec 4) (s : State) : Result :=
  .next (guarded g s fun s => spawn s a (rX s b) none)

/-- SPAWN_C (R138, R139, R158). -/
def execSpawnC (a : BitVec 5) (b : BitVec 5) (c : BitVec 5) (g : BitVec 4) (s : State) : Result :=
  .next (guarded g s fun s => spawn s a (rX s b) (some c))

/-- FORK (R138, R159). -/
def execFork (p : BitVec 3) (g : BitVec 4) (s : State) : Result :=
  .next (guarded g s fun s => fork s p none)

/-- FORK_C (R138, R139, R159). -/
def execForkC (p : BitVec 3) (c : BitVec 5) (g : BitVec 4) (s : State) : Result :=
  .next (guarded g s fun s => fork s p (some c))

/-- QUIT (R161, R360). -/
def execQuit (g : BitVec 4) (s : State) : Result :=
  .next (guarded g s quit)

/-- YIELD (R162). -/
def execYield (g : BitVec 4) (s : State) : Result :=
  .next (guarded g s fun s => yield s false)

/-- YIELD_H (R162). -/
def execYieldH (g : BitVec 4) (s : State) : Result :=
  .next (guarded g s fun s => yield s true)

/-- MOVM (R160). -/
def execMovm (p : BitVec 3) (b : BitVec 5) (g : BitVec 4) (s : State) : Result :=
  .next (guarded g s fun s => movm s p (rX s b))

/-- BARA (R165, R166). -/
def execBara (d : BitVec 5) (b : BitVec 5) (g : BitVec 4) (s : State) : Result :=
  .next (guarded g s fun s => bara s d (rX s b))

/-- BARW (R165, R167). -/
def execBarw (a : BitVec 5) (b : BitVec 5) (g : BitVec 4) (s : State) : Result :=
  .next (guarded g s fun s => barw s (rX s a) (rX s b))

/-- BARG (R168). -/
def execBarg (e : BitVec 8) (g : BitVec 4) (s : State) : Result :=
  .next (guarded g s fun s => barg s e.toNat)

/-- TASK_ARM (R172). -/
def execTaskArm (a : BitVec 5) (g : BitVec 4) (s : State) : Result :=
  .next (guarded g s fun s => task s fun w => Nat.lor w (rX s a).toNat)

/-- TASK_DIS (R172). -/
def execTaskDis (a : BitVec 5) (g : BitVec 4) (s : State) : Result :=
  .next (guarded g s fun s => task s fun w => Nat.land w (2 ^ 64 - 1 - (rX s a).toNat))

/-- ACTIVE_MESSAGE (R139, R329, R341). -/
def execActiveMessage (core : Nat) (tid : Nat) (s : State) : Result :=
  match s.thread? tid with
  | none => .next s
  | some t =>
    .next (if heldInMesh s t then s.modPart t.part fun p => { p with held := p.held ++ [.activeMessage core tid] }
      else if (messageRoute t core).any (s.linksDown.contains ·) then messageCut s t core
      else messageArrives s t core)

/-- SLOT_FILL (R128, R141, R157). -/
def execSlotFill (core : Nat) (slot : Nat) (s : State) : Result :=
  .next (if slotVacant s core slot then
      match nextForSlot s core slot with
      | (some t, s1) => takeSlot 64 s1 core slot t.tid
      | (none, s1) => s1
    else s)

/-- SPOOL_KEY_AGING (R140): the key of a thread that a spool holds falls. -/
def execSpoolKeyAging (tid : Nat) (s : State) : Result :=
  .next (match s.thread? tid with
    | none => s
    | some t => if spooled t.place then saveRecord (s.modThread tid fun t => { t with key := t.key - 1 }) tid else s)

end Sys2Proof.Machine
end

