-- ==== Sys2Proof/Machine/Launch.lean ====
section
/-!
DEFINITION. Launches: the pending-launch pool, checks, units, completion (06 R129 to R137, R143, R144; 07 R169 to R171).
-/
namespace Sys2Proof.Machine

/-! ### Offering a block (R169, R170) -/

/-- Take entries together or none, from a launch's reservation first (R143): how many came from it. -/
def takeEntries (s : State) (part : Nat) (parent : Option Nat) (n : Nat) : Option (State × Nat) :=
  let a := match parent.bind s.launch? with
    | some l => Nat.min n l.resv
    | none => 0
  if n - a ≤ poolFree s part then
    let s1 := match parent with
      | some h => s.modLaunch h fun l => { l with resv := l.resv - a }
      | none => s
    some (s1.modPart part fun p => { p with taken := p.taken + (n - a) }, a)
  else none

/-- The handle that the device gives a launch: the lowest, from 1 on, that no launch has and no launch in `ended` (R126; log entry 116,
DESIGN CHOICE). -/
def freeHandle (s : State) : Nat :=
  ((upFrom 1 (s.launches.length + s.ended.length + 1)).find? fun h => !(s.launches.any fun l => l.h == h) && !(s.ended.any fun e => e.1 == h)).getD 1

/-- A launch that is offered: its entries are its first, those for its children and those for its successors, and the first `a`
of them came from its parent's reservation. -/
def addLaunch (s : State) (lpb : W64) (fromPid : BitVec 16) (lpid : Option (BitVec 16)) (part : Nat) (dieK : Bool) (parent : Option Nat)
    (resv succ a : Nat) : State × Nat :=
  let h := freeHandle s
  let l : Launch :=
    { h := h, lpb := lpb, pid := fromPid, fromPid := fromPid, lpid := lpid, part := part, dieK := dieK, parent := parent, state := 0
      first := true, firstOfParent := decide (1 ≤ a), resv := resv, resvOfParent := Nat.min (a - 1) resv
      succ := succ, succOfParent := Nat.min (a - 1 - resv) succ, live := 0, cnt := [], liv := [], arr := [], prio := 0
      pclass := 2, spl := 0, pword := 0, stmpl := 0 }
  ({ s with launches := s.launches ++ [l] }, h)

/-- Entries that a block needs, from CLASS and NSUCC (R143): the first, RESV, NSUCC; one alone where that is too many. -/
def blockNeed (cls nsucc : Nat) : Nat × Nat :=
  let r := bits cls 16 12
  let n := bits nsucc 0 4
  if 4096 < 1 + r + n then (0, 0) else (r, n)

/-- The device writes a dword at a place it has checked. -/
def putWordAt (s : State) (l : Loc) (v : Nat) : State :=
  match l with
  | .mem pa => { s with hbm := s.hbm.writeNat pa 8 v, hbmPoison := unpoison s.hbmPoison pa 8 }
  | .sys a => { s with sys := s.sys.writeNat a 8 v }
  | _ => s

/-- The offered block has its entries: STATUS pending, and the check is to be made. -/
def offered (s : State) (p : W64) (st : Loc) (part : Nat) (need : Nat × Nat) (a : Nat) : State :=
  let ctl := isCtl s.cur.core
  let r := addLaunch (putWordAt s st 0) p s.cur.pid none part ctl (if ctl then none else some s.cur.lnch) need.1 need.2 a
  r.1.later [.launchCheck r.2]

/-- The current thread's place among the waiters of a partition's pool. -/
def ownWait (s : State) (part : Nat) : Option PoolWait :=
  (s.part part).waiters.find? fun w => !w.isLaunch && w.id == s.cur.tid

/-- LAUNCHW cannot take its entries: the thread is suspended and waits for them (R143, R170). -/
def waitPool (s : State) (part n : Nat) : State :=
  { s with cur := { s.cur with state := .waiting, npc := s.cur.pc, wait := some (.pool part n) }, flow := .suspended }

/-- LAUNCHW takes the entries held for it, or those that are free, or waits; where its block needs more than are held, it waits at the head of
the order (R143, R170). -/
def launchWaits (s : State) (p : W64) (st : Loc) (part : Nat) (need : Nat × Nat) : State :=
  let n := 1 + need.1 + need.2
  match ownWait s part with
  | none =>
    match takeEntries s part (if isCtl s.cur.core then none else some s.cur.lnch) n with
    | some (s1, a) => irreversible s1 p fun s => offered s p st part need a
    | none =>
      waitPool (s.modPart part fun x => { x with
        waiters := x.waiters ++ [{ isLaunch := false, id := s.cur.tid, need := n, ofParent := 0, free := 0 }] }) part n
  | some w =>
    let others (s : State) : State := s.modPart part fun x => { x with waiters := x.waiters.filter fun w => w.isLaunch || w.id != s.cur.tid }
    if n ≤ w.ofParent + w.free then
      irreversible s p fun s =>
        let a := Nat.min n w.ofParent
        offered (giveBack (others s) part (some s.cur.lnch) (w.ofParent - a) (w.free - (n - a))) p st part need a
    else waitPool (serve ((others s).modPart part fun x => { x with waiters := { w with need := n } :: x.waiters }) part) part n

/-- LAUNCH and LAUNCHW (R169 to R171). `pd` is the POOLFULL predicate of LAUNCH; LAUNCHW has none. -/
def launchBlock (s : State) (p : W64) (pd : Option (BitVec 3)) : State :=
  notReserved s fun s =>
    let go (s : State) : State :=
      if pathOf p ≠ 0 then trap s cADDR p
      else withPlaces s .store 8 [] [p + 0xF8] fun s st => withPlaces s .load 8 [] [p + 0x40, p + 0x48] fun s ls =>
        whenDrained s fun s =>
          let st0 := st.headD .dropped
          let word (i : Nat) : Nat := leNat (readLoc s (ls.getD i .dropped) 8)
          let need := blockNeed (word 0) (word 1)
          let part := if isCtl s.cur.core then bits (word 0) 32 6 else s.cur.part
          let setPd (s : State) (b : Bool) : State := match pd with
            | some d => setP s d.toNat b
            | none => s
          if isCtl s.cur.core ∧ !partConfigured s part then irreversible s p fun s => setPd (putWordAt s st0 (4 + 2 * 2 ^ 8)) false
          else
            match pd with
            | none => launchWaits s p st0 part need
            | some d =>
              match takeEntries s part (if isCtl s.cur.core then none else some s.cur.lnch) (1 + need.1 + need.2) with
              | none => setP s d.toNat true
              | some (s1, a) => irreversible s1 p fun s => setP (offered s p st0 part need a) d.toNat false
    if isCtl s.cur.core then needLevel 1 s go else go s

/-! ### The check (R132) -/

/-- Dimensions of a block. -/
def dimsOf (b : List Byte) : Nat × Nat × Nat := (fieldOf b 0x10 2, fieldOf b 0x12 2, fieldOf b 0x14 2)

/-- Units of a block. -/
def unitCount (b : List Byte) : Nat := (dimsOf b).1 * (dimsOf b).2.1 * (dimsOf b).2.2

/-- May the device fetch from this address for the context (R207). -/
def fetchable (s : State) (pid : BitVec 16) (va : Nat) : Bool :=
  match walk s pid va with
  | .leaf e _ _ => leafPermits e 0 1 .fetch
  | .page => false

/-- Does a pointer break R12 or R13, or a byte of its range fail to translate. -/
def badRange (s : State) (pid : BitVec 16) (p : W64) (n align : Nat) : Bool :=
  bits p.toNat 57 7 != 0 || p.toNat % align != 0 ||
    (match ctxRead s pid p.toNat n with
      | .ok _ => false
      | .error _ => true)

/-- The group table of a block: 256 entries of 32 bytes, or none (R136). -/
def groupTable (s : State) (pid : BitVec 16) (b : List Byte) : List (Nat × List Byte) :=
  if fieldOf b 0x38 8 = 0 then []
  else
    match ctxRead s pid (fieldOf b 0x38 8) 8192 with
    | .ok t => (upTo 256).map fun g => (g, (t.drop (32 * g)).take 32)
    | .error _ => []

/-- Is a group entry malformed (R136). -/
def malformedGroup (e : List Byte) : Bool :=
  let kind := fieldOf e 0 1
  decide (2 < kind) || fieldOf e 1 7 != 0 ||
    (kind == 1 && (fieldOf e 0xE 2 != 0 || fieldOf e 0x16 2 != 0 || fieldOf e 0x1E 2 != 0 ||
      fieldOf e 0x18 2 == 0 || fieldOf e 0x1A 2 == 0 || fieldOf e 0x1C 2 == 0)) ||
    (kind == 2 && (fieldOf e 0x10 8 != 0 || fieldOf e 0x18 8 != 0))

/-- Is a coordinate one of `n` values from `o` at stride `st`. -/
def onStride (x o n st : Nat) : Bool := decide (o ≤ x ∧ (x - o) % st = 0 ∧ (x - o) / st < n)

/-- Is a unit a member of a group (R136). -/
def isMember (s : State) (pid : BitVec 16) (d : Nat × Nat × Nat) (u : Nat) (e : List Byte) : Bool :=
  if fieldOf e 0 1 = 1 then
    onStride (u % d.1) (fieldOf e 8 2) (fieldOf e 0x10 2) (fieldOf e 0x18 2) &&
      onStride (u / d.1 % d.2.1) (fieldOf e 0xA 2) (fieldOf e 0x12 2) (fieldOf e 0x1A 2) &&
      onStride (u / (d.1 * d.2.1)) (fieldOf e 0xC 2) (fieldOf e 0x14 2) (fieldOf e 0x1C 2)
  else if fieldOf e 0 1 = 2 then bitAt (ctxNat s pid (fieldOf e 8 8 + u / 8) 1) (u % 8)
  else false

/-- The groups of a unit, ascending (R137). -/
def unitGroups (s : State) (pid : BitVec 16) (d : Nat × Nat × Nat) (tab : List (Nat × List Byte)) (u : Nat) : List Nat :=
  (tab.filter fun e => isMember s pid d u e.2).map (·.1)

/-- Do two ranges share a byte. -/
def meets (a b c d : Nat) : Bool := decide (a < d ∧ c < b ∧ a < b ∧ c < d)

/-- The class-0 checks of R348 on a block; true where they pass. -/
def class0Checks (s : State) (part pclass : Nat) (pword : Nat) (stmpl : BitVec 128) : Bool :=
  let c := c0slot s part
  let r := regionsOf pword 0 false
  let lo := c0off s part
  let hi := lo + c0len s part
  if pclass = 0 then
    c != 0 && decide (c < 2 ^ 13) && bits pword 32 3 == 0 &&
      decide (bits pword 0 7 * 0x800 + bits pword 8 8 * 0x1000 + bits pword 16 8 * 0x1000 ≤ c0len s part)
  else
    c == 0 ||
      ((upTo 32).all fun e => !bitAt c (tableSlot stmpl e)) &&
        ((upTo 3).all fun i => !(bitAt pword (32 + i) && bitAt c (13 + i))) &&
        !(meets r.wsLo r.wsHi lo hi || meets r.spLo r.spHi lo hi || meets r.acLo r.acHi lo hi)

/-- Does a block from die K break R171: PSEL, PTGT or LPID; a successor must name the LPID of the launch that completes. -/
def badTarget (s : State) (l : Launch) (cls : Nat) : Bool :=
  let pid : BitVec 16 := BitVec.ofNat 16 (bits cls 40 16)
  if l.dieK then !bitAt cls 38 || bits cls 32 6 != l.part || !partConfigured s l.part || cstate s pid != 1 || l.lpid.any (· != pid)
  else bitAt cls 38 || bits cls 32 6 != 0 || pid != 0

/-- The reason of the first failing row, 0 where the block passes (R132). `pid` is the context of its units. CLASS[7:6], which R129 names
neither a field nor reserved, is not looked at (log entry 117, DESIGN CHOICE). -/
def rejectReason (s : State) (l : Launch) (pid : BitVec 16) (b : List Byte) : Nat :=
  let cls := fieldOf b 0x40 8
  let nsucc := fieldOf b 0x48 8
  let pword := fieldOf b 0x20 8
  let stmpl : BitVec 128 := BitVec.ofNat 128 (fieldOf b 0x28 16)
  let tab := groupTable s pid b
  if
    fieldOf b 0 8 % 8 ≠ 0 ∨ bits (fieldOf b 0 8) 57 7 ≠ 0 ∨ !fetchable s pid (fieldOf b 0 8)
      ∨ (fieldOf b 0x38 8 ≠ 0 ∧ badRange s pid (BitVec.ofNat 64 (fieldOf b 0x38 8)) 8192 8)
      ∨ ((upTo (Nat.min (bits nsucc 0 4) 8)).any fun i =>
          badRange s pid (BitVec.ofNat 64 (bits (fieldOf b (0x50 + 8 * i) 8) 0 57)) 256 256)
      ∨ (tab.any fun e => fieldOf e.2 0 1 == 2 && badRange s pid (BitVec.ofNat 64 (fieldOf e.2 8 8)) (Nat.max 1 ((unitCount b + 7) / 8)) 1)
  then 1
  else if
    fieldOf b 0x16 2 ≠ 0 ∨ fieldOf b 0x18 8 ≠ bits (fieldOf b 0x18 8) 0 2 + bits (fieldOf b 0x18 8) 4 4 * 16
      ∨ pword / 2 ^ 35 ≠ 0 ∨ bits pword 27 5 ≠ 0 ∨ bitAt pword 7 ∨ bitAt cls 39 ∨ bits cls 56 8 ≠ 0 ∨ nsucc / 16 ≠ 0
      ∨ fieldOf b 0x98 96 ≠ 0 ∨ unitCount b = 0 ∨ 2 ^ 32 - 1 < unitCount b ∨ bits cls 4 2 = 3 ∨ 10 < bits cls 28 4
      ∨ 8 < bits nsucc 0 4 ∨ 4096 < 1 + bits cls 16 12 + bits nsucc 0 4
      ∨ badTarget s l cls
  then 2
  else if
    bits pword 0 7 = 0 ∨ 64 < bits pword 0 7 ∨ 768 < bits pword 0 7 * 2 + bits pword 8 8 * 4 + bits pword 16 8 * 4
      ∨ bits pword 0 7 - popcount 3 (bits pword 32 3) < bits pword 24 3 + 1
      ∨ !class0Checks s l.part (bits cls 4 2) pword stmpl
      ∨ (bits cls 4 2 ≠ 0 ∧ (s.part l.part).layouts.any fun x => x.1 == pid && (x.2.1.toNat != pword || x.2.2 != stmpl))
  then 3
  else if bits cls 8 8 ≠ tenantOf pid then 4
  else if (tab.any fun e => malformedGroup e.2) ∨
    (upTo (unitCount b)).any fun u => decide (4 < (unitGroups s pid (dimsOf b) tab u).length)
  then 5
  else 0

/-! ### Units (R134, R135) -/

/-- Bits 0, 2, 4, … of a number. -/
def evenBits : Nat → Nat → Nat
  | 0, _ => 0
  | f + 1, d => d % 2 + 2 * evenBits f (d / 4)

/-- The point of a Hilbert walk: `f` bounds the doublings, `n` is the side. -/
def hilbertFrom : Nat → Nat → Nat → Nat → Nat × Nat → Nat × Nat
  | 0, _, _, _, p => p
  | f + 1, n, k, t, (x, y) =>
    if n ≤ k then (x, y)
    else
      let rx := t / 2 % 2
      let ry := Nat.xor t rx % 2
      let q : Nat × Nat := if ry = 0 then (if rx = 1 then (k - 1 - y, k - 1 - x) else (y, x)) else (x, y)
      hilbertFrom f n (2 * k) (t / 4) (q.1 + k * rx, q.2 + k * ry)

/-- The least power of two not below a number. -/
def powerAbove (m : Nat) : Nat := 2 ^ (((upTo 17).find? fun i => decide (m ≤ 2 ^ i)).getD 16)

/-- A panel of width `p` and height `h`, in the order of its code. -/
def panelWalk (order p h : Nat) : List (Nat × Nat) :=
  match order with
  | 0 => (upTo h).flatMap fun y => (upTo p).map fun x => (x, y)
  | 1 => (upTo p).flatMap fun x => (upTo h).map fun y => (x, y)
  | o =>
    let n := powerAbove (Nat.max p h)
    let at' (d : Nat) : Nat × Nat := if o = 2 then (evenBits 16 d, evenBits 16 (d / 2)) else hilbertFrom 17 n 1 d (0, 0)
    ((upTo (n * n)).map at').filter fun q => decide (q.1 < p ∧ q.2 < h)

/-- The units of a block in traversal order (R135). -/
def traversal (b : List Byte) : List (Nat × Nat × Nat) :=
  let d := dimsOf b
  let w := if bits (fieldOf b 0x18 8) 4 4 = 0 then d.1 else 2 ^ bits (fieldOf b 0x18 8) 4 4
  (upTo d.2.2).flatMap fun z => (upTo ((d.1 + w - 1) / w)).flatMap fun i =>
    (panelWalk (bits (fieldOf b 0x18 8) 0 2) (Nat.min w (d.1 - i * w)) d.2.1).map fun q => (i * w + q.1, q.2, z)

/-- GRPS of a unit (R11, R137). -/
def grpsWord (gs : List Nat) : Nat :=
  ((upTo gs.length).zip gs).foldl (fun v p => v + p.2 * 2 ^ (8 * p.1)) ((2 ^ gs.length - 1) * 2 ^ 32)

/-- Make one unit, the `k`-th of the order (R134, R135). Where the continuation area has no record for it, it has none in memory (log entry 125,
DESIGN CHOICE). -/
def addUnit (s : State) (l : Launch) (b : List Byte) (gs : List Nat) (k : Nat) (q : Nat × Nat × Nat) : State :=
  let sp := spoolsOf s l.part
  let d := dimsOf b
  let pc : W64 := BitVec.ofNat 64 (fieldOf b 0 8)
  let t := { Thread.make s.nextTid 0 0 0 l.pid with
    state := .ready, pc := pc, npc := pc, home := false, part := l.part, lnch := l.h
    unitid := BitVec.ofNat 32 (q.1 + d.1 * (q.2.1 + d.2.1 * q.2.2))
    unitidx := BitVec.ofNat 64 (q.1 + q.2.1 * 2 ^ 16 + q.2.2 * 2 ^ 32)
    grps := BitVec.ofNat 64 (grpsWord gs), key := l.prio, prio := l.prio, pclass := l.pclass, recd := freeRecord s l.pid
    img := some (contextImage s l.pid [BitVec.ofNat 64 (fieldOf b 8 8), l.lpb]) }
  enqueue (addThread s t) t.tid (.spool (sp.getD (k % sp.length) 0))

/-- A launch is accepted: its counts and its units (R134 to R137, R145, R168), and its layout (R133), with which the cores of the partition load
their tables (R122); where the context is switched out, they have them when it is back. -/
def acceptLaunch (s : State) (l0 : Launch) (pid : BitVec 16) (b : List Byte) : State :=
  let cls := fieldOf b 0x40 8
  let pword : W64 := BitVec.ofNat 64 (fieldOf b 0x20 8)
  let stmpl : BitVec 128 := BitVec.ofNat 128 (fieldOf b 0x28 16)
  let tab := groupTable s pid b
  let units := (traversal b).map fun q => (q, unitGroups s pid (dimsOf b) tab (q.1 + (dimsOf b).1 * (q.2.1 + (dimsOf b).2.1 * q.2.2)))
  let counts := units.foldl (fun c u => u.2.foldl (fun c g => countMod c g (· + 1)) c) []
  let l : Launch :=
    { l0 with
      pid := pid, state := 1, live := unitCount b, cnt := counts, liv := counts, prio := bits cls 0 4, pclass := bits cls 4 2
      spl := bits cls 28 4, pword := pword, stmpl := stmpl }
  let s1 := writeStatus (s.modLaunch l.h fun _ => l) l 1
  let fresh := l.pclass != 0 && !((s.part l.part).layouts.any fun x => x.1 == pid)
  let s2 := if fresh then s1.modPart l.part fun p => { p with layouts := p.layouts ++ [(pid, pword, stmpl)] } else s1
  let held := (s.part l.part).holder
  let s3 :=
    if l.pclass = 0 then s2
    else if held = none ∨ held = some pid then setLayout s2 l.part pword stmpl
    else { s2 with saved := s2.saved.map fun x =>
      if x.part = l.part ∧ x.pid = some pid then { x with cores := x.cores.map fun c => (c.1, { c.2 with pword := pword, table := stmpl }) } else x }
  (upTo units.length).zip units |>.foldl (fun s u => addUnit s l b u.2.2 u.1 u.2.1) s3

/-- A launch that fails its check returns its entries, and STATUS says why (R132, R169). -/
def rejectLaunch (s : State) (l : Launch) (reason : Nat) : State :=
  let np := b2n l.firstOfParent + l.resvOfParent + l.succOfParent
  let s1 := { s with launches := s.launches.filter fun x => x.h ≠ l.h }
  writeStatus (giveBack s1 l.part l.parent np (1 + l.resv + l.succ - np)) l (4 + reason * 2 ^ 8)

/-- Check a launch whole and accept or reject it (R132, R171). -/
def checkLaunch (s : State) (l : Launch) : State :=
  if badRange s l.fromPid l.lpb 256 256 then rejectLaunch s l 1
  else
    match ctxRead s l.fromPid l.lpb.toNat 256 with
    | .error _ => rejectLaunch s l 1
    | .ok b =>
      let pid := if l.dieK then BitVec.ofNat 16 (bits (fieldOf b 0x40 8) 40 16) else l.fromPid
      let r := rejectReason s l pid b
      if r = 0 then acceptLaunch s l pid b else rejectLaunch s l r

/-! ### Completion (R144) -/

/-- Launch a successor: its first entry is one kept for it, the rest come from the free pool, or it waits for them (R143). Its block is reached
under the translation of the units' context (R171). An entry kept for a successor goes back, when its first unit dispatches, to where it was drawn from: the
parent of the launch that has completed, or the free pool (log entry 118, DESIGN CHOICE). -/
def launchSuccessor (s : State) (h : Nat) (lpb : W64) : State :=
  match s.launch? h with
  | none => s
  | some l =>
    let need := blockNeed (ctxNat s l.pid (lpb.toNat + 0x40) 8) (ctxNat s l.pid (lpb.toNat + 0x48) 8)
    let lpid := if l.dieK then some l.pid else none
    let a := b2n (decide (0 < l.succOfParent))
    let s1 := s.modLaunch h fun l => { l with succ := l.succ - 1, succOfParent := l.succOfParent - a }
    let s2 := ctxPut s1 l.pid (lpb.toNat + 0xF8) 8 0
    match takeEntries s2 l.part none (need.1 + need.2) with
    | some (s3, _) =>
      let r := addLaunch s3 lpb l.pid lpid l.part l.dieK l.parent need.1 need.2 a
      match r.1.launch? r.2 with
      | some x => checkLaunch r.1 x
      | none => r.1
    | none =>
      let r := addLaunch s2 lpb l.pid lpid l.part l.dieK l.parent 0 0 a
      r.1.modPart l.part fun p => { p with
        waiters := p.waiters ++ [{ isLaunch := true, id := r.2, need := need.1 + need.2, ofParent := 0, free := 0 }] }

/-- A launch completes (R144): its successors are launched, its entries are free, STATUS is 3, and its layout may lapse (R133). Its block is still known while a
thread of it lives (R172). -/
def completeLaunch (s : State) (l0 : Launch) : State :=
  let arm := ctxNat s l0.fromPid (addrOf l0.lpb + 0x90) 8
  let n := Nat.min (ctxNat s l0.fromPid (addrOf l0.lpb + 0x48) 8 % 16) 8
  let s1 := (upTo n).foldl (fun s i =>
    let w := ctxNat s l0.fromPid (addrOf l0.lpb + 0x50 + 8 * i) 8
    if bitAt w 63 || bitAt arm (bits w 57 6) then launchSuccessor s l0.h (BitVec.ofNat 64 (bits w 0 57)) else s) (firstDispatch s l0.h)
  match s1.launch? l0.h with
  | none => s1
  | some l =>
    let np := Nat.min l.resv l.resvOfParent + l.succOfParent
    let alive (h : Nat) : Bool := s1.allThreads.any fun t => t.lnch == h
    let s2 := { s1 with
      launches := (s1.launches.filter fun x => x.h ≠ l.h).map fun x => if x.parent = some l.h then { x with parent := none } else x
      ended := (if alive l.h then [(l.h, l.lpb, l.fromPid)] else []) ++ s1.ended.filter fun e => alive e.1 }
    let s3 := writeStatus (giveBack s2 l.part l.parent np (l.resv + l.succ - np)) l 3
    if s3.launches.any fun x => x.pid == l.pid && x.part == l.part && x.pclass != 0 && 1 ≤ x.state then s3
    else s3.modPart l.part fun p => { p with layouts := p.layouts.filter fun x => x.1 ≠ l.pid }

/-- The waiters of a partition that have all they need go on (R143, R170). -/
def wakePool (s : State) (part : Nat) : State :=
  ((s.part part).waiters.filter fun w => decide (w.need ≤ w.ofParent + w.free)).foldl (fun s w =>
    if w.isLaunch then
      let s1 := s.modPart part fun p => { p with waiters := p.waiters.filter fun x => !(x.isLaunch && x.id == w.id) }
      match s1.launch? w.id with
      | none => s1
      | some l =>
        let need := blockNeed (ctxNat s l.fromPid (l.lpb.toNat + 0x40) 8) (ctxNat s l.fromPid (l.lpb.toNat + 0x48) 8)
        let r := Nat.min need.1 w.need
        (s1.modLaunch l.h fun l => { l with resv := r, succ := w.need - r }).later [.launchCheck l.h]
    else wakeThread s w.id) s

/-- LAUNCH (R143, R169, R171). -/
def execLaunch (p : BitVec 3) (b : BitVec 5) (o : BitVec 11) (g : BitVec 4) (s : State) : Result :=
  .next (guarded g s fun s => launchBlock s (plusOff (rX s b) o.toNat 11 256) (some p))

/-- LAUNCH_LONG (R143, R169, R171). -/
def execLaunchLong (p : BitVec 3) (b : BitVec 5) (ext : W32) (g : BitVec 4) (s : State) : Result :=
  .next (guarded g s fun s => launchBlock s (rX s b + extS ext) (some p))

/-- LAUNCHW (R143, R170, R171). -/
def execLaunchw (b : BitVec 5) (o : BitVec 11) (g : BitVec 4) (s : State) : Result :=
  .next (guarded g s fun s => launchBlock s (plusOff (rX s b) o.toNat 11 256) none)

/-- LAUNCH_CHECK (R132 to R137). -/
def execLaunchCheck (h : Nat) (s : State) : Result :=
  match s.launch? h with
  | none => .next s
  | some l => .next (if l.state = 0 then checkLaunch s l else s)

/-- LAUNCH_COMPLETION (R144). -/
def execLaunchCompletion (h : Nat) (s : State) : Result :=
  match s.launch? h with
  | none => .next s
  | some l => .next (if l.live = 0 ∧ l.state ≠ 0 then completeLaunch s l else s)

/-- LAUNCHW_WAKE (R143, R157, R170). -/
def execLaunchwWake (part : Nat) (s : State) : Result :=
  .next (wakePool s part)

end Sys2Proof.Machine
end

