-- ==== Sys2Proof/Machine/Engines.lean ====
section
/-!
DEFINITION. What the asynchronous engines share: command fields (R305), the ranges and translations of an engine access (R195,
R276, R284), engine writes and the watch of a core (R291, R304), completion records (R270, R311, R338), faults (R336), and what
starts an engine's next command (R269).
-/
namespace Sys2Proof.Machine

/-! ### Commands -/

/-- A field of a command: `n` bytes at an offset (R305). -/
def Cmd.field (c : Cmd) (off n : Nat) : Nat := bits c.words (8 * off) (8 * n)
/-- A pointer field. -/
def Cmd.ptr (c : Cmd) (off : Nat) : W64 := BitVec.ofNat 64 (c.field off 8)
/-- TAG. -/
def Cmd.tag (c : Cmd) : Nat := bits c.words 48 16
/-- What tells a command from the others of its thread: SEQ counts for each slot (R295), and a thread may push from several. -/
def Cmd.key (c : Cmd) : Nat := c.seq * 16 + c.slot
/-- Are two commands of a core the same one. -/
def Cmd.same (a b : Cmd) : Bool := a.tid == b.tid && a.key == b.key
/-- KIND of an MXU command, MKIND of a Measure command. -/
def Cmd.kind (c : Cmd) : Nat := bits c.words 44 4

/-- Statuses (R312). -/
def stKIND : Nat := 0x01
/-- RESV. -/
def stRESV : Nat := 0x02
/-- DEST. -/
def stDEST : Nat := 0x03
/-- SHAPE. -/
def stSHAPE : Nat := 0x04
/-- FORMAT. -/
def stFORMAT : Nat := 0x05
/-- SIZE. -/
def stSIZE : Nat := 0x06
/-- RESTART. -/
def stRESTART : Nat := 0x07
/-- ACCRANGE. -/
def stACCRANGE : Nat := 0x08
/-- ADDR. -/
def stADDR : Nat := 0x09
/-- ALIGN. -/
def stALIGN : Nat := 0x0A
/-- PROT. -/
def stPROT : Nat := 0x0B
/-- HANDLER. -/
def stHANDLER : Nat := 0x0C
/-- NOSLOT of an MXU command. -/
def stNOSLOT : Nat := 0x0D
/-- STREAM. -/
def stSTREAM : Nat := 0x0E
/-- CANCELLED. -/
def stCANCELLED : Nat := 0x10
/-- REVOKED. -/
def stREVOKED : Nat := 0x11
/-- PAGE. -/
def stPAGE : Nat := 0x12
/-- POISON. -/
def stPOISON : Nat := 0x13
/-- BARRIER. -/
def stBARRIER : Nat := 0x14
/-- NOSLOT of a copy. -/
def stNOHANDLER : Nat := 0x15

/-- A check that failed: the status and the first offending pointer. -/
structure Reject where
  status : Nat
  faddr : W64
  deriving DecidableEq, Repr

/-- A check by its condition. -/
def rejectIf (c : Bool) (status : Nat) : Option Reject := if c then some { status := status, faddr := 0 } else none
/-- The first check that failed. -/
def firstReject : List (Option Reject) → Option Reject
  | [] => none
  | some r :: _ => some r
  | none :: rest => firstReject rest

/-! ### Engine accesses -/

/-- The thread an engine works for, as its pushing bundle was: for the checks of its pointers and the events it causes. -/
def engineThread (s : State) (c : Cmd) (core : Nat) : Thread :=
  match s.thread? c.tid with
  | some t => { t with core := core, slot := c.slot, priv := c.level, pid := c.pid, pc := c.pc, unitid := c.unitid }
  | none => { Thread.make c.tid core c.slot c.level c.pid with part := (partOfCore s core).getD 0, pc := c.pc, unitid := c.unitid }

/-- May a core's pool be reached for the context from another core (R198). -/
def coreHeld (s : State) (t : Thread) (core : Nat) : Bool :=
  (partOfCore s core).isSome && partOfCore s core == partOfCore s t.core && !fenced s core && holderOf s core == some t.pid

/-- The kinds, levels and regions of an engine access: the scratchpad, and accumulator storage for the MXU alone (R195, R196, R198). -/
def engineAllowed (s : State) (t : Thread) (mxu store : Bool) (p : W64) (n : Nat) : Bool :=
  let a := addrOf p
  let inside (r : Regions) (o : Nat) : Bool := within o n r.spLo r.spHi || (mxu && within o n r.acLo r.acHi)
  match pathOf p with
  | 0 => true
  | 1 => !store
  | 2 => inside (ownRegions s t) a
  | 3 => coreHeld s t (a / 2 ^ 20) && inside (farRegions s t (a / 2 ^ 20)) (a % 2 ^ 20)
  | 4 => true
  | 5 => decide (1 ≤ t.priv) && !store
  | 6 => decide (1 ≤ t.priv) && !store
  | 7 => !store
  | _ => false

/-- Does a range break R12 or R197. -/
def badSpan (s : State) (t : Thread) (p : W64) (n : Nat) : Bool :=
  badAddr s t p n ||
    (match pathOf p with
      | 2 => decide (0xC0000 < addrOf p + n)
      | 3 => decide (0xC0000 < addrOf p % 2 ^ 20 + n)
      | 7 => decide (0x4000000 < addrOf p + n)
      | _ => decide (2 ^ 57 < addrOf p + n))

/-- The first range that breaks R12 or R197: status ADDR. -/
def addrReject (s : State) (t : Thread) (l : List (W64 × Nat)) : Option Reject :=
  (l.find? fun r => badSpan s t r.1 r.2).map fun r => { status := stADDR, faddr := r.1 }
/-- The first pointer that is not a multiple of a size: status ALIGN. -/
def alignReject (n : Nat) (l : List W64) : Option Reject :=
  (l.find? fun p => p.toNat % n != 0).map fun p => { status := stALIGN, faddr := p }
/-- The first range that is refused: status PROT. -/
def protReject (s : State) (t : Thread) (mxu store : Bool) (paths : List Nat) (l : List (W64 × Nat)) : Option Reject :=
  (l.find? fun r => !paths.contains (pathOf r.1) || !engineAllowed s t mxu store r.1 r.2).map fun r =>
    { status := stPROT, faddr := r.1 }

/-- What stops an engine access: the cause, the pointer, and the state with what the walks so far have left behind. -/
abbrev EngineStop := Nat × W64 × State

/-- The place of an engine access within one page, with the translation that its station caches and the bits A and D (R204, R207, R276); or
what stops the command. -/
def engineLoc (s : State) (t : Thread) (store : Bool) (p : W64) : Except EngineStop (Loc × State) :=
  let a := addrOf p
  match pathOf p with
  | 2 => .ok (.pool (poolKey t.core a), s)
  | 3 => .ok (.pool a, s)
  | 5 => .ok (.sys a, s)
  | 6 =>
    match logLoc s t a with
    | .ok l => .ok (l, s)
    | _ => .error (cREVOKED, p, s)
  | 7 => .ok (.meas (tenantOf t.pid) a, s)
  | path =>
    match threadPlace s t (if store then .store else .load) path a with
    | (s1, .ok l) => .ok (l, s1)
    | (s1, .error c) => .error (c, p, s1)

/-- A range cut at page ends; `f` bounds the parts. -/
def pageSpans : Nat → W64 → Nat → List (W64 × Nat)
  | 0, _, _ => []
  | f + 1, p, n =>
    if n = 0 then []
    else
      let c := Nat.min n (4096 - p.toNat % 4096)
      (p, c) :: pageSpans f (p + BitVec.ofNat 64 c) (n - c)

/-- The places of the parts of a range, or what stops the first that does not translate. -/
def engineLocs (t : Thread) (store : Bool) : List (W64 × Nat) → State → Except EngineStop (List (Loc × Nat) × State)
  | [], s => .ok ([], s)
  | (p, n) :: rest, s =>
    match engineLoc s t store p with
    | .error f => .error f
    | .ok (l, s1) =>
      match engineLocs t store rest s1 with
      | .error f => .error f
      | .ok (ls, s2) => .ok ((l, n) :: ls, s2)

/-- The places of a range. -/
def enginePlaces (s : State) (t : Thread) (store : Bool) (p : W64) (n : Nat) : Except EngineStop (List (Loc × Nat) × State) :=
  engineLocs t store (pageSpans (n / 4096 + 2) p n) s

/-- An engine on a die reads a range; poisoned data, of its place or of a flit on the way, stops its command (R399, R400), and a read of a revoked
frame is counted (R210). -/
def engineRead (s : State) (t : Thread) (die : Nat) (p : W64) (n : Nat) : Except EngineStop (List Byte × State) :=
  match enginePlaces s t false p n with
  | .error f => .error f
  | .ok (ls, s0) =>
    let (flit, s1) := takeUpset (if ls.any fun l => l.1 == .dropped then errCount s0 (dieOf t.core) 0x58 else s0) fun u =>
      if u = .flit then some () else none
    if flit.isSome || ls.any fun l => poisonedLoc s1 l.1 l.2 || cutOff s1 die l.1 then .error (cPOISON, p, s1)
    else .ok (ls.flatMap fun l => readLoc s1 l.1 l.2, s1)

/-- Read several ranges. -/
def engineReads (t : Thread) : List (W64 × Nat) → State → Except EngineStop (List (List Byte) × State)
  | [], s => .ok ([], s)
  | (p, n) :: rest, s =>
    match engineRead s t (dieOf t.core) p n with
    | .error f => .error f
    | .ok (b, s1) =>
      match engineReads t rest s1 with
      | .error f => .error f
      | .ok (bs, s2) => .ok (b :: bs, s2)

/-! ### Engine writes and the watch (R291, R304) -/

/-- Bytes that two ranges share. -/
def shared (a n b m : Nat) : Nat := Nat.min (a + n) (b + m) - Nat.max a b

/-- The watch of a core fires: its sampling thread starts (R291). -/
def wakeSampler (s : State) (core : Nat) (w : Watch) : State :=
  startHandler (s.modCore core fun c => { c with watch := none, watchBusy := true }) core .sampling w.pid w.unitid w.pc
    [locPtr w.start, BitVec.ofNat 64 w.need, w.arg]

/-- Does a WORLD switch of the watch's context keep its sampling thread from starting: it starts after the restore (R341, R381). -/
def watchFrozen (s : State) (core : Nat) (w : Watch) : Bool :=
  match partOfCore s core with
  | some p => (s.part p).worldPhase != 0 && (s.part p).holder == some w.pid
  | none => false

/-- An engine has written `n` bytes at an offset of a core's pool: the watch counts those of its range, and with its count reached
the sampling thread starts. -/
def watchWrite (s : State) (core off n : Nat) : State :=
  match (s.core core).watch with
  | none => s
  | some w =>
    let k := shared off n w.start w.len
    if k = 0 then s
    else if w.count + k < w.need || watchFrozen s core w then
      s.modCore core fun c => { c with watch := some { w with count := w.count + k } }
    else wakeSampler s core w

/-- An engine writes bytes to places. -/
def engineStore (die : Nat) : List (Loc × Nat) → List Byte → State → State
  | [], _, s => s
  | (l, n) :: rest, bs, s =>
    let s1 := writeLoc s none l (bs.take n) 0 die
    engineStore die rest (bs.drop n)
      (match l with
        | .pool k => watchWrite s1 (k / 2 ^ 20) (k % 2 ^ 20) n
        | _ => s1)

/-- A command writes from an engine on a die what it has made. Bytes whose way is cut may land or not, and the fault service is told, with the command's SEQ (R333, R391). -/
def engineWrite (s : State) (die core : Nat) (c : Cmd) (p : W64) (ls : List (Loc × Nat)) (bs : List Byte) : State :=
  if ls.any fun l => cutOff s die l.1 then
    let s1 := if Config.unansweredStorePerformed s.freeNext then engineStore (dieOf core) ls bs s else s
    ({ s1 with freeNext := s1.freeNext + 1 } : State).later [.faultNotification c.pid c.recd (stopWord cPOISON 4 (pathOf p) core c.slot) p (BitVec.ofNat 64 c.seq)]
  else engineStore (dieOf core) ls bs s

/-! ### The bytes of one step, moved in parts (R220) -/

/-- Bytes for a place cut into the steps in which an engine writes them, each of aligned 4 bytes or a part of them (R220). -/
def inFours : Nat → Loc → List Byte → List (Loc × List Byte)
  | 0, _, _ => []
  | f + 1, l, bs =>
    let step (a : Nat) (at' : Nat → Loc) : List (Loc × List Byte) :=
      let n := 4 - a % 4
      (l, bs.take n) :: inFours f (at' (a + n)) (bs.drop n)
    if bs.isEmpty then []
    else
      match l with
      | .mem a => step a .mem
      | .pool a => step a .pool
      | l => [(l, bs)]

/-- Cut bytes to a list of places, in the steps in which they are written. -/
def cutTo : List (Loc × Nat) → List Byte → List (Loc × List Byte)
  | [], _ => []
  | (l, n) :: rest, bs => inFours (n + 1) l (bs.take n) ++ cutTo rest (bs.drop n)

/-- The aligned 4 bytes that hold each byte of some ranges: the range, and their number in it. -/
def foursOf (parts : List (W64 × Nat)) : List (Nat × Nat) :=
  ((upTo parts.length).zip parts).flatMap fun x => (upTo x.2.2).map fun j => (x.1, (x.2.1.toNat + j) / 4)

/-- What a step reads, where some bytes of it have been read before. -/
def withGot : List (Option Byte) → List Byte → List Byte
  | g :: gs, b :: bs => g.getD b :: withGot gs bs
  | _, bs => bs

/-- The same for several ranges. -/
def withGots : List (Option Byte) → List (List Byte) → List (List Byte)
  | _, [] => []
  | got, b :: rest => withGot got b :: withGots (got.drop b.length) rest

/-- One aligned 4 bytes of what a step reads, those of byte `k`, are read now and not again. -/
def gotFour (got : List (Option Byte)) (fours : List (Nat × Nat)) (bs : List Byte) (k : Nat) : List (Option Byte) :=
  let at' := fours.getD (k % fours.length) (0, 0)
  ((got ++ List.replicate (bs.length - got.length) none).zip (fours.zip bs)).map fun (x : Option Byte × (Nat × Nat) × Byte) =>
    if x.1.isNone && x.2.1 == at' then some x.2.2 else x.1

/-- A command of an engine has read one aligned 4 bytes of its next read, `bs`, ahead of the rest. -/
def Cmd.gets (c : Cmd) (parts : List (W64 × Nat)) (bs : List Byte) (k : Nat) : Cmd := { c with got := gotFour c.got (foursOf parts) bs k }
/-- It has made the read. -/
def Cmd.hasRead (c : Cmd) : Cmd := { c with got := [] }

/-- Put a command that was taken back in front of its queue: its step has still to be made. -/
def putBack (s : State) (core : Nat) (c : Cmd) : State := s.modCore core fun x => { x with cmds := c :: x.cmds }

/-- A write under way goes on: one part of those left is written, where the hardware takes them apart, or else all of them. -/
def writeOn (s : State) (die : Nat) (w : Writing) : State × Writing :=
  let put (s : State) (p : Loc × List Byte) (done : List (Loc × Nat)) : State :=
    coverPoison (engineStore die [(p.1, p.2.length)] p.2 s) p.1 p.2.length done
  match s.ahead, w.left with
  | .write k :: rest, p0 :: _ =>
    let i := k % w.left.length
    let p := w.left.getD i p0
    (put { s with ahead := rest } p w.done, { left := w.left.eraseIdx i, done := (p.1, p.2.length) :: w.done })
  | _, _ =>
    let r := w.left.foldl (fun r p => (put r.1 p r.2, (p.1, p.2.length) :: r.2)) (s, w.done)
    (r.1, { left := [], done := r.2 })

/-! ### Records -/

/-- ST of a dispatch entry for a record's status (R335, R336). -/
def ringState (status : Nat) : Nat :=
  if status = 0 then 2 else if status = stPAGE ∨ status = stPOISON then 3 else if status = stCANCELLED then 4 else 5

/-- Does the command suppress its record (R309, R387). -/
def suppressed (c : Cmd) : Bool := (c.q == 2 && bitAt c.words 31) || (c.q == 4 && bitAt c.words 26)

/-- Groups of a command's pusher. -/
def cmdGroups (c : Cmd) : List Nat := ((upTo 4).filter fun i => bitAt c.grps.toNat (32 + i)).map fun i => bits c.grps.toNat (8 * i) 8

/-- One entry of the engine flag table (R338). -/
def flagEntry (f : Flags) (s : State) (a : Nat) : State :=
  let v := s.hbm.readNat a 8
  { s with
    hbm := s.hbm.writeNat a 8 (Nat.min (v / 2 ^ 32 + 1) (2 ^ 32 - 1) * 2 ^ 32 + (v % 2 ^ 32 ||| f.toNat))
    hbmPoison := unpoison s.hbmPoison a 8 }

/-- The flags of a command go to its context's engine flag table (R338). -/
def flagTable (s : State) (c : Cmd) (f : Flags) : State :=
  let p := sysQ s (svcAt c.pid + 0x18)
  if f = 0 ∨ p = 0 then s else ((cmdGroups c ++ [256]).map fun g => p + 8 * g).foldl (flagEntry f) s

/-- The words of a record (R311). -/
def recordWords (c : Cmd) (eng status : Nat) (flags : Flags) (prog ts : Nat) (faddr : W64) : Nat :=
  let kind := if eng = 0 then c.kind else 0
  c.tag * 2 ^ 48 + eng * 2 ^ 44 + kind * 2 ^ 40 + status * 2 ^ 32 + flags.toNat * 2 ^ 16 + c.seq * 2 ^ 64 + prog * 2 ^ 128 +
    ts * 2 ^ 192 + faddr.toNat * 2 ^ 256

/-- A copy counts no longer as unfinished: it leaves its thread's unsealed copies or its batch (R286). -/
def batchOver (t : Thread) (c : Cmd) : Thread :=
  { t with
    unsealed := t.unsealed.filter (· ≠ c.key)
    batches := (t.batches.map fun b => { b with open' := b.open'.filter (· ≠ c.key) }).filter fun b => !b.open'.isEmpty }

/-- What a completion changes in its thread: the dispatch ring (R335), its unsealed copies and batches (R286), and a stream whose
copy was rejected or ended early (R301). -/
def completed (t : Thread) (c : Cmd) (status : Nat) : Thread :=
  { batchOver t c with
    dispatch := t.dispatch.map fun e => if e.seq = c.seq ∧ e.slot = c.slot then { e with st := ringState status, status := status } else e
    streams := if 1 ≤ status ∧ status ≤ stPOISON then t.streams.filter fun x => x.bound != some c.key else t.streams }

/-- A command's end: its record is delivered, unless it is suppressed and all went well (R269, R270, R311). Records of a thread
that has ended are discarded (R360). -/
def deliver (s : State) (core : Nat) (c : Cmd) (eng status : Nat) (flags : Flags) (prog : Nat) (faddr : W64) : State :=
  let s1 := flagTable s c flags
  match s1.thread? c.tid with
  | none => s1
  | some _ =>
    let s2 := if suppressed c && status == 0 then s1 else
      s1.modCore core fun x => { x with
        records := x.records ++ [{ q := c.q + 1, tid := c.tid, words := recordWords c eng status flags prog (tsOf s core) faddr }] }
    s2.modThread c.tid fun t => completed t c status

/-- The fault service is told of a stopped command (R333, R336). -/
def notifyEngine (s : State) (core : Nat) (c : Cmd) (cause : Nat) (p : W64) : State :=
  s.later [.faultNotification c.pid c.recd (stopWord cause 4 (pathOf p) core c.slot) p (BitVec.ofNat 64 c.seq)]

/-- RSTEP. -/
def mxRstep (w : Nat) : Nat := bits w 24 8
/-- RROW. -/
def mxRrow (w : Nat) : Nat := bits w 16 8
/-- PROG of the record of a command that has not begun: RSTEP and RROW of one of the MXU (R308, R311). -/
def queuedProg (c : Cmd) : Nat := if c.q = 0 ∧ c.kind ≠ 2 then mxRstep c.words * 2 ^ 24 + mxRrow c.words * 2 ^ 16 else 0

/-- Later commands of a thread on a queue that have not begun are ended with CANCELLED (R336). -/
def cancelLater (s : State) (core : Nat) (c : Cmd) : State :=
  let later (x : Cmd) : Bool := x.tid == c.tid && x.q == c.q
  let gone := (s.core core).cmds.filter later
  gone.foldl (fun s x => deliver s core x (x.q / 2) stCANCELLED 0 (queuedProg x) 0)
    (s.modCore core fun k => { k with cmds := k.cmds.filter fun x => !later x })

/-- The fault service ends a command with PAGE or POISON: its record, the thread's later commands of the queue, and ASYNC (R336). -/
def endByService (s : State) (core : Nat) (c : Cmd) (eng cause : Nat) (flags : Flags) (prog : Nat) (faddr : W64) : State :=
  let s1 := deliver s core c eng (if cause = cPAGE then stPAGE else stPOISON) flags prog faddr
  (cancelLater s1 core c).modThread c.tid fun t => { t with heldAsync := t.heldAsync ++ [BitVec.ofNat 64 c.seq] }

/-! ### The next command of a queue (R268, R269) -/

/-- Is a command held by a WORLD switch: one of its partition is under way, or another context holds the partition. Class-0 work is
not concerned (R341, R344, R348). -/
def frozen (s : State) (core : Nat) (c : Cmd) : Bool :=
  match partOfCore s core with
  | some p => !((s.thread? c.tid).any (isClass0 s)) && ((s.part p).worldPhase != 0 || (s.part p).holder != some c.pid)
  | none => false

/-- Is the release of a command's push made: the accesses that it follows have been performed (R231, R268). -/
def cmdReleased (s : State) (c : Cmd) : Bool := c.behind.all fun i => !(s.accesses.any fun a => a.id == i && !a.early)
/-- Is a command that heads its queue not to be taken yet: its push's release is not made, or a WORLD switch holds it. -/
def heldCmd (s : State) (core : Nat) (c : Cmd) : Bool := !cmdReleased s c || frozen s core c

/-- Add a step unless it is pending already. -/
def State.once (s : State) (e : Event) : State := if s.agenda.contains e then s else s.later [e]

/-- The oldest command of a queue. -/
def headCmd (s : State) (core q : Nat) : Option Cmd := (s.core core).cmds.find? fun c => c.q == q
/-- Take the oldest command of a queue out of it. -/
def takeCmd (s : State) (core q : Nat) : State := s.modCore core fun c => { c with cmds := eraseFirst (fun x => x.q == q) c.cmds }

/-- TYPE of an MXU command. -/
def mxType (w : Nat) : Nat := bits w 41 3
/-- SHAPE. -/
def mxShape (w : Nat) : Nat := bits w 36 5
/-- M (R275). -/
def mxM (w : Nat) : Nat := if mxShape w < 16 then 16 * 2 ^ (mxShape w / 4) else 16
/-- N. -/
def mxN (w : Nat) : Nat := if mxShape w < 16 then 16 * 2 ^ (mxShape w % 4) else 16
/-- Kb. -/
def mxKb (w : Nat) : Nat := match mxType w with
  | 5 => 16
  | 6 => 16
  | 7 => 64
  | _ => 32
/-- Steps of a command: none for a DRAIN (R275, R308). -/
def mxSteps (c : Cmd) : Nat :=
  if c.kind ≠ 0 then 0
  else if mxShape c.words < 16 then mxM c.words * mxN c.words / 256
  else 2 ^ (mxShape c.words - 15)

/-- Has the core's MXU finished the steps it has accepted, with no command stopped or being ended by the fault service: then it
accepts the next (R269, R272, R280, R336). -/
def mxuReady (s : State) (core : Nat) : Bool :=
  (s.core core).mxu.all fun r =>
    (r.status != 0 || decide (mxSteps r.cmd ≤ r.step)) && r.stopped.isNone && r.status != stPAGE && r.status != stPOISON

/-- The MXU turns to the core's next command. -/
def mxuKick (s : State) (core : Nat) : State :=
  match headCmd s core 0 with
  | none => s
  | some c =>
    if mxuReady s core then s.once (if c.kind = 1 then .mxuDrain core else if c.kind = 2 then .mxuCtx core else .mxuTile core) else s

/-- The step of the oldest Measure command (R322): one of an unknown kind is refused by OBJ's step. -/
def measureKick (s : State) (core : Nat) : State :=
  match headCmd s core 6 with
  | none => s
  | some c => s.once (match c.kind with
    | 1 => .load core
    | 2 => .detach core
    | 3 => .arm core
    | 4 => .clear core
    | 5 => .snap core
    | 6 => .free core
    | _ => .obj core)

/-- The engine of a queue turns to what the queue holds. -/
def engineKick (s : State) (core q : Nat) : State :=
  match q with
  | 0 => mxuKick s core
  | 2 => s.once (.copy core)
  | 4 => s.once (.colsum core)
  | _ => measureKick s core

/-- The engines turn to the heads of their queues whose pushes had to wait for earlier accesses and are released now (R268). -/
def kickReleased (s : State) : State :=
  (s.cores.flatMap fun c => ([0, 2, 4, 6].filter fun q => (headCmd s c.1 q).any fun x => !x.behind.isEmpty && cmdReleased s x).map fun q =>
    (c.1, q)).foldl (fun s k => engineKick s k.1 k.2) s

/-! ### The shape of a copy (R283, R309, R310) -/

/-- SFMT. -/
def cpSfmt (c : Cmd) : Nat := bits c.words 40 4
/-- DFMT; 8 is BF16×3. -/
def cpDfmt (c : Cmd) : Nat := bits c.words 36 4
/-- SIZE. -/
def cpSize (c : Cmd) : Nat := c.field 0x20 4
/-- Bytes of an element of a format; of one plane for BF16×3. -/
def fmtBytes (f : Nat) : Nat := match f with
  | 0 => 4
  | 1 => 2
  | 2 => 2
  | 7 => 4
  | 8 => 2
  | _ => 1
/-- The destination offsets at which the planes of a copy start. -/
def cpPlanes (c : Cmd) : List Nat := if cpDfmt c = 8 then [0, c.field 0x24 4, 2 * c.field 0x24 4] else [0]
/-- The destination bytes, as offset and length, that source bytes `lo` to `hi` fill. -/
def cpSpans (c : Cmd) (lo hi : Nat) : List (Nat × Nat) :=
  let u (n : Nat) : Nat := n * fmtBytes (cpDfmt c) / fmtBytes (cpSfmt c)
  (cpPlanes c).map fun o => (o + u lo, u hi - u lo)
/-- The bytes that a copy writes at a destination: SIZE by the ratio of the element sizes, three planes of them for BF16×3 (R310). -/
def cpDestSize (c : Cmd) : Nat := ((cpSpans c 0 (cpSize c)).map (·.2)).sum
/-- The destination's bytes from its start to its end, the gaps between planes among them (log entry 25, DEDUCED). -/
def cpExtent (c : Cmd) : Nat := ((cpSpans c 0 (cpSize c)).map fun x => x.1 + x.2).foldl Nat.max 0

end Sys2Proof.Machine
end

