-- ==== Sys2Proof/Machine/Queue.lean ====
section
/-!
DEFINITION. Queue registers: pushing, popping, waits, batches, streams, grammar steps, the watch (10 R232; 14 R267 to R271, R286, R287, R291 to R293; 15 R294 to R304, R313).
-/
namespace Sys2Proof.Machine

/-! ### Pushing and popping (R295 to R297) -/

/-- QPUSH, QPOP and QTRY are refused in slots 13 and 14 (R290, R294). -/
def queueAllowed (s : State) (k : State → State) : State :=
  match s.cur.handler with
  | some .row => trap s cPROT (bundleNow s)
  | some (.landing _) => trap s cPROT (bundleNow s)
  | _ => k s

/-- Depth of a command queue and of its completion queue (R267). -/
def queueDepth (q : Nat) : Nat := if q = 2 then 32 else if q = 6 then 8 else 16

/-- Is there a command entry and a completion entry to reserve (R269). -/
def queueHasRoom (s : State) (core q : Nat) : Bool :=
  decide (((s.core core).cmds.filter fun c => c.q == q).length < queueDepth q) &&
    decide (((liveCmds s core).filter fun c => c.q == q).length + ((s.core core).records.filter fun r => r.q == q + 1).length < queueDepth q)

/-- Does a command name a write destination (R294). -/
def namesDestination (q words : Nat) : Bool := q != 0 || decide (bits words 44 4 ≤ 1)

/-- The destination of a copy in its own core's pool, for a stream (R287). -/
def streamDest (s : State) (words : Nat) : Nat :=
  let p : W64 := BitVec.ofNat 64 (bits words 128 64)
  if pathOf p = 3 then addrOf p else poolKey s.cur.core (addrOf p)

/-- A QPUSH or QPOP waits at a queue, in its slot or suspended (R269, R270). -/
def queueStall (s : State) (q : Nat) (w : Wait) : State :=
  stall (s.modCur fun t => { t with queueWait := some (t.queueWait.getD (q, s.ts)) }) w

/-- A wait at a queue is over: the Measure engine may see it (R315, log entry 23, DEDUCED). -/
def tapStall (s : State) (q : Nat) : State :=
  match s.cur.queueWait with
  | some w => tapThread s s.cur 4 [q, s.ts - w.2, 0, 0]
  | none => s

/-- The command of a push enters its queue, in the order of issue and behind the accesses that its release follows, with the slot's next SEQ;
the thread keeps what it has to know of it (R268, R286, R295, R335, R372). A stream over planes with gaps counts its elements as if they lay end to
end (log entry 134, DESIGN CHOICE). -/
def pushCommand (s : State) (q words : Nat) : State :=
  let t := s.cur
  let n := (countGet (s.core t.core).slotSeq t.slot + 1) % 2 ^ 32
  let armed := if q = 2 then t.streams.find? fun x => x.bound.isNone else none
  let c : Cmd :=
    { q := q, tid := t.tid, pc := t.pc, recd := t.recd, pid := t.pid, level := t.priv, unitid := t.unitid, grps := t.grps, slot := t.slot
      seq := n, words := words, bind := armed.map (·.size), behind := unperformed s t.tid s.nextId }
  let e : RingEntry := { slot := t.slot, seq := n, tag := bits words 48 16, q := q, st := 1, status := 0 }
  let s1 := s.modCore t.core fun x => { x with cmds := x.cmds ++ [c], slotSeq := assocPut x.slotSeq t.slot n }
  let s2 := s1.modCur fun t =>
    { t with
      qpsh := t.qpsh + 1, dispatch := (t.dispatch.filter fun x => x.seq % 64 ≠ n % 64) ++ [e]
      unsealed := if q = 2 then t.unsealed ++ [c.key] else t.unsealed
      streams := if q = 2 then t.streams.map fun x =>
          if x.bound.isNone then { x with bound := some c.key, dst := streamDest s words, total := cpDestSize c, next := 0 } else x
        else t.streams }
  engineKick s2 t.core q

/-- QPUSH (R268, R269, R294, R295). -/
def qpush (s : State) (q : Nat) (k : BitVec 4) : State :=
  queueAllowed s fun s =>
    let words := leNat (getVBytes s k.toNat)
    if q % 2 = 1 then trap s cQUEUE (BitVec.ofNat 64 q)
    else
      let send (s : State) : State := unheld s true false fun s =>
        if !queueHasRoom s s.cur.core q then queueStall s q (.queueRoom q) else pushCommand (tapStall s q) q words
      if namesDestination q words then irreversible s (BitVec.ofNat 64 q) send else send s

/-- The thread's oldest record of a queue (R270). -/
def oldestRecord (s : State) (q : Nat) : Option Record :=
  (s.core s.cur.core).records.find? fun r => r.q == q && r.tid == s.cur.tid

/-- Take a record: vK holds it, its completion entry is free (R296). -/
def popRecord (s : State) (k : BitVec 4) (r : Record) : State :=
  let s1 := s.modCore s.cur.core fun c => { c with records := eraseFirst (fun x => x.q == r.q && x.tid == r.tid) c.records }
  putPoolBytes s1 (wsOf s1 + 0x400 + 0x40 * k.toNat) (leBytes 64 r.words)

/-- QPOP (R270, R296) and, with a predicate, QTRY (R297). -/
def qpop (s : State) (q : Nat) (k : BitVec 4) (p : Option (BitVec 3)) : State :=
  queueAllowed s fun s =>
    if q % 2 = 0 then trap s cQUEUE (BitVec.ofNat 64 q)
    else unheld s false false fun s =>
      match oldestRecord s q, p with
      | some r, none => popRecord (tapStall s q) k r
      | some r, some d => setP (popRecord (tapStall s q) k r) d.toNat true
      | none, some d => setP s d.toNat false
      | none, none => if outstanding s s.cur (q - 1) = 0 then trap s cQUEUE (BitVec.ofNat 64 q) else queueStall s q (.record q)

/-! ### Waits (R298 to R300) -/

/-- Is a count within a field of WAITC, where 31 is no limit. -/
def within31 (n limit : Nat) : Bool := limit == 31 || decide (n ≤ limit)
/-- A thread's load instructions still to land, and its stores and atomics still to be performed (R298). -/
def accessCounts (s : State) (tid : Nat) : Nat × Nat :=
  let own := ownAccesses s tid
  ((own.filter fun a => a.op.isLoad && !a.amo).length, (own.filter fun a => !a.op.isLoad && !a.early).length)
/-- Unfinished sealed batches, and 1 for copies not sealed and not complete. -/
def copyCount (t : Thread) : Nat := t.batches.length + b2n (!t.unsealed.isEmpty)
/-- Are the counts of engine work met: cp and tl. -/
def engineCountsMet (s : State) (t : Thread) (cp tl : Nat) : Bool := within31 (copyCount t) cp && within31 (outstanding s t 0) tl

/-- WAITC (R298). -/
def waitc (s : State) (ld st cp tl : Nat) : State :=
  let n := accessCounts s s.cur.tid
  if engineCountsMet s s.cur cp tl && within31 n.1 ld && within31 n.2 st then s else stall s (.counts ld st cp tl)

/-- BATCH (R286, R299). -/
def batch (s : State) (d : BitVec 5) : State :=
  if 16 ≤ s.cur.batches.length then stall s .batchRoom
  else
    let b := s.cur.bnext
    let s1 := s.modCur fun t =>
      { t with
        bnext := if b = 2 ^ 32 - 1 then 1 else b + 1, unsealed := []
        batches := if t.unsealed.isEmpty then t.batches else t.batches ++ [{ num := b, open' := t.unsealed }] }
    wX s1 d (BitVec.ofNat 64 b)

/-- WAITB (R300). -/
def waitb (s : State) (n : Nat) : State := if s.cur.batches.length ≤ n then s else stall s (.batches n)

/-! ### Stream registers (R287, R301, R302) -/

/-- SBIND. -/
def sbind (s : State) (n size : Nat) : State :=
  if s.cur.streams.any fun x => x.sreg == n || x.bound.isNone then trap s cQUEUE (BitVec.ofNat 64 n)
  else s.modCur fun t => { t with streams := t.streams ++ [{ sreg := n, size := size, bound := none, dst := 0, total := 0, next := 0 }] }

/-- Have the destination bytes of a copy, named by its key, from `lo` on landed: nothing of them is still to be read or still travels. -/
def landed (s : State) (core tid key lo n : Nat) : Bool :=
  if (s.core core).cmds.any fun c => c.q == 2 && c.tid == tid && c.key == key then false
  else
    match s.copies.find? fun r => r.core == core && r.cmd.tid == tid && r.cmd.key == key with
    | none => true
    | some r =>
      let open' := cpSpans r.cmd r.readTo (cpSize r.cmd) ++ r.packets.flatMap (·.spans)
      open'.all fun x => shared lo n x.1 x.2 == 0

/-- The next element of a stream register (R302): its bytes and whether one of them is poisoned, with the register advanced, or
unbound after the last. -/
def nextElement (s : State) (n : Nat) (wide : Bool) (k : State → Nat → Bool → State) : State :=
  unheld s false false fun s => match s.cur.streams.find? fun x => x.sreg == n with
  | none => trap s cQUEUE (BitVec.ofNat 64 n)
  | some x =>
    match x.bound with
    | none => trap s cQUEUE (BitVec.ofNat 64 n)
    | some key =>
      if (x.size == 64) != wide then trap s cQUEUE (BitVec.ofNat 64 n)
      else if !landed s s.cur.core s.cur.tid key (x.next * x.size) x.size then stall s (.element n)
      else
        let a := x.dst + x.next * x.size
        let last := decide (x.total ≤ (x.next + 1) * x.size)
        let s1 := s.modCur fun t => { t with
          streams := if last then t.streams.filter fun y => y.sreg ≠ n else
            t.streams.map fun y => if y.sreg = n then { y with next := y.next + 1 } else y }
        k s1 (s.pool.readNat a x.size) (poisonedLoc s (.pool a) x.size)

/-! ### GNEXT (R293, R303) -/

/-- One of GNEXT's reads, which is made at its issue, once no earlier store of the thread is still outstanding to its bytes: they, and whether
one is poisoned; where the way is cut, poisoned data (R391). -/
def loadNow (s : State) (p : W64) (n check : Nat) (k : State → Nat → Bool → State) : State :=
  withPlaces s .load check [] [p] fun s ls =>
    let l := ls.headD .dropped
    if notYet s [{ ptr := p, loc := l, n := n, data := [] }] then retry s
    else whenReachable s [l] fun s =>
      if cutOff s (dieOf s.cur.core) l then
        let r := freshValue s n
        k r.2 r.1 true
      else k s (leNat (readLoc s l n)) (poisonedLoc s l n)

/-- The results of a step of the automaton travel back as those of one load: its registers are pending until it lands (R71, R298, R303). -/
def grammarResult (s : State) (path : Nat) (d : BitVec 5) (k p : BitVec 3) (next : Nat) (dead acc nout poison : Bool) : State :=
  let dst : Dest := .fixed [(.x d.toNat, next), (.p k.toNat, b2n acc), (.p (k.toNat + 1), b2n nout), (.p p.toNat, b2n dead)]
  putInFlight s { newAccess s path .load [] dst 0 0 with early := true, poison := poison } (destRegs dst) .loadDataLands

/-- GNEXT. -/
def gnext (s : State) (d b c : BitVec 5) (p k : BitVec 3) : State :=
  let h := rX s b
  let st := (rX s d).toNat % 2 ^ 32
  let tok := (rX s c).toNat % 2 ^ 32
  if pathOf h ≠ 0 ∧ pathOf h ≠ 2 ∧ pathOf h ≠ 3 then trap s cADDR h
  else
    unheld s false false fun s =>
      loadNow s h 24 64 fun s hd bad =>
        let trans := bits hd 0 64
        let sinfo := bits hd 64 64
        let ns := bits hd 128 32
        let nt := bits hd 160 32
        let dead (s : State) (bad : Bool) : State := grammarResult s (pathOf h) d k p st true false false bad
        if ns ≤ st ∨ nt ≤ tok then dead s bad
        else
          loadNow s (BitVec.ofNat 64 (trans + 4 * (st * nt + tok))) 4 4 fun s w bad1 =>
            let next := bits w 0 24
            if !bitAt w 31 ∨ ns ≤ next then dead s (bad || bad1)
            else
              loadNow s (BitVec.ofNat 64 (sinfo + 4 * next)) 4 4 fun s i bad2 =>
                grammarResult s (pathOf h) d k p next false (bitAt i 0) (bitAt i 1) (bad || bad1 || bad2)

/-! ### WAKEON (R291, R304) -/

/-- Does the core's partition word enable slot 13, 14 or 15 (R125, R130). -/
def reservedOn (s : State) (core slot : Nat) : Bool := bitAt (s.core core).pword.toNat (32 + (slot - 13))

/-- WAKEON. -/
def wakeon (s : State) (a : BitVec 5) (p : BitVec 3) : State :=
  let x (i : Nat) : W64 := getX s (a.toNat + i)
  let off := addrOf (x 0)
  let len := bits (x 1).toNat 0 32
  let n := bits (x 1).toNat 32 32
  let r := ownRegions s s.cur
  let core := s.core s.cur.core
  if !reservedOn s s.cur.core 15 then trap s cPROT 15
  else if pathOf (x 0) ≠ 2 ∨ badAddr s s.cur (x 0) 1 ∨ len = 0 ∨ n = 0 then trap s cADDR (x 0)
  else if !within off len r.spLo r.spHi then trap s cPROT (x 0)
  else if bits (x 2).toNat 57 7 ≠ 0 then trap s cADDR (x 2)
  else if bits (x 2).toNat 0 3 ≠ 0 then trap s cALIGN (x 2)
  else if core.watch.isSome || core.watchBusy then setP s p.toNat true
  else
    let w : Watch :=
      { start := off, len := len, need := n, count := 0, pc := x 2, arg := x 3, unitid := s.cur.unitid, pid := s.cur.pid }
    setP (s.modCore s.cur.core fun c => { c with watch := some w }) p.toNat false

/-! ### Waiting in a slot (R167, R270) -/

/-- Has what a thread waits for come about; a barrier word that another thread's open release wrote is not seen before it closes (R228). The other waits are ended by the unit they wait for. -/
def waitOver (s : State) (t : Thread) : Bool :=
  match t.wait with
  | some (.barrier core off ph) =>
    !heldByRelease s t.tid t.core [{ ptr := 0, loc := .pool (poolKey core off), n := 8, data := [] }] &&
      phasePassed (s.pool.readNat (poolKey core off) 8) ph
  | some (.record q) => (s.core t.core).records.any fun r => r.q == q && r.tid == t.tid
  | some (.counts ld st cp tl) =>
    let n := accessCounts s t.tid
    engineCountsMet s t cp tl && within31 n.1 ld && within31 n.2 st
  | some (.batches n) => decide (t.batches.length ≤ n)
  | some (.element n) =>
    match t.streams.find? fun x => x.sreg == n with
    | some x => x.bound.all fun seq => landed s t.core t.tid seq (x.next * x.size) x.size
    | none => true
  | _ => false

/-- Does the wait end in a suspension after 64 cycles, if what it waits for has not come about by then (R167, R270); the others keep their slot. -/
def waitSuspends (s : State) (t : Thread) : Bool :=
  !waitOver s t && match t.wait with
  | some (.barrier _ _ _) => true
  | some (.group _) => true
  | some (.record _) => true
  | some (.counts _ _ cp tl) => !engineCountsMet s t cp tl
  | some (.batches _) => true
  | some (.element _) => true
  | some (.stinv _) => true
  | some (.kill _) => true
  | some (.crown _ _) => true
  | _ => false

/-- Does a thread that is suspended in this wait go on after its bundle: BARW and BARG have arrived (R167, R168). The others execute again. -/
def waitsPast (t : Thread) : Bool :=
  match t.wait with
  | some (.barrier _ _ _) => true
  | some (.group _) => true
  | _ => false

/-- A BARW or BARG counts as issued where its wait goes on outside the slot (R315, R352, R372). -/
def issuedWait (s : State) (t : Thread) : State :=
  let s1 := match t.fetched with
    | some (_, w) => tapThread s t 1 [w.toNat % 2 ^ 32, w.toNat / 2 ^ 32, 0, 0]
    | none => s
  s1.modThread t.tid fun t =>
    { t with
      ibnd := t.ibnd + 1, fetched := none, stopNext := t.stopNext || t.stepsLeft.any (· ≤ 1)
      stepsLeft := if t.stepsLeft.any (· ≤ 1) then none else t.stepsLeft.map (· - 1) }

/-- A thread that has waited in its slot leaves it in state WAITING (R127, R167, R270). -/
def waitEndsInSlot (s : State) (t : Thread) : State :=
  let past := waitsPast t
  onThread (if past then issuedWait s t else s) t.tid fun s =>
    { s with cur := { s.cur with state := .waiting, npc := if past then s.cur.pc + 8 else s.cur.pc }, flow := .stalled }

/-- QPUSH (R268, R269, R294, R295). -/
def execQpush (q : BitVec 3) (k : BitVec 4) (g : BitVec 4) (s : State) : Result :=
  .next (guarded g s fun s => qpush s q.toNat k)

/-- QPOP (R270, R294, R296). -/
def execQpop (q : BitVec 3) (k : BitVec 4) (g : BitVec 4) (s : State) : Result :=
  .next (guarded g s fun s => qpop s q.toNat k none)

/-- QTRY (R294, R297). -/
def execQtry (q : BitVec 3) (k : BitVec 4) (p : BitVec 3) (g : BitVec 4) (s : State) : Result :=
  .next (guarded g s fun s => qpop s q.toNat k (some p))

/-- WAITC (R298). -/
def execWaitc (l : BitVec 5) (s : BitVec 5) (c : BitVec 5) (t : BitVec 5) (g : BitVec 4) (st : State) : Result :=
  .next (guarded g st fun st => waitc st l.toNat s.toNat c.toNat t.toNat)

/-- BATCH (R286, R299). -/
def execBatch (d : BitVec 5) (g : BitVec 4) (s : State) : Result :=
  .next (guarded g s fun s => batch s d)

/-- WAITB (R300). -/
def execWaitb (n : BitVec 5) (g : BitVec 4) (s : State) : Result :=
  .next (guarded g s fun s => waitb s n.toNat)

/-- SBIND (R287, R301). -/
def execSbind (s : BitVec 3) (z : BitVec 5) (g : BitVec 4) (st : State) : Result :=
  .next (guarded g st fun st => sbind st s.toNat (if z.toNat = 0 then 4 else if z.toNat = 1 then 8 else 64))

/-- SBIND_X (R301). -/
def execSbindX (s : BitVec 3) (g : BitVec 4) (st : State) : Result :=
  .next (guarded g st fun st => st.modCur fun t => { t with streams := t.streams.filter fun x => x.sreg ≠ s.toNat })

/-- MOVS (R302). -/
def execMovs (d : BitVec 5) (s : BitVec 3) (g : BitVec 4) (st : State) : Result :=
  .next (guarded g st fun st => nextElement st s.toNat false fun st v bad => putReg st (wsOf st) (.x d.toNat) v bad)

/-- VMOVS (R302). -/
def execVmovs (d : BitVec 4) (s : BitVec 3) (g : BitVec 4) (st : State) : Result :=
  .next (guarded g st fun st => nextElement st s.toNat true fun st v bad => putReg st (wsOf st) (.v d.toNat) v bad)

/-- GNEXT (R292, R293, R303). -/
def execGnext (d : BitVec 5) (b : BitVec 5) (c : BitVec 5) (p : BitVec 3) (k : BitVec 3) (g : BitVec 4) (s : State) : Result :=
  .next (guarded g s fun s => gnext s d b c p k)

/-- WAKEON (R291, R304). -/
def execWakeon (a : BitVec 5) (p : BitVec 3) (g : BitVec 4) (s : State) : Result :=
  .next (guarded g s fun s => wakeon s a p)

/-- WAKEON_X (R304). -/
def execWakeonX (p : BitVec 3) (g : BitVec 4) (s : State) : Result :=
  .next (guarded g s fun s =>
    let armed := (s.core s.cur.core).watch.isSome
    setP (if armed then s.modCore s.cur.core fun c => { c with watch := none } else s) p.toNat armed)

/-- SLOT_WAIT_TIMEOUT (R167, R270). -/
def execSlotWaitTimeout (tid : Nat) (s : State) : Result :=
  match s.thread? tid with
  | none => .next s
  | some t => .next (if t.state = .running && waitSuspends s t && decide (t.waitFrom + 64 ≤ s.ts) then waitEndsInSlot s t else s)

end Sys2Proof.Machine
end

