-- ==== Sys2Proof/Machine/Mxu.lean ====
section
/-!
DEFINITION. The matrix unit (02 R36, R37, R40, R47; 14 R272 to R281; 15 R306 to R308; 20 R376).
-/
namespace Sys2Proof.Machine

/-! ### Fields (R273, R275, R276, R306) -/

/-- Bytes of an operand element. -/
def mxElem (w : Nat) : Nat := if mxType w = 5 ∨ mxType w = 6 then 2 else 1
/-- K. -/
def mxK (w : Nat) : Nat := if mxShape w < 16 then mxKb w else mxKb w * 2 ^ (mxShape w - 15)
/-- OVW. -/
def mxOvw (w : Nat) : Bool := bitAt w 35
/-- RHE. -/
def mxRhe (w : Nat) : Bool := bitAt w 33
/-- SCL. -/
def mxScl (w : Nat) : Bool := bitAt w 32
/-- Does the command drain. -/
def mxDrains (c : Cmd) : Bool := c.kind == 1 || (c.kind == 0 && bitAt c.words 34)
/-- Row `m` of an array with a signed 32-bit stride. -/
def rowPtr (p : W64) (stride m : Nat) : W64 := p + BitVec.ofNat 64 m * sextN stride 32
/-- DFMT of a format context. -/
def ctxDfmt (x : BitVec 128) : Nat := bits x.toNat 64 3
/-- RHPC. -/
def ctxRhpc (x : BitVec 128) : W64 := BitVec.ofNat 64 (bits x.toNat 3 54 * 8)
/-- Row `m` of the drain destination. -/
def drainPtr (c : Cmd) (m : Nat) : W64 := rowPtr (c.ptr 0x18) (c.field 0x28 4) m
/-- Start of the accumulator, as a pool offset (R277). -/
def accStart (s : State) (c : Cmd) (core : Nat) : Nat := (ownRegions s (engineThread s c core)).acLo + c.field 0x2C 4

/-! ### Acceptance (R281, R306 to R308, R312) -/

/-- Is a field that the kind does not use not zero (R306). -/
def mxReserved (c : Cmd) : Bool :=
  let w := c.words
  if c.kind = 2 then
    bits w 0 44 != 0 || bits w (8 * 0x18) 320 != 0 || bits (c.field 8 8) 0 3 != 0 || bits (c.field 8 8) 57 7 != 0 ||
      bits (c.field 0x10 8) 3 5 != 0 || bits (c.field 0x10 8) 12 20 != 0
  else if c.kind = 1 then
    bits w 0 16 != 0 || mxOvw w || bitAt w 34 || mxScl w || c.field 8 8 != 0 || c.field 0x10 8 != 0 || c.field 0x20 8 != 0 ||
      c.field 0x30 16 != 0
  else
    bits w 0 16 != 0 || (!bitAt w 34 && (mxRhe w || c.field 0x18 8 != 0 || c.field 0x28 4 != 0)) || (!mxScl w && c.field 0x30 16 != 0)

/-- RESTART (R308). -/
def mxRestart (c : Cmd) : Bool :=
  let n := mxSteps c
  decide (n < mxRstep c.words) || decide (mxM c.words ≤ mxRrow c.words) || (mxRrow c.words != 0 && decide (mxRstep c.words < n)) ||
    (c.kind == 0 && mxRstep c.words == n && !bitAt c.words 34)

/-- The span of K that a step reads, and whether its blocks are summed in it. A block of 32 BF16 or FP16 elements spans two steps: the
second of them sums it (R47, R274, log entry 24, DEDUCED). -/
def mxSpan (w i : Nat) : Nat × Nat × Bool :=
  if mxShape w < 16 then (0, mxK w, true)
  else if mxKb w = 16 then (if i % 2 = 0 then (16 * i, 16 * i + 16, false) else (16 * (i - 1), 16 * i + 16, true))
  else (mxKb w * i, mxKb w * (i + 1), true)

/-- First row and first column of the block of outputs of a step (R274). -/
def mxOrigin (w i : Nat) : Nat × Nat :=
  if mxShape w < 16 then (16 * (i / (mxN w / 16)), 16 * (i % (mxN w / 16))) else (0, 0)

/-- The parts of operand rows that the steps of a TILE from RSTEP on read: those of A, of B, and their scales (R276, R308, R312). -/
def mxReads (c : Cmd) : List (W64 × Nat) × List (W64 × Nat) :=
  let w := c.words
  let steps := upFrom (mxRstep w) (mxSteps c - mxRstep w)
  let k0 := (mxSpan w (mxRstep w)).1
  let rows (o : Nat × Nat → Nat) (n : Nat) : List Nat := (upTo n).filter fun m => steps.any fun i => o (mxOrigin w i) / 16 == m / 16
  let row (p : W64) (st : Nat) (ms : List Nat) : List (W64 × Nat) :=
    ms.map fun m => (rowPtr p st m + BitVec.ofNat 64 (k0 * mxElem w), (mxK w - k0) * mxElem w)
  let scale (p : W64) (ms : List Nat) : List (W64 × Nat) :=
    ms.map fun m => (p + BitVec.ofNat 64 (m * (mxK w / 32) + k0 / 32), (mxK w - k0) / 32)
  if c.kind ≠ 0 ∨ mxSteps c ≤ mxRstep w then ([], [])
  else
    (row (c.ptr 8) (c.field 0x20 4) (rows (·.1) (mxM w)) ++ row (c.ptr 0x10) (c.field 0x24 4) (rows (·.2) (mxN w)),
     if mxScl w then scale (c.ptr 0x30) (rows (·.1) (mxM w)) ++ scale (c.ptr 0x38) (rows (·.2) (mxN w)) else [])

/-- The rows that a command drains. -/
def mxWrites (c : Cmd) (x : BitVec 128) : List (W64 × Nat) :=
  if mxDrains c then
    (upFrom (mxRrow c.words) (mxM c.words - mxRrow c.words)).map fun m => (drainPtr c m, mxN c.words * fmtBytes (ctxDfmt x))
  else []

/-- The check of an MXU command, whole, in the order of R312. -/
def mxCheck (s : State) (core : Nat) (c : Cmd) : Option Reject :=
  let w := c.words
  let x := (s.core core).fmt
  let t := engineThread s c core
  let r := ownRegions s t
  let reads := mxReads c
  if c.kind = 2 then firstReject [rejectIf (mxReserved c) stRESV, rejectIf (decide (6 ≤ bits (c.field 0x10 8) 8 3)) stFORMAT]
  else
    firstReject
      [rejectIf (decide (3 ≤ c.kind)) stKIND, rejectIf (mxReserved c) stRESV, rejectIf (decide (20 ≤ mxShape w)) stSHAPE,
       rejectIf ((c.kind == 0 && mxScl w && (mxType w == 4 || mxType w == 5 || mxType w == 6)) ||
         (mxDrains c && (decide (6 ≤ ctxDfmt x) != (mxType w == 4)))) stFORMAT,
       rejectIf (mxRestart c) stRESTART,
       rejectIf (c.field 0x2C 4 % 64 != 0 || decide (r.acHi < r.acLo + c.field 0x2C 4 + 4 * mxM w * mxN w)) stACCRANGE,
       addrReject s t (reads.1 ++ reads.2 ++ mxWrites c x), alignReject (mxElem w) (reads.1.map (·.1)),
       protReject s t true false (upTo 8) (reads.1 ++ reads.2), protReject s t true true [0, 2, 3, 4] (mxWrites c x),
       rejectIf (mxRhe w && ctxRhpc x == 0) stHANDLER, rejectIf (mxRhe w && !reservedOn s core 13) stNOSLOT]

/-- Change the run of a command. -/
def modRun (s : State) (core : Nat) (c : Cmd) (f : MxuRun → MxuRun) : State :=
  s.modCore core fun k => { k with mxu := k.mxu.map fun r => if r.cmd.same c then f r else r }

/-- Has a fault stopped the core's q0 (R280). -/
def mxStopped (s : State) (core : Nat) : Bool := (s.core core).mxu.any fun r => r.stopped.isSome

/-- Has a command nothing more to do. -/
def mxDone (r : MxuRun) : Bool :=
  r.status != 0 || r.cmd.kind == 2 ||
    (decide (mxSteps r.cmd ≤ r.step) && (!mxDrains r.cmd || decide (mxM r.cmd.words ≤ r.row)) && !r.handling)

/-- PROG (R311): the next step and the next row. -/
def mxProg (r : MxuRun) : Nat := if r.cmd.kind = 2 then 0 else r.step * 2 ^ 24 + r.row * 2 ^ 16

/-- The records of the commands that are done are delivered, in push order (R270). `n` bounds them. -/
def mxDeliver : Nat → State → Nat → State
  | 0, s, _ => s
  | n + 1, s, core =>
    match (s.core core).mxu with
    | [] => s
    | r :: _ =>
      if mxDone r then
        let s1 := s.modCore core fun k => { k with mxu := k.mxu.drop 1 }
        mxDeliver n
          (if r.status = stPAGE ∨ r.status = stPOISON then
            endByService s1 core r.cmd 0 (if r.status = stPAGE then cPAGE else cPOISON) r.flags (mxProg r) r.faddr
          else deliver s1 core r.cmd 0 r.status r.flags (mxProg r) r.faddr) core
      else s

/-- The MXU goes on with a core: records, the next command, the next row. Its steps come one in a cycle for the cluster (R274). -/
def mxuGo (s : State) (core : Nat) : State :=
  let s1 := mxuKick (mxDeliver (s.core core).mxu.length s core) core
  match (s1.core core).mxu with
  | r :: _ =>
    if r.status == 0 && !mxStopped s1 core && mxDrains r.cmd && decide (mxSteps r.cmd ≤ r.step) && decide (r.row < mxM r.cmd.words)
        && !r.handling then s1.once (.mxuRowDrain core)
    else s1
  | [] => s1

/-- The MXU accepts the core's oldest command where it is of a kind that `ok` names (R269, R281). A CTX command sets the format
context for the commands behind it (R273). -/
def mxuAccept (s : State) (core : Nat) (ok : Nat → Bool) : State :=
  match headCmd s core 0 with
  | none => s
  | some c =>
    if !ok c.kind || heldCmd s core c || !mxuReady s core then s
    else
      let run : MxuRun :=
        { cmd := c, ctx := (s.core core).fmt, step := mxRstep c.words, row := mxRrow c.words, flags := 0, handling := false
          status := 0, stopped := none, faddr := 0 }
      let s1 := takeCmd s core 0
      let add (s : State) (r : MxuRun) : State := mxuGo (s.modCore core fun k => { k with mxu := k.mxu ++ [r] }) core
      match mxCheck s core c with
      | some r => add s1 { run with status := r.status, faddr := r.faddr }
      | none =>
        if c.kind = 2 then
          add (s1.modCore core fun k => { k with fmt := BitVec.ofNat 128 (c.field 8 8 + c.field 0x10 8 * 2 ^ 64) }) run
        else add s1 run

/-- A step or a row cannot be done: a revoked identifier ends the command; another cause stops the core's q0, with the progress
recorded and the fault service notified (R280, R312, R336). -/
def mxuStop (s : State) (core : Nat) (r : MxuRun) (cause : Nat) (p : W64) : State :=
  if cause = cREVOKED then mxuGo (modRun s core r.cmd fun r => { r with status := stREVOKED, faddr := p }) core
  else
    let s1 := modRun s core r.cmd fun r => { r with stopped := some cause, faddr := p }
    notifyEngine (s1.modCore core fun k => { k with progress := BitVec.ofNat 64 (mxProg r) }) core r.cmd cause p

/-! ### Steps (R37, R40, R47, R274) -/

/-- The formats of A and B, codes of R92. -/
def mxFormats (typ : Nat) : Nat × Nat := match typ with
  | 0 => (3, 3)
  | 1 => (4, 4)
  | 2 => (3, 4)
  | 3 => (4, 3)
  | 5 => (2, 2)
  | 6 => (1, 1)
  | _ => (5, 5)

/-- A product of two elements as FP32 (R40, R47). 0 × ∞ is the default NaN with NV, in a scaled block too, of whose NaNs R37 does not name it
(log entry 77, DEDUCED). -/
def mxProduct (typ a b : Nat) : Nat × Flags :=
  if typ = 7 then (lnsMul (a % 64) (b % 64), 0)
  else
    match mulV (cvtValue (mxFormats typ).1 a) (cvtValue (mxFormats typ).2 b) with
    | none => (nan32, fNV)
    | some v => roundV .rne v

/-- The sum of one block (R47): 32 products, or 16. -/
def mxBlockSum (typ : Nat) (a b : List Nat) : Nat × Flags :=
  let p := List.zipWith (mxProduct typ) a b
  let t := treeSum .rne (Nat.log2 p.length) (p.map (·.1))
  (t.1, orFlags p ||| t.2)

/-- A block sum scaled by two E8M0 scales (R37). -/
def mxScaled (sum ea eb : Nat) : Nat × Flags :=
  if ea = 255 ∨ eb = 255 then (nan32, fNV)
  else
    match fpv sum with
    | .nan _ => (nan32, fNV)
    | .inf n => (inf32 n, 0)
    | .fin n m e => if m = 0 then (sum, 0) else rnd32 .rne n m (e + (ea : Int) + (eb : Int) - 254) false

/-- Lists of `n` elements each. -/
def inChunks {α : Type} (n : Nat) : Nat → List α → List (List α)
  | 0, _ => []
  | f + 1, l => if l.isEmpty then [] else l.take n :: inChunks n f (l.drop n)

/-- The elements of a row's bytes. -/
def mxElems (w : Nat) (l : List Byte) : List Nat := (inChunks (mxElem w) l.length l).map leNat

/-- One accumulator element after the blocks of a step, in ascending K (R47). -/
def mxAccumulate (w acc : Nat) (blocks : List ((List Nat × List Nat) × Option (Nat × Nat))) : Nat × Flags :=
  if mxType w = 4 then
    (blocks.foldl (fun acc b =>
      ((List.zipWith (fun x y => (BitVec.ofNat 8 x).toInt * (BitVec.ofNat 8 y).toInt) b.1.1 b.1.2).foldl
        (fun (i : Int) p => (i + p) % 2 ^ 32) (acc : Int)).toNat) acc, 0)
  else
    blocks.foldl (fun r b =>
      let t := mxBlockSum (mxType w) b.1.1 b.1.2
      let u := match b.2 with
        | some e => mxScaled t.1 e.1 e.2
        | none => (t.1, 0)
      let v := fadd32 .rne r.1 u.1
      (v.1, r.2 ||| t.2 ||| u.2 ||| v.2)) (acc, 0)

/-- The parts of 16 operand rows, from row `r0` on, that a step reads. -/
def mxRowParts (w : Nat) (p : W64) (stride r0 k0 k1 : Nat) : List (W64 × Nat) :=
  (upFrom r0 16).map fun m => (rowPtr p stride m + BitVec.ofNat 64 (k0 * mxElem w), (k1 - k0) * mxElem w)

/-- The scales of those rows that a step reads. -/
def mxScaleParts (w : Nat) (p : W64) (r0 k0 k1 : Nat) : List (W64 × Nat) :=
  if mxScl w then (upFrom r0 16).map fun m => (p + BitVec.ofNat 64 (m * (mxK w / 32) + k0 / 32), (k1 - k0) / 32) else []

/-- The blocks of one output: parts of a row of A and a row of B, with their scales. -/
def mxBlocks (w : Nat) (a b : List Byte) (sa sb : Option (List Byte)) : List ((List Nat × List Nat) × Option (Nat × Nat)) :=
  let n := Nat.min 32 (mxK w)
  let cut (l : List Byte) : List (List Nat) := inChunks n l.length (mxElems w l)
  let ab := (cut a).zip (cut b)
  let scale (j : Nat) : Option (Nat × Nat) := match sa, sb with
    | some x, some y => some ((x.getD j 0).toNat, (y.getD j 0).toNat)
    | _, _ => none
  (ab.zip (upTo ab.length)).map fun p => (p.1, scale p.2)

/-- Does a step write accumulator bytes that an earlier command has still to drain (R272). -/
def mxBlocked (s : State) (core : Nat) (c : Cmd) (lo n : Nat) : Bool :=
  ((s.core core).mxu.takeWhile fun r => !r.cmd.same c).any fun r =>
    r.status == 0 && mxDrains r.cmd &&
      (let a := accStart s r.cmd core
       let row := 4 * mxN r.cmd.words
       let from' := a + row * (r.row - b2n r.handling)
       shared lo n from' (a + row * mxM r.cmd.words - from') != 0)

/-- A parity error on the operand buses: it is counted, and the step ends as poisoned data does (R401, R402); the pointer reported is that of A
(log entry 106, DESIGN CHOICE). -/
def mxParity (s : State) (core : Nat) (r : MxuRun) : State := mxuStop (errCount s (dieOf core) 0x50) core r cPOISON (r.cmd.ptr 8)

/-- A step is made. -/
def stepMade (s : State) (core : Nat) (r : MxuRun) : State := mxuGo (modRun s core r.cmd fun _ => { r with step := r.step + 1 }) core

/-- A row is drained: its handler starts where the command has one (R279). -/
def rowMade (s : State) (core : Nat) (r : MxuRun) : State :=
  let c := r.cmd
  let s1 := modRun s core c fun _ => { r with row := r.row + 1, handling := mxRhe c.words }
  if mxRhe c.words then
    startHandler s1 core .row c.pid c.unitid (ctxRhpc r.ctx)
      [drainPtr c r.row, BitVec.ofNat 64 r.row, BitVec.ofNat 64 c.tag, locPtr (accStart s c core + 4 * mxN c.words * r.row)]
  else mxuGo s1 core

/-- The write of a step or of a row that is made in parts goes on (R220). -/
def mxuWrites (s : State) (core : Nat) (r : MxuRun) : State :=
  let x := writeOn s (dieOf core) r.writing
  let r1 := { r with writing := x.2 }
  if !x.2.left.isEmpty then mxuGo (modRun x.1 core r.cmd fun _ => r1) core
  else
    let r2 := { r1 with writing := { left := [], done := [] } }
    if r.step < mxSteps r.cmd then stepMade x.1 core r2 else rowMade x.1 core r2

/-- One step of a TILE: 16 × 16 outputs over its span of K (R274, R276, R280). What a step overwrites without reading may be poisoned. A soft
error leaves wrong accumulator bytes (R401). -/
def mxuStep (s : State) (core : Nat) (r : MxuRun) : State :=
  let c := r.cmd
  let w := c.words
  let o := mxOrigin w r.step
  let k := mxSpan w r.step
  let acc := accStart s c core
  let rowBytes := 4 * mxN w
  if mxBlocked s core c (acc + rowBytes * o.1) (16 * rowBytes) then s
  else if !r.writing.left.isEmpty then mxuWrites s core r
  else
    let t := engineThread s c core
    let parts := mxRowParts w (c.ptr 8) (c.field 0x20 4) o.1 k.1 k.2.1 ++ mxRowParts w (c.ptr 0x10) (c.field 0x24 4) o.2 k.1 k.2.1 ++
      mxScaleParts w (c.ptr 0x30) o.1 k.1 k.2.1 ++ mxScaleParts w (c.ptr 0x38) o.2 k.1 k.2.1
    let keyOf (m : Nat) : Nat := poolKey core (acc + rowBytes * (o.1 + m) + 4 * o.2)
    match engineReads t parts s with
    | .error f => mxuStop f.2.2 core r f.1 f.2.1
    | .ok (data0, s1) =>
      match s1.ahead with
      | .read k :: rest =>
        modRun { s1 with ahead := rest, sys := s.sys } core c fun r => { r with cmd := r.cmd.gets parts data0.flatten k }
      | _ =>
      let data := withGots c.got data0
      let zero := mxOvw w && (decide (mxShape w < 16) || r.step == 0)
      match (upTo 16).find? fun m => !zero && poisonedLoc s1 (.pool (keyOf m)) 64 with
      | some m => mxuStop s core r cPOISON (locPtr (keyOf m % 2 ^ 20))
      | none =>
        let (wrong, s1) := takeUpset s1 fun u => match u with
          | .mxu b => some b
          | _ => none
        let get (i : Nat) : List Byte := data.getD i []
        let scale (i : Nat) : Option (List Byte) := if mxScl w then some (get i) else none
        let out (m n : Nat) : Nat × Flags :=
          let old := if zero then 0 else s1.pool.readNat (keyOf m + 4 * n) 4
          mxAccumulate w old (if k.2.2 then mxBlocks w (get m) (get (16 + n)) (scale (32 + m)) (scale (48 + n)) else [])
        let rows := (upTo 16).map fun m => (upTo 16).map (out m)
        let outs := ((upTo 16).zip rows).map fun p => (keyOf p.1, upsetBytes wrong (64 * p.1) (laneBytes 4 (p.2.map (·.1))))
        let ran (r : MxuRun) : MxuRun := { r with cmd := r.cmd.hasRead, flags := r.flags ||| orFlags (rows.flatten) }
        match s1.ahead with
        | .write _ :: _ =>
          mxuWrites s1 core { ran r with writing := { left := outs.flatMap fun x => inFours 17 (.pool x.1) x.2, done := [] } }
        | _ => stepMade (outs.foldl (fun s p => putPoolBytes s p.1 p.2) s1) core (ran r)

/-! ### Drains (R278, R279, R405) -/

/-- One drained element: its bytes and flags (R278). -/
def mxDrainElem (c : Cmd) (x : BitVec 128) (m n v : Nat) : List Byte × Flags :=
  let d := ctxDfmt x
  if d = 0 ∨ d = 7 then (leBytes 4 v, 0)
  else
    let drm := bits x.toNat 72 3
    let key : W64 := BitVec.ofNat 64 (c.unitid.toNat * 2 ^ 32 + bits x.toNat 96 32)
    let ctr : W64 := BitVec.ofNat 64 (c.tag * 2 ^ 32 + (m * mxN c.words + n))
    let md : CvtMode :=
      { rm := (rmOf drm).getD .rne, srnd := drm == 5, sat8 := bitAt x.toNat 75, draw := (rndc key ctr).toNat / 256 }
    let r := convert d (if mxType c.words = 4 then 7 else 0) md v
    (leBytes (fmtBytes d) r.1.toNat, r.2)

/-- One row is drained, whole or in parts (R220). -/
def mxuRowDrain (s : State) (core : Nat) (r : MxuRun) : State :=
  let c := r.cmd
  let n := mxN c.words
  let m := r.row
  let acc := accStart s c core + 4 * n * m
  let p := drainPtr c m
  if !r.writing.left.isEmpty then mxuWrites s core r
  else if poisonedLoc s (.pool (poolKey core acc)) (4 * n) then mxuStop s core r cPOISON (locPtr acc)
  else
    let t := engineThread s c core
    match enginePlaces s t true p (n * fmtBytes (ctxDfmt r.ctx)) with
    | .error f => mxuStop f.2.2 core r f.1 f.2.1
    | .ok (ls, s1) =>
      let els := (upTo n).map fun i => mxDrainElem c r.ctx m i (s1.pool.readNat (poolKey core (acc + 4 * i)) 4)
      let r1 := { r with flags := els.foldl (fun f e => f ||| e.2) r.flags }
      let bytes := els.flatMap (·.1)
      match s1.ahead with
      | .write _ :: _ =>
        if ls.any fun l => cutOff s1 (dieOf core) l.1 then rowMade (engineWrite s1 (dieOf core) core c p ls bytes) core r1
        else mxuWrites s1 core { r1 with writing := { left := cutTo ls bytes, done := [] } }
      | _ => rowMade (engineWrite s1 (dieOf core) core c p ls bytes) core r1

/-- The run that has a step to do; none while a fault has stopped the core's q0 (R280). -/
def mxStepRun (s : State) (core : Nat) : Option MxuRun :=
  if mxStopped s core then none
  else (s.core core).mxu.find? fun r => r.status == 0 && decide (r.step < mxSteps r.cmd)

/-- Has a core a step that its MXU can take now (R272, R274). -/
def mxStepReady (s : State) (core : Nat) : Bool :=
  match mxStepRun s core with
  | none => false
  | some r =>
    !frozen s core r.cmd &&
      !mxBlocked s core r.cmd (accStart s r.cmd core + 4 * mxN r.cmd.words * (mxOrigin r.cmd.words r.step).1) (64 * mxN r.cmd.words)

/-- The core of a cluster that its MXU serves next: the first with a step ready after the one it served last, in the rotation 0, 1, 2, 3
(R274); before its first step, core 3 counts as the last (log entry 76, DESIGN CHOICE). -/
def mxNext (s : State) (cluster : Nat) : Option Nat :=
  let last := (assocGet s.mxLast cluster).getD 3
  ((upFrom 1 4).map fun i => 4 * cluster + (last + i) % 4).find? (mxStepReady s)

/-- Is a pending step a step of a cluster's MXU. -/
def stepOfMxu (cluster : Nat) : Event → Bool
  | .mxuStep core => core / 4 == cluster
  | _ => false

/-- The steps of the cycle that begins: one for each MXU with a step ready, unless its last one is still to be taken (R274). -/
def dueMxu (s : State) : List Event :=
  let cls := s.cores.foldl (fun l c => if c.2.mxu.isEmpty || l.contains (c.1 / 4) then l else l ++ [c.1 / 4]) []
  (cls.filter fun k => !s.agenda.any (stepOfMxu k)).filterMap fun k => (mxNext s k).map .mxuStep

/-- The MXU takes a step for a core, which is now the one served last. -/
def mxuServe (s : State) (core : Nat) : State :=
  match mxStepRun s core with
  | none => s
  | some r =>
    if !mxStepReady s core then s
    else
      let (parity, s1) := takeUpset { s with mxLast := assocPut s.mxLast (core / 4) (core % 4) } fun u =>
        if u = .parity ∧ r.writing.left.isEmpty then some () else none
      if parity.isSome then mxParity s1 core r else mxuStep s1 core r

/-- The run that has a row to drain: the oldest, with its steps done; none while a fault has stopped the core's q0 (R280). -/
def mxDrainRun (s : State) (core : Nat) : Option MxuRun :=
  match (s.core core).mxu with
  | [] => none
  | r :: _ =>
    if r.status == 0 && !mxStopped s core && decide (mxSteps r.cmd ≤ r.step) && mxDrains r.cmd && decide (r.row < mxM r.cmd.words)
        && !r.handling then some r
    else none

/-- Is a stopped q0 of a core out of reach: it was switched out with its partition (R376), or a KILL of its context has begun (R377). -/
def mxAway (s : State) (core : Nat) (pid : BitVec 16) : Bool :=
  (s.saved.any fun x => x.pid == some pid && x.cores.any fun c => c.1 == core && c.2.mxu.any fun r => r.stopped.isSome) ||
    s.kills.any fun k => k.pids.contains pid && k.stopped.contains core

/-- MXRS and its ending forms (R376): `cause` is none for a resume. -/
def mxrs (s : State) (d : BitVec 5) (x : W64) (cause : Option Nat) : State :=
  needLevel 1 s fun s =>
    let core := bits x.toNat 0 12
    let pid : BitVec 16 := BitVec.ofNat 16 (bits x.toNat 16 16)
    if bits x.toNat 12 4 ≠ 0 ∨ bits x.toNat 32 32 ≠ 0 then trap s cILLEG (bundleNow s)
    else
      match (s.core core).mxu.find? fun r => r.stopped.isSome with
      | none => wX s d (if mxAway s core pid then 2 else 1)
      | some r =>
        if r.cmd.pid ≠ pid ∨ holderOf s core ≠ some pid ∨ frozen s core r.cmd ∨ s.kills.any (·.pids.contains pid) then wX s d 2
        else
          whenDrained s fun s =>
            let st := match cause with
              | none => 0
              | some c => if c = cPAGE then stPAGE else stPOISON
            wX (mxuGo (modRun s core r.cmd fun r => { r with stopped := none, status := st, faddr := if st = 0 then 0 else r.faddr }) core) d 0

/-- MXU_TILE (R269, R272, R275 to R277, R281, R306 to R308). -/
def execMxuTile (core : Nat) (s : State) : Result :=
  .next (mxuAccept s core fun k => k != 1 && k != 2)

/-- MXU_DRAIN (R269, R277, R278, R281, R308). -/
def execMxuDrain (core : Nat) (s : State) : Result :=
  .next (mxuAccept s core fun k => k == 1)

/-- MXU_CTX (R269, R273, R281, R306). -/
def execMxuCtx (core : Nat) (s : State) : Result :=
  .next (mxuAccept s core fun k => k == 2)

/-- MXU_STEP (R37, R40, R46, R47, R272, R274, R276, R280, R401). -/
def execMxuStep (core : Nat) (s : State) : Result :=
  .next (mxuServe s core)

/-- MXU_ROW_DRAIN (R278, R279, R290, R405). -/
def execMxuRowDrain (core : Nat) (s : State) : Result :=
  .next (match mxDrainRun s core with
    | some r => if frozen s core r.cmd then s else mxuRowDrain s core r
    | none => mxuGo s core)

/-- MXRS (R280, R376). -/
def execMxrs (d : BitVec 5) (b : BitVec 5) (g : BitVec 4) (s : State) : Result :=
  .next (guarded g s fun s => mxrs s d (rX s b) none)

/-- MXRS_PAGE (R336, R376). -/
def execMxrsPage (d : BitVec 5) (b : BitVec 5) (g : BitVec 4) (s : State) : Result :=
  .next (guarded g s fun s => mxrs s d (rX s b) (some cPAGE))

/-- MXRS_POISON (R336, R376). -/
def execMxrsPoison (d : BitVec 5) (b : BitVec 5) (g : BitVec 4) (s : State) : Result :=
  .next (guarded g s fun s => mxrs s d (rX s b) (some cPOISON))

end Sys2Proof.Machine
end

