-- ==== Sys2Proof/Machine/Copy.lean ====
section
/-!
DEFINITION. Streamers (02 R45; 14 R282 to R289; 15 R309 to R312; 17 R326; 18 R328).
-/
namespace Sys2Proof.Machine

/-! ### Fields (R309) -/

/-- DKIND. -/
def cpKind (c : Cmd) : Nat := bits c.words 44 4
/-- RND. -/
def cpRnd (c : Cmd) : Nat := bits c.words 33 3
/-- BARE. -/
def cpBare (c : Cmd) : Bool := bitAt c.words 30
/-- LHE. -/
def cpLhe (c : Cmd) : Bool := bitAt c.words 29
/-- Chunk size (R288). -/
def cpChunk (c : Cmd) : Nat := 2 ^ (bits c.words 24 4 + 8)
/-- CMASK. -/
def cpCmask (c : Cmd) : Nat := bits c.words 20 4
/-- DST. -/
def cpDst (c : Cmd) : W64 := c.ptr 0x10
/-- DSEL. -/
def cpDsel (c : Cmd) : Nat := c.field 0x18 8

/-- An NBR pointer. -/
def nbrPtr (core off : Nat) : W64 := BitVec.ofNat 64 (3 * 2 ^ 60 + core * 2 ^ 20 + off)

/-- The cores that a multicast names (R284). -/
def cpCores (c : Cmd) : List Nat :=
  let ks := (upTo 4).filter fun k => bitAt (cpCmask c) k
  if cpKind c = 1 then ks.map fun k => bits (cpDsel c) 0 12 / 4 * 4 + k
  else
    ((upTo 16).filter fun x => bitAt (bits (cpDsel c) 16 16) x).flatMap fun x =>
      ks.map fun k => bits (cpDsel c) 6 6 * 64 + 4 * x + k

/-- The destinations of a copy: the core whose pool each lies in, and its pointer (R284). -/
def cpDests (c : Cmd) (core : Nat) : List (Option Nat × W64) :=
  if cpKind c = 0 then
    [(if pathOf (cpDst c) = 2 then some core else if pathOf (cpDst c) = 3 then some (addrOf (cpDst c) / 2 ^ 20) else none, cpDst c)]
  else (cpCores c).map fun k => (some k, nbrPtr k (addrOf (cpDst c) % 2 ^ 20))

/-- The barrier words of a copy: the core of each destination, the issuing core where it is no core's (R285). -/
def cpBarriers (c : Cmd) (core : Nat) : List Nat := if cpBare c then (cpDests c core).map fun d => d.1.getD core else []

/-- The pointer of a core's barrier word, as the issuing core names it. -/
def barPtr (c : Cmd) (core at' : Nat) : W64 := if at' = core then locPtr (c.field 0x2C 4 % 2 ^ 20) else nbrPtr at' (c.field 0x2C 4 % 2 ^ 20)

/-! ### Acceptance (R283, R284, R309, R310, R312) -/

/-- Is a reserved or an unused field not zero. -/
def cpReserved (c : Cmd) : Bool :=
  let w := c.words
  bitAt w 28 || bits w 0 20 != 0 || c.field 0x38 8 != 0 || decide (2 ^ 20 ≤ c.field 0x2C 4) || (!cpBare c && c.field 0x2C 4 != 0) ||
    (!cpLhe c && (bits w 24 4 != 0 || c.field 0x30 8 != 0)) || (cpDfmt c != 8 && c.field 0x24 4 != 0) ||
    ((cpKind c == 1 || cpKind c == 2) && decide (2 ^ 20 ≤ (cpDst c).toNat)) ||
    (cpKind c == 1 && (bits (cpDsel c) 0 2 != 0 || decide (2 ^ 12 ≤ cpDsel c))) ||
    (cpKind c == 2 && (bits (cpDsel c) 0 6 != 0 || bits (cpDsel c) 12 4 != 0 || decide (2 ^ 32 ≤ cpDsel c)))

/-- DEST. -/
def cpBadDest (c : Cmd) : Bool :=
  decide (3 ≤ cpKind c) || (cpKind c == 0 && (cpDsel c != 0 || cpCmask c != 0)) || (cpKind c != 0 && cpCmask c == 0) ||
    (cpKind c == 2 && bits (cpDsel c) 16 16 == 0)

/-- The pairs of formats of R283. -/
def cpPair (a b : Nat) : Bool := a == b || (a == 0 && ((1 ≤ b && b ≤ 5) || b == 8)) || (b == 0 && 1 ≤ a && a ≤ 5)

/-- FORMAT. -/
def cpBadFormat (c : Cmd) : Bool :=
  decide (8 ≤ cpSfmt c) || decide (9 ≤ cpDfmt c) || decide (6 ≤ cpRnd c) || !cpPair (cpSfmt c) (cpDfmt c) ||
    (cpDfmt c == 8 && (c.field 0x24 4 % 2 != 0 || decide (2 * c.field 0x24 4 < cpSize c)))

/-- The pointer `o` bytes into a destination. One into a core's pool does not go on in another core's: past the core's 2^20 bytes it names the
last of them, which is no pool byte (R197, R284; log entry 109, DEDUCED). -/
def planePtr (p : W64) (o : Nat) : W64 :=
  if pathOf p = 3 ∧ 2 ^ 20 ≤ addrOf p % 2 ^ 20 + o then p ||| 0xFFFFF else p + BitVec.ofNat 64 o

/-- The destination ranges: each plane of each destination. -/
def cpRanges (c : Cmd) (core : Nat) : List (W64 × Nat) :=
  (cpDests c core).flatMap fun d => (cpSpans c 0 (cpSize c)).map fun x => (planePtr d.2 x.1, x.2)

/-- Is the one destination in the issuing core's pool (R287). -/
def cpOwn (c : Cmd) (core : Nat) : Bool := cpKind c == 0 && (cpDests c core).all fun d => d.1 == some core

/-- The check of a copy, whole, in the order of R312. -/
def cpCheck (s : State) (core : Nat) (c : Cmd) : Option Reject :=
  let t := engineThread s c core
  let src := [(c.ptr 8, cpSize c)]
  let bars := (cpBarriers c core).map fun k => (barPtr c core k, 8)
  let elem := fmtBytes (cpSfmt c)
  firstReject
    [rejectIf (cpReserved c) stRESV, rejectIf (cpBadDest c) stDEST, rejectIf (cpBadFormat c) stFORMAT, rejectIf (cpSize c == 0) stSIZE,
     addrReject s t (src ++ cpRanges c core ++ bars),
     if cpSize c % elem ≠ 0 then some { status := stALIGN, faddr := c.ptr 8 } else none,
     alignReject elem [c.ptr 8], alignReject (fmtBytes (cpDfmt c)) ((cpRanges c core).map (·.1)), alignReject 8 (bars.map (·.1)),
     protReject s t false false [0, 1, 2, 3, 4] src, protReject s t false true [0, 2, 3, 4] (cpRanges c core ++ bars),
     rejectIf (cpLhe c && (c.field 0x30 8 == 0 || c.field 0x30 8 % 8 != 0 || (cpDests c core).any (fun d => d.1.isNone) ||
       decide (9 ≤ bits c.words 24 4))) stHANDLER,
     rejectIf (match c.bind with
       | some n => !cpOwn c core || cpDestSize c % n != 0
       | none => false) stSTREAM]

/-! ### A copy under way -/

/-- A core of the die beside which the stack of an address of a context lies: where the unit beside that stack is (R202). A seam table's unit is taken to
be there too (log entry 128, DESIGN CHOICE). -/
def unitCore (s : State) (pid : BitVec 16) (va : Nat) : List Nat :=
  match deviceAddr s pid va false with
  | .ok pa => if isRemote pa then [] else [1024 * (Config.stackDie (stackOf pa) % 4)]
  | .error _ => []

/-- The streamer of a copy: one of the router of the cluster that owns the source bytes, or one beside the home stack of the source's first
byte (R282), with the least scope whose instance includes it, `.dev` for one of die K (R219). -/
def streamerOf (s : State) (core : Nat) (c : Cmd) : List (Nat × Nat) :=
  if pathOf (c.ptr 8) = 2 then [(if isCtl core then 4 else 2, core)]
  else if pathOf (c.ptr 8) = 3 then [(2, addrOf (c.ptr 8) / 2 ^ 20)]
  else (unitCore s c.pid (addrOf (c.ptr 8))).map fun k => (3, k)

/-- The die from which a copy reads and sends: its streamer's; the pusher's, where a streamer of another package serves it. -/
def streamDie (s : State) (core : Nat) (c : Cmd) : Nat := dieOf ((streamerOf s core c).headD (0, core)).2

/-- A copy by its number. -/
def State.copy? (s : State) (id : Nat) : Option CopyRun := s.copies.find? fun r => r.id == id
/-- Change a copy. -/
def State.modCopy (s : State) (id : Nat) (f : CopyRun → CopyRun) : State :=
  { s with copies := s.copies.map fun r => if r.id = id then f r else r }

/-- Is a copy ended before its end: cancelled, or stopped for good by a fault. -/
def cpEnded (r : CopyRun) : Bool := decide (stCANCELLED ≤ r.status ∧ r.status ≤ stPOISON)

/-- The status that is reported: the one earliest in R312. -/
def worseStatus (a b : Nat) : Nat := if a = 0 then b else if b = 0 then a else Nat.min a b

/-- Have destination bytes of destination `d` landed. -/
def cpLanded (r : CopyRun) (d lo n : Nat) : Bool :=
  (cpSpans r.cmd r.readTo (cpSize r.cmd) ++ (r.packets.filter fun p => p.dest == d).flatMap (·.spans)).all fun x => shared lo n x.1 x.2 == 0

/-- Chunks of a copy (R288). -/
def cpChunks (c : Cmd) : Nat := (cpExtent c + cpChunk c - 1) / cpChunk c

/-- Have the landing handlers of a copy on a core all quit. -/
def cpHandled (s : State) (r : CopyRun) (core : Nat) : Bool :=
  !cpLhe r.cmd || (decide (cpChunks r.cmd ≤ countGet r.chunks core) && !((s.core core).landing.any fun x => x.1 == r.id))

/-- The steps that are due for a copy: the arrivals at barriers of destinations that have landed, and its completion (R285, R286). -/
def copyAfter (s : State) (id : Nat) : State :=
  match s.copy? id with
  | none => s
  | some r =>
    if frozen s r.core r.cmd then s
    else if cpEnded r then (if r.packets.isEmpty then s.once (.copyCompletion id) else s)
    else
      let ds := cpDests r.cmd r.core
      let done := ((upTo ds.length).zip ds).map fun p =>
        (p.2, cpLanded r p.1 0 (cpExtent r.cmd) && (match p.2.1 with
          | some k => cpHandled s r k
          | none => true))
      let due := if cpBare r.cmd then
          ((done.filter (·.2)).map fun x => x.1.1.getD r.core).filter fun k => !r.arrived.contains k
        else []
      let s1 := due.foldl (fun s k => s.once (.copyBarrierArrival id k)) s
      if due.isEmpty && done.all (·.2) then s1.once (.copyCompletion id) else s1

/-- The Measure engines see a copy end (R315). -/
def tapCopy (s : State) (core : Nat) (c : Cmd) (status cycles : Nat) : State :=
  tapEvent s core c.slot (tenantOf c.pid) 3 c.pc.toNat c.unitid.toNat (c.tid + 1) [c.tag + status * 2 ^ 16, cpSize c, cycles, 0]

/-- The elements of a packet converted, plane by plane, with their flags (R45, R283). `e` is the index of the first. -/
def cpConvert (c : Cmd) (e : Nat) (l : List Byte) : List (List Byte) × Flags :=
  if cpSfmt c = cpDfmt c then ([l], 0)
  else
    let vs := (inChunks (fmtBytes (cpSfmt c)) l.length l).map leNat
    if cpDfmt c = 8 then
      let ts := vs.map bf16Split
      ([ts.flatMap fun t => leBytes 2 t.1, ts.flatMap fun t => leBytes 2 t.2.1, ts.flatMap fun t => leBytes 2 t.2.2], 0)
    else
      let key : W64 := BitVec.ofNat 64 (c.unitid.toNat * 2 ^ 32 + c.field 0x28 4)
      let md (i : Nat) : CvtMode :=
        { rm := (rmOf (cpRnd c)).getD .rne, srnd := cpRnd c == 5, sat8 := bitAt c.words 32
          draw := (rndc key (BitVec.ofNat 64 i)).toNat / 256 }
      let rs := ((upFrom e vs.length).zip vs).map fun p => convert (cpDfmt c) (cpSfmt c) (md p.1) p.2
      ([rs.flatMap fun r => leBytes (fmtBytes (cpDfmt c)) r.1.toNat], rs.foldl (fun f r => f ||| r.2) 0)

/-- The places of the spans of a packet at every destination. -/
def cpPlaces (t : Thread) (spans : List (Nat × Nat)) : List (Option Nat × W64) → State → Except EngineStop (List (List (List (Loc × Nat))) × State)
  | [], s => .ok ([], s)
  | d :: rest, s =>
    let one := spans.foldl (fun (r : Except EngineStop (List (List (Loc × Nat)) × State)) x =>
      match r with
      | .error f => .error f
      | .ok (ls, s) =>
        match enginePlaces s t true (planePtr d.2 x.1) x.2 with
        | .error f => .error f
        | .ok (l, s1) => .ok (ls ++ [l], s1)) (.ok ([], s))
    match one with
    | .error f => .error f
    | .ok (ls, s1) =>
      match cpPlaces t spans rest s1 with
      | .error f => .error f
      | .ok (more, s2) => .ok (ls :: more, s2)

/-- A copy stops at a packet (R336): a revoked identifier ends it, another cause leaves it to the fault service. -/
def copyStop (s : State) (r : CopyRun) (cause : Nat) (p : W64) : State :=
  if cause = cREVOKED then copyAfter (s.modCopy r.id fun r => { r with status := stREVOKED, faddr := p }) r.id
  else notifyEngine (s.modCopy r.id fun r => { r with stopped := some cause, faddr := p }) r.core r.cmd cause p

/-- A copy that makes no arrival and starts no handler is read: its batch may count as finished before the bytes can be seen, which only the QPOP of its
record acquires (R232, R286, R406; log entry 121, DEDUCED). -/
def countsEarly (s : State) (id : Nat) : State :=
  match s.copy? id, s.ahead with
  | some r, .batch :: rest =>
    if cpSize r.cmd ≤ r.readTo ∧ !cpBare r.cmd ∧ !cpLhe r.cmd then
      { s with ahead := rest }.modThread r.cmd.tid fun t => batchOver t r.cmd
    else s
  | _, _ => s

/-- The streamer reads the next packet of a copy, to the next 256-byte boundary of the source, converts it and sends it to every
destination (R282, R283); where the hardware takes the read apart, it reads an aligned 4 bytes of it first (R220). A soft error in the conversion lands a wrong element (R401). -/
def readPacket (s : State) (r : CopyRun) : State :=
  let c := r.cmd
  let t := engineThread s c r.core
  let p := c.ptr 8 + BitVec.ofNat 64 r.readTo
  let n := Nat.min (cpSize c - r.readTo) (256 - p.toNat % 256)
  match engineRead s t (streamDie s r.core c) p n with
  | .error f => copyStop f.2.2 r f.1 f.2.1
  | .ok (data, s1) =>
    match s1.ahead with
    | .read k :: rest =>
      { s1 with ahead := rest, sys := s.sys }.modCopy r.id fun r => { r with cmd := r.cmd.gets [(p, n)] data k }
    | _ =>
    let spans := cpSpans c r.readTo (r.readTo + n)
    match cpPlaces t spans (cpDests c r.core) s1 with
    | .error f => copyStop f.2.2 r f.1 f.2.1
    | .ok (places, s2) =>
      let conv := cpConvert c (r.readTo / fmtBytes (cpSfmt c)) (withGot c.got data)
      let (wrong, s2) := if cpSfmt c = cpDfmt c then (none, s2) else takeUpset s2 fun u => match u with
        | .convert b => some b
        | _ => none
      let out := (conv.1.map (upsetBytes wrong 0), conv.2)
      let pks := ((upTo places.length).zip places).map fun q =>
        { num := r.nextPacket + q.1, dest := q.1, spans := spans
          parts := (q.2.zip out.1).flatMap fun x => cutTo x.1 x.2 : Packet }
      let s3 := s2.modCopy r.id fun r =>
        { r with cmd := r.cmd.hasRead, readTo := r.readTo + n, packets := r.packets ++ pks, nextPacket := r.nextPacket + pks.length, flags := r.flags ||| out.2 }
      (countsEarly s3 r.id).later (pks.map fun k => .copyPacket r.id k.num)

/-- The copies of a core that have a packet to read. -/
def unread (s : State) (core : Nat) : List CopyRun :=
  s.copies.filter fun r => r.core == core && r.stopped.isNone && !cpEnded r && decide (r.readTo < cpSize r.cmd) && !frozen s core r.cmd

/-- The oldest command of q2, unless it is held. -/
def copyHead (s : State) (core : Nat) : Option Cmd := (headCmd s core 2).filter fun c => !heldCmd s core c

/-- A command of q2 is taken: it is rejected, or a copy begins (R281, R282). -/
def copyAccept (s : State) (core : Nat) (c : Cmd) : State :=
  let s1 := takeCmd s core 2
  match cpCheck s core c with
  | some r => tapCopy (deliver s1 core c 1 r.status 0 0 r.faddr) core c r.status 0
  | none =>
    let run : CopyRun :=
      { id := s.nextId, core := core, part := (partOfCore s core).getD 0, cmd := c, readTo := 0, packets := [], nextPacket := 0
        chunks := [], arrived := [], flags := 0, status := 0, faddr := 0, stopped := none, began := s.ts }
    { s1 with copies := s1.copies ++ [run], nextId := s1.nextId + 1 }

/-- One step of the streamers for a core: the next command, or the next packet of the copies under way, which read one packet each in turn (log entry
129, DESIGN CHOICE). -/
def copyStep (s : State) (core : Nat) : State :=
  let s1 :=
    match copyHead s core with
    | some c => copyAccept s core c
    | none =>
      match unread s core with
      | [] => s
      | r :: _ => readPacket { s with copies := s.copies.filter (fun x => x.id ≠ r.id) ++ [r] } r
  if (copyHead s1 core).isSome || !(unread s1 core).isEmpty then s1.once (.copy core) else s1

/-- A packet has landed: what waited for it is due (R282, R288, R291). -/
def packetLanded (s1 : State) (r : CopyRun) (k : Packet) : State :=
  let s2 := s1.modCopy r.id fun r => { r with packets := r.packets.filter fun x => x.num ≠ k.num }
  let s3 := if cpLhe r.cmd then
      (match ((cpDests r.cmd r.core).getD k.dest (none, 0)).1 with
        | some core => s2.once (.landingHandlerStart core)
        | none => s2)
    else s2
  copyAfter s3 r.id

/-- One step of a packet's landing: one of its pieces is written, the choice being open (R220, R289); with the last one it has landed. A packet whose
way is cut lands whole or not at all (R391). What a poisoned flit brings is poisoned, and a granule that the packet has wholly written is poisoned no longer
(R399, R400). -/
def landPacket (s : State) (r : CopyRun) (k : Packet) : State :=
  let die := streamDie s r.core r.cmd
  if k.parts.any fun x => cutOff s die x.1 then
    packetLanded (engineWrite s die r.core r.cmd (r.cmd.ptr 0x10) (k.parts.map fun x => (x.1, x.2.length)) (k.parts.flatMap (·.2))) r k
  else
    let c := pickOf s k.parts.length
    let p := k.parts.getD c.1 (.dropped, [])
    let left := k.parts.eraseIdx c.1
    let wrote (s : State) : State := if k.bad.contains p.1 then spoil s p.1 p.2.length else coverPoison s p.1 p.2.length k.done
    let s1 := if k.parts.isEmpty then s else wrote (engineStore (dieOf r.core) [(p.1, p.2.length)] p.2 c.2)
    if left.isEmpty then packetLanded s1 r k
    else
      let s2 := s1.modCopy r.id fun r => { r with packets := r.packets.map fun x => if x.num = k.num then { x with parts := left, done := (p.1, p.2.length) :: k.done } else x }
      { s2 with agenda := .copyPacket r.id k.num :: s2.agenda }

/-! ### Landing handlers (R288, R290) -/

/-- The destination number of a core in a copy. -/
def cpDestOf (r : CopyRun) (core : Nat) : Option Nat := (cpDests r.cmd r.core).findIdx? fun d => d.1 == some core

/-- The next chunk of a copy on a core joins those that wait for slot 14, once it has landed and the handler of the chunk before
it has quit. Where the core has no slot 14, no handler runs and the record will say so. -/
def readyChunk (core : Nat) (s : State) (r : CopyRun) : State :=
  let k := countGet r.chunks core
  let lo := k * cpChunk r.cmd
  let n := Nat.min (cpChunk r.cmd) (cpExtent r.cmd - lo)
  match cpDestOf r core with
  | none => s
  | some d =>
    if frozen s r.core r.cmd || !cpLhe r.cmd || decide (cpChunks r.cmd ≤ k) || !cpLanded r d lo n || (s.core core).landing.any (fun x => x.1 == r.id) then s
    else if reservedOn s core 14 then
      (s.modCopy r.id fun r => { r with chunks := countMod r.chunks core (· + 1) }).modCore core fun c =>
        { c with landing := c.landing ++ [(r.id, k)] }
    else s.modCopy r.id fun r => { r with chunks := countMod r.chunks core fun _ => cpChunks r.cmd, status := worseStatus r.status stNOHANDLER }

/-- The handler of the first chunk in line starts, unless one runs on slot 14. Chunks of copies that are gone leave the line. -/
def startChunk (s0 : State) (core : Nat) : State :=
  let s := s0.modCore core fun c => { c with landing := c.landing.dropWhile fun x => (s0.copy? x.1).isNone }
  let busy := s.allThreads.any fun t => t.core == core && t.slot == 14 && t.handler.isSome && t.img.isNone
  match busy, (s.core core).landing with
  | false, (id, k) :: _ =>
    match s.copy? id with
    | none => s
    | some r =>
      if frozen s r.core r.cmd then s
      else
        let off := addrOf (((cpDests r.cmd r.core).find? fun d => d.1 == some core).getD (none, 0)).2 % 2 ^ 20
        let lo := k * cpChunk r.cmd
        startHandler s core (.landing id) r.cmd.pid r.cmd.unitid (r.cmd.ptr 0x30)
          [locPtr (off + lo), BitVec.ofNat 64 k, BitVec.ofNat 64 (Nat.min (cpChunk r.cmd) (cpExtent r.cmd - lo)), BitVec.ofNat 64 r.cmd.tag]
  | _, _ => s

/-- What is due on slot 14 of a core. -/
def landingStep (s : State) (core : Nat) : State :=
  let s1 := startChunk (s.copies.foldl (readyChunk core) s) core
  (s1.copies.filter fun r => (cpDestOf r core).isSome).foldl (fun s r => copyAfter s r.id) s1

/-! ### Arrival and completion (R285, R286, R311) -/

/-- The arrival at a destination core's barrier word, with a count of 1; a malformed word takes none. -/
def copyArrives (s : State) (r : CopyRun) (core : Nat) : State :=
  let key := poolKey core (r.cmd.field 0x2C 4)
  let s1 := s.modCopy r.id fun r => { r with arrived := core :: r.arrived }
  copyAfter (match arrive (s.pool.readNat key 8) 1 with
    | some v => putPool s1 key 8 v
    | none => s1.modCopy r.id fun r => { r with status := worseStatus r.status stBARRIER }) r.id

/-- A copy is complete: its record is delivered (R286). -/
def copyCompletes (s : State) (r : CopyRun) : State :=
  let s1 := { s with copies := s.copies.filter fun x => x.id ≠ r.id }
  tapCopy (deliver s1 r.core r.cmd 1 r.status r.flags r.readTo r.faddr) r.core r.cmd r.status (s.ts - r.began)

/-- COPY (R269, R282 to R284, R309, R310, R312). -/
def execCopy (core : Nat) (s : State) : Result :=
  .next (copyStep s core)

/-- COPY_PACKET (R282, R283, R289, R291). -/
def execCopyPacket (id : Nat) (dest : Nat) (s : State) : Result :=
  match s.copy? id with
  | none => .next s
  | some r =>
    match r.packets.find? fun k => k.num == dest with
    | none => .next s
    | some k => .next (landPacket s r k)

/-- LANDING_HANDLER_START (R288, R290, R326). -/
def execLandingHandlerStart (core : Nat) (s : State) : Result :=
  .next (landingStep s core)

/-- COPY_BARRIER_ARRIVAL (R165, R166, R285). -/
def execCopyBarrierArrival (id : Nat) (core : Nat) (s : State) : Result :=
  match s.copy? id with
  | none => .next s
  | some r => .next (if frozen s r.core r.cmd then s else copyArrives s r core)

/-- COPY_COMPLETION (R286, R301, R311, R312, R337, R338). -/
def execCopyCompletion (id : Nat) (s : State) : Result :=
  match s.copy? id with
  | none => .next s
  | some r => .next (if frozen s r.core r.cmd then s else copyCompletes s r)

end Sys2Proof.Machine
end

