-- ==== Sys2Proof/Machine/Collective.lean ====
section
/-!
DEFINITION. Column sums (22 R382, R386 to R389) and the Crown (R392 to R394).
-/
namespace Sys2Proof.Machine

/-! ### The package mesh (R382) -/

/-- Global column of a core's cluster. -/
def globalX (core : Nat) : Nat := 16 * (dieOf core % 2) + core / 4 % 16
/-- Global row. -/
def globalY (core : Nat) : Nat := 16 * (dieOf core / 2) + core / 64 % 16
/-- Core `k` of the cluster at a global position. -/
def coreAt (x y k : Nat) : Nat := (2 * (y / 16) + x / 16) * 1024 + y % 16 * 64 + x % 16 * 4 + k

/-! ### COLSUM (R386 to R389) -/

/-- RID. -/
def csRid (c : Cmd) : Nat := bits c.words 28 16
/-- BARE. -/
def csBare (c : Cmd) : Bool := bitAt c.words 27
/-- SIZE. -/
def csSize (c : Cmd) : Nat := c.field 0x24 4
/-- The rows that RMASK names, from the highest down. -/
def csRows (c : Cmd) : List Nat := ((upTo 32).filter fun y => bitAt (c.field 0x20 4) y).reverse
/-- The cores that CMASK names. -/
def csCores (c : Cmd) : List Nat := (upTo 4).filter fun k => bitAt (c.field 0x28 8) k
/-- Column X. -/
def csCol (c : Cmd) : Nat := bits (c.field 0x18 8) 16 5
/-- Destination core. -/
def csDest (c : Cmd) : Nat := bits (c.field 0x18 8) 0 12
/-- Destination offset. -/
def csOff (c : Cmd) : Nat := bits (c.field 0x10 8) 0 20
/-- BAR. -/
def csBar (c : Cmd) : Nat := bits (c.field 0x28 8) 32 20

/-- Is a reserved or an unused field not zero. -/
def csReserved (c : Cmd) : Bool :=
  bits c.words 0 25 != 0 || c.kind != 0 || decide (2 ^ 20 ≤ c.field 0x10 8) || bits (c.field 0x18 8) 12 4 != 0 ||
    decide (2 ^ 21 ≤ c.field 0x18 8) || bits (c.field 0x28 8) 4 28 != 0 || decide (2 ^ 52 ≤ c.field 0x28 8) ||
    (!csBare c && csBar c != 0) || c.field 0x30 16 != 0

/-- Is a sum in its partition's routers: a WORLD switch saves the sums of the outgoing context with it (R389). -/
def sumPresent (s : State) (x : SumRun) : Bool :=
  ((s.thread? x.first.tid).any (isClass0 s)) || (s.part x.part).holder == some x.first.pid

/-- The sum in progress with a command's RID in its partition. -/
def openSum (s : State) (core : Nat) (c : Cmd) : Option SumRun :=
  s.sums.find? fun x => some x.part == partOfCore s core && x.rid == csRid c && sumPresent s x

/-- DEST (R388). -/
def csBadDest (s : State) (core : Nat) (c : Cmd) : Bool :=
  (csRows c).isEmpty || (csCores c).isEmpty || globalX core != csCol c || !(csRows c).contains (globalY core) ||
    !(csCores c).contains (core % 4) ||
    (match openSum s core c with
      | none => false
      | some x =>
        let f := x.first
        f.field 0x10 8 != c.field 0x10 8 || f.field 0x18 8 != c.field 0x18 8 || f.field 0x20 8 != c.field 0x20 8 ||
          f.field 0x28 8 != c.field 0x28 8 || bits f.words 25 1 != bits c.words 25 1 || csBare f != csBare c ||
          x.parts'.any fun p => p.1 == core)

/-- Does a named core, or a cluster of the column between the outermost rows, lie outside the partition, or is a named one fenced
off (R388, R395). -/
def csOutside (s : State) (core : Nat) (c : Cmd) : Bool :=
  let hi := (csRows c).headD 0
  let lo := (csRows c).getLast?.getD 0
  ((upFrom lo (hi + 1 - lo)).any fun y => partOfCore s (coreAt (csCol c) y 0) != partOfCore s core) ||
    ((csRows c).any fun y => fenced s (coreAt (csCol c) y 0)) || partOfCore s (csDest c) != partOfCore s core || fenced s (csDest c)

/-- The check of a column-sum command, whole, in the order of R312 (R388). -/
def csCheck (s : State) (core : Nat) (c : Cmd) : Option Reject :=
  let t := engineThread s c core
  let src := [(c.ptr 8, csSize c)]
  let dst := (nbrPtr (csDest c) (csOff c), csSize c) :: if csBare c then [(nbrPtr (csDest c) (csBar c), 8)] else []
  firstReject
    [rejectIf (csReserved c) stRESV, rejectIf (csBadDest s core c) stDEST, rejectIf (csSize c == 0 || decide (65536 < csSize c)) stSIZE,
     addrReject s t (src ++ dst),
     if csSize c % 4 ≠ 0 then some { status := stALIGN, faddr := c.ptr 8 } else none,
     alignReject 4 [c.ptr 8, nbrPtr (csDest c) (csOff c)], alignReject 8 [nbrPtr (csDest c) (csBar c)],
     if csOutside s core c then some { status := stPROT, faddr := nbrPtr (csDest c) (csOff c) } else none,
     protReject s t false false [0, 2] src, protReject s t false true [3] dst]

/-- Change a sum. -/
def State.modSum (s : State) (id : Nat) (f : SumRun → SumRun) : State := { s with sums := s.sums.map fun x => if x.id = id then f x else x }
/-- A sum by its number. -/
def State.sum? (s : State) (id : Nat) : Option SumRun := s.sums.find? fun x => x.id == id

/-- The contributions of a row that have arrived, by core, with their bytes. -/
def rowParts (x : SumRun) (y : Nat) : Option (List (List Byte)) :=
  let got := (csCores x.first).map fun k =>
    match x.parts'.find? fun p => p.1 == coreAt (csCol x.first) y k with
    | some p => p.2.2
    | none => none
  if got.all Option.isSome then some (got.filterMap id) else none

/-- The next step of a sum: the addition of its next row once that row's contributions are there, or its landing (R386, R389). -/
def sumAfter (s : State) (id : Nat) : State :=
  match s.sum? id with
  | none => s
  | some x =>
    match x.rows with
    | [] => s.once (.colsumLanding id)
    | y :: _ => if (rowParts x y).isSome then s.once (.columnSumAdd id y) else s

/-- Every core of a partition whose collective engine has a command turns to it again. -/
def colsumKicks (s : State) (part : Nat) : State :=
  (s.cores.filter fun c => partOfCore s c.1 == some part && (headCmd s c.1 4).isSome).foldl (fun s c => s.once (.colsum c.1)) s

/-- A sum ends early: every contributor's record carries the status and the offending pointer; the one whose read failed is ended by the fault
service (R311, R336, R389). -/
def sumEnds (s : State) (x : SumRun) (status : Nat) (failed : Option (Nat × Nat)) (p : W64) : State :=
  let s1 := { s with sums := s.sums.filter fun y => y.id ≠ x.id }
  let s2 := x.parts'.foldl (fun s q =>
    match failed with
    | some (k, cause) =>
      if q.1 = k then endByService s q.1 q.2.1 2 cause x.flags 0 p else deliver s q.1 q.2.1 2 status x.flags 0 p
    | none => deliver s q.1 q.2.1 2 status x.flags 0 p) s1
  colsumKicks s2 x.part

/-- The engine reads a contribution; a fault stops it there (R336, R389). -/
def readContribution (s : State) (id core : Nat) (c : Cmd) : State :=
  match engineRead s (engineThread s c core) (dieOf core) (c.ptr 8) (csSize c) with
  | .ok (b, s1) =>
    sumAfter (s1.modSum id fun x => { x with
      parts' := x.parts'.map fun p => if p.1 = core then (p.1, p.2.1, some (withGot c.got b)) else p, stops := x.stops.filter fun e => e.1 ≠ core }) id
  | .error f =>
    if f.1 = cREVOKED then
      match f.2.2.sum? id with
      | some x => sumEnds f.2.2 x stREVOKED none f.2.1
      | none => f.2.2
    else
      notifyEngine (f.2.2.modSum id fun x => { x with stops := (core, f.1, f.2.1.toNat) :: x.stops.filter fun e => e.1 ≠ core }) core c f.1 f.2.1

/-- Where the hardware takes the read of a contribution apart, an aligned 4 bytes of it are read ahead of the rest (R220). -/
def readsAhead (s : State) (core : Nat) (c : Cmd) : Option State :=
  match s.ahead with
  | .read k :: rest =>
    match engineRead s (engineThread s c core) (dieOf core) (c.ptr 8) (csSize c) with
    | .ok (b, s1) =>
      some ((putBack (takeCmd { s1 with ahead := rest, sys := s.sys } core 4) core (c.gets [(c.ptr 8, csSize c)] b k)).once (.colsum core))
    | .error _ => none
  | _ => none

/-- The collective engine of a core takes its next command (R269, R388): it is rejected, it opens or joins a sum, or it waits because
four sums of the partition are open. -/
def colsumStep (s : State) (core : Nat) : State :=
  match headCmd s core 4 with
  | none => s
  | some c =>
    if heldCmd s core c then s
    else
      let more (s : State) : State := if (headCmd s core 4).isSome then s.once (.colsum core) else s
      match csCheck s core c with
      | some r => more (deliver (takeCmd s core 4) core c 2 r.status 0 0 r.faddr)
      | none =>
        match readsAhead s core c with
        | some s1 => s1
        | none =>
        match openSum s core c with
        | some x =>
          more (readContribution ((takeCmd s core 4).modSum x.id fun x => { x with parts' := x.parts' ++ [(core, c, none)] }) x.id core c)
        | none =>
          let part := (partOfCore s core).getD 0
          if 4 ≤ (s.sums.filter fun x => x.part == part && sumPresent s x).length then s
          else
            let x : SumRun :=
              { id := s.nextId, part := part, rid := csRid c, first := c, parts' := [(core, c, none)], rows := csRows c, acc := none
                flags := 0, status := 0, stops := [] }
            let s1 := takeCmd s core 4
            more (readContribution { s1 with sums := s1.sums ++ [x], nextId := s1.nextId + 1 } x.id core c)

/-- ADD of two contributions, element by element (R386). -/
def csAdd (int : Bool) (a b : List Byte) : List Byte × Flags :=
  let es (l : List Byte) : List Nat := (inChunks 4 l.length l).map leNat
  if int then ((List.zipWith (fun x y => leBytes 4 ((x + y) % 2 ^ 32)) (es a) (es b)).flatten, 0)
  else
    let r := List.zipWith (fadd32 .rne) (es a) (es b)
    (r.flatMap fun x => leBytes 4 x.1, orFlags r)

/-- The sum of a list of contributions from the first on. -/
def csFold (int : Bool) : List (List Byte) → List Byte × Flags
  | [] => ([], 0)
  | b :: rest => rest.foldl (fun r x => ((csAdd int r.1 x).1, r.2 ||| (csAdd int r.1 x).2)) (b, 0)

/-- A router adds its row to the packet from above (R386). A soft error in its adder leaves a wrong sum (R401). -/
def addRow (s0 : State) (x : SumRun) (y : Nat) : State :=
  match rowParts x y with
  | none => s0
  | some bs =>
    let (wrong, s) := takeUpset s0 fun u => match u with
      | .sum b => some b
      | _ => none
    let int := bitAt x.first.words 25
    let loc := csFold int bs
    let r := match x.acc with
      | none => loc
      | some a => ((csAdd int a loc.1).1, loc.2 ||| (csAdd int a loc.1).2)
    sumAfter (s.modSum x.id fun x => { x with rows := x.rows.drop 1, acc := some (upsetBytes wrong 0 r.1), flags := x.flags ||| r.2 }) x.id

/-- The hem edges that the packets of a sum cross: down their column, and from its last row to the destination (R383, R386). -/
def sumRoute (x : SumRun) : List Link :=
  let at' (y : Nat) : Nat := dieOf (coreAt (csCol x.first) y 0)
  let lo := at' ((csRows x.first).getLast?.getD 0)
  hemRoute (at' ((csRows x.first).headD 0)) lo ++ hemRoute lo (dieOf (csDest x.first))

/-- A sum has landed, or is lost: it arrives at its barrier word, and every contributor's record is delivered (R389). -/
def sumLanded (s1 : State) (x : SumRun) (lost : Bool) : State :=
  let c := x.first
  let key := poolKey (csDest c) (csBar c)
  let r : State × Nat :=
    if csBare c && !lost then
      match arrive (s1.pool.readNat key 8) 1 with
      | some v => (putPool s1 key 8 v, 0)
      | none => (s1, stBARRIER)
    else (s1, 0)
  let s2 := { r.1 with sums := r.1.sums.filter fun y => y.id ≠ x.id }
  colsumKicks (x.parts'.foldl (fun s p => deliver s p.1 p.2.1 2 r.2 x.flags (x.acc.getD []).length 0) s2) x.part

/-- The landing of a sum that is made in parts goes on (R220). -/
def sumWrites (s : State) (x : SumRun) : State :=
  let r := writeOn s (dieOf (csDest x.first)) x.writing
  if r.2.left.isEmpty then sumLanded r.1 x false else (r.1.modSum x.id fun x => { x with writing := r.2 }).once (.colsumLanding x.id)

/-- The sum lands, whole or in parts (R220), arrives at its barrier word, and every contributor's record is delivered (R389). Where its way is cut it may land or not, and the
fault service is told (R391; log entry 8, DESIGN CHOICE). -/
def sumLands (s0 : State) (x : SumRun) : State :=
  if !x.writing.left.isEmpty then sumWrites s0 x
  else
  let c := x.first
  let bytes := x.acc.getD []
  let cut := (sumRoute x).any (s0.linksDown.contains ·)
  let lost := cut && !Config.unansweredStorePerformed s0.freeNext
  let s := if cut then notifyEngine { s0 with freeNext := s0.freeNext + 1 } (x.parts'.headD (csDest c, c, none)).1 c cPOISON (nbrPtr (csDest c) (csOff c)) else s0
  let at' : Loc × Nat := (.pool (poolKey (csDest c) (csOff c)), bytes.length)
  match s.ahead, cut with
  | .write _ :: _, false => sumWrites s { x with writing := { left := cutTo [at'] bytes, done := [] } }
  | _, _ => sumLanded (if lost then s else engineStore (dieOf (csDest c)) [at'] bytes s) x lost

/-! ### The Crown (R392 to R394) -/

/-- Words of a ring descriptor: header and up to 64 members. -/
structure Ring where
  nmem : Nat
  hold : Nat
  round : Nat
  cst : Nat
  reserved : Bool
  members : List Nat
  deriving DecidableEq, Repr

/-- Read a ring descriptor through the context's tables; the members follow the header. -/
def readRing (s : State) (p : W64) : Except (Nat × Nat) Ring :=
  match ctxRead s s.cur.pid (addrOf p) 64 with
  | .error f => .error f
  | .ok h =>
    let n := fieldOf h 0 4
    if n < 2 ∨ 64 < n then
      .ok { nmem := n, hold := fieldOf h 4 4, round := fieldOf h 8 8, cst := fieldOf h 0x10 4, reserved := false, members := [] }
    else
      match ctxRead s s.cur.pid (addrOf p + 0x40) (8 * n) with
      | .error f => .error f
      | .ok m =>
        let ms := (upTo n).map fun i => fieldOf m (8 * i) 8
        .ok { nmem := n, hold := fieldOf h 4 4, round := fieldOf h 8 8, cst := fieldOf h 0x10 4
              reserved := fieldOf h 0x14 44 != 0 || ms.any fun w => bits w 18 45 != 0, members := ms }

/-- Does a member dword name a core of this package, and is it not passed over. -/
def isMe (s : State) (core w : Nat) : Bool := !bitAt w 63 && bits w 12 6 == s.pkgId && bits w 0 12 == coreField core

/-- Both Crown instructions: the pointer's checks, the open windows, and the descriptor (R393). A descriptor of a revoked frame reads as zero and is
not written (R210). One whose way is cut gives poisoned data, may have been written or not, and the fault service is told (R391; log entry 8, DESIGN
CHOICE). -/
def withRing (s : State) (d : BitVec 5) (p : W64) (k : State → Nat → Ring → State) : State :=
  if pathOf p ≠ 0 then trap s cADDR p
  else
    withPlaces s .atomic 64 [] [p] fun s ls =>
      if heldByRelease s s.cur.tid s.cur.core (ls.map fun l => { ptr := p, loc := l, n := 64, data := [] }) then retry s
      else whenReachable s ls fun s0 => irreversible s0 p fun s =>
        match ls with
        | [.mem pa] =>
          if cutOff s (dieOf s.cur.core) (.mem pa) then
            let s1 := tellUnanswered { s with freeNext := s.freeNext + 2 } s.cur 2 0 p
            let s2 := match Config.unansweredStorePerformed s.freeNext, readRing s p with
              | true, .ok r => if (k s1 pa r).flow = s1.flow then k s1 pa r else s1
              | _, _ => s1
            putReg s2 (wsOf s) (.x d.toNat) (leNat ((upTo 8).map (Config.freeByte (s.freeNext + 1)))) true
          else
            match readRing s p with
            | .error f => suspendFault s0 f.1 2 0 (BitVec.ofNat 64 f.2) 0 s0.cur.pc
            | .ok r => k s pa r
        | [.dropped] => wX s d 0
        | _ => trap s cPROT p

/-- CRTAKE's result: ROUND, poisoned where the descriptor's is (R400). -/
def crownRound (s : State) (pa : Nat) (d : BitVec 5) (round : Nat) : State := putReg s (wsOf s) (.x d.toNat) round (s.hbmPoison.contains ((pa + 8) / 8))

/-- CRTAKE (R393). A thread that waits counts as waiting until its CRTAKE has ended, also while it tries again; the check for another waiter is
made once, before it waits. One that waits or traps fixes no window (R216; log entry 81, DEDUCED). -/
def crtake (s : State) (d : BitVec 5) (p : W64) : State :=
  match s.cur.wait with
  | some (.crown ring at') => stall s (.crown ring at')
  | _ =>
    unheld s true false fun s0 => withRing s0 d p fun s pa r =>
      if s.cur.crowns.contains pa then crownRound s pa d r.round
      else if s.cur.crownWait ≠ some pa ∧ s.allThreads.any fun t => t.tid != s.cur.tid && t.core == s.cur.core && t.crownWait == some pa
        then trap s0 cPROT p
      else if r.nmem < 2 ∨ 64 < r.nmem ∨ r.reserved then trap s0 cPROT p
      else if !(r.members.any fun w => isMe s s.cur.core w) then trap s0 cPROT p
      else if r.cst = 0 ∧ isMe s s.cur.core (r.members.getD r.hold (2 ^ 63)) then
        let s1 := { s with hbm := s.hbm.writeNat (pa + 0x10) 4 1 }
        crownRound (s1.modCur fun t => { t with crowns := pa :: t.crowns }) pa d r.round
      else (stall s0 (.crown pa (s.ts + 2 ^ 16))).modCur fun t => { t with crownWait := some pa }

/-- The first member after HOLD that is not passed over, HOLD itself if there is none. -/
def nextMember (r : Ring) : Nat :=
  (((upFrom 1 r.nmem).map fun i => (r.hold + i) % r.nmem).find? fun i => !bitAt (r.members.getD i (2 ^ 63)) 63).getD r.hold

/-- CRPASS (R393). A message to a member of another package leaves the package. -/
def crpass (s : State) (d : BitVec 5) (p : W64) : State :=
  whenDrained s fun s0 => withRing s0 d p fun s pa r =>
    if !s.cur.crowns.contains pa then trap s0 cPROT p
    else
      let j := nextMember r
      let m := (s.hbm.writeNat (pa + 4) 4 j).writeNat (pa + 8) 8 (r.round + 1)
      let s1 := { s with hbm := m.writeNat (pa + 0x10) 4 0, hbmPoison := unpoison s.hbmPoison (pa + 8) 8 }.modCur fun t => { t with crowns := t.crowns.filter (· ≠ pa) }
      let w := r.members.getD j 0
      let s2 := if bits w 12 6 = s.pkgId then s1.later [.crownPassMessage (bits w 0 12) pa (routerOf s.cur.core) (isClass0 s s.cur)] else s1
      wX s2 d (BitVec.ofNat 64 j)

/-- A thread that waits in CRTAKE tries again. -/
def crownRetries (s : State) (tid : Nat) : State :=
  wakeThread (s.modThread tid fun t => { t with wait := some .released }) tid

/-- Does a thread wait in CRTAKE on a ring, on a core. -/
def waitsForCrown (t : Thread) (core ring : Nat) : Bool :=
  coreField t.core == core && (match t.wait with
    | some (.crown x _) => x == ring
    | _ => false)

/-- COLSUM (R269, R387, R388). -/
def execColsum (core : Nat) (s : State) : Result :=
  .next (colsumStep s core)

/-- COLUMN_SUM_ADD (R386). -/
def execColumnSumAdd (id : Nat) (row : Nat) (s : State) : Result :=
  match s.sum? id with
  | none => .next s
  | some x => .next (if x.rows.head? = some row ∧ !frozen s (csDest x.first) x.first then addRow s x row else s)

/-- COLSUM_LANDING (R285, R291, R389). -/
def execColsumLanding (id : Nat) (s : State) : Result :=
  match s.sum? id with
  | none => .next s
  | some x => .next (if frozen s (csDest x.first) x.first then s else sumLands s x)

/-- CRPASS (R392, R393). -/
def execCrpass (d : BitVec 5) (b : BitVec 5) (g : BitVec 4) (s : State) : Result :=
  .next (guarded g s fun s => crpass s d (rX s b))

/-- CRTAKE (R392, R393). -/
def execCrtake (d : BitVec 5) (b : BitVec 5) (g : BitVec 4) (s : State) : Result :=
  .next (guarded g s fun s => crtake s d (rX s b))

/-- CROWN_PASS_MESSAGE (R393, R394). A waiter whose context is switched out keeps its wait (R342). -/
def execCrownPassMessage (core : Nat) (ring : Nat) (s : State) : Result :=
  .next ((s.allThreads.filter fun t => waitsForCrown t core ring && mayRun s t).foldl (fun s t => crownRetries s t.tid) s)

/-- CRTAKE_RECHECK (R393, R394). -/
def execCrtakeRecheck (tid : Nat) (s : State) : Result :=
  .next (match s.thread? tid with
    | none => s
    | some t =>
      match t.wait with
      | some (.crown _ at') => if at' ≤ s.ts then crownRetries s tid else s
      | _ => s)

end Sys2Proof.Machine
end

