-- ==== Sys2Proof/Machine/Stops.lean ====
section
/-!
DEFINITION. Stopping a thread at a bundle boundary for a debugger, a Measure trigger or a WORLD switch (R320, R342, R354).
-/
namespace Sys2Proof.Machine

/-- Has the bundle that the thread is in begun an effect that cannot begin again: it ends before the thread can stop. -/
def midBundle (t : Thread) : Bool :=
  t.seam.isSome || (match t.wait with
    | some (.append _) => true
    | some (.literal _) => true
    | some (.stinv _) => true
    | some (.kill _) => true
    | some .seamAnswer => true
    | some .released => true
    | _ => false)

/-- What a thread that waits in its bundle has counted is taken back, so that the bundle can execute again (R342). -/
def backOut (s : State) (t : Thread) : State :=
  let s1 := dropWaiter s t
  match t.wait with
  | some (.group g) => s1.modLaunch t.lnch fun l => { l with arr := countMod l.arr g (· - t.mcnt.toNat) }
  | _ => s1

/-- A stopped thread's debugger is told (R333, R352): x3 is 0, which a CCGO TRAP then takes (R334). -/
def stopNotice (s : State) (t : Thread) : State :=
  debugNotice (s.modThread t.tid fun t => { t with lastFault := 0 }) t (stopWord 0 15 0 t.core t.slot) 0

/-- A thread leaves its slot, or its queue, before its next bundle. A stop is no suspension point of R127 and keeps all registers
(log entry 27, DEDUCED). A thread that is pre-empted while a STOP is pending on it is saved as STOPPED, with its declaration (R360); a STEP
that is not used up goes on after the restore (R352). -/
def leaveSlot (s : State) (t : Thread) (st : TState) : State :=
  let stops : Bool := st == .stopped || (st == .preempted && t.stopNext)
  let s1 := (backOut s t).modThread t.tid fun t =>
    { t with
      state := if stops then .stopped else st, npc := t.pc, place := .nowhere, stopNext := false, turnsLeft := none
      stepsLeft := if stops then none else t.stepsLeft, slotHeld := stops && t.state == .running
      idleTs := if t.state = .running then s.ts else t.idleTs, wait := if t.wait = some .released then t.wait else none }
  if st = .stopped then saveImage (saveRecord s1 t.tid) t.tid
  else if stops then stopNotice (settle s1 t.tid) t
  else settle s1 t.tid

/-- A STOP (R352, R354): at once where the thread is at a bundle boundary, else at the next one, or when it would become ready. -/
def stopThread (s : State) (tid : Nat) : State :=
  match s.thread? tid with
  | none => s
  | some t =>
    if t.state = .stopped then s
    else if (t.state = .running ∧ !midBundle t) ∨ t.state = .ready then stopNotice (leaveSlot s t .stopped) t
    else s.modThread tid fun t => { t with stopNext := true }

end Sys2Proof.Machine
end

