-- ==== Sys2Proof/Machine/Measure.lean ====
section
/-!
DEFINITION. The Measure coprocessor: events, filters, budgets, objects, triggers and the commands of q6 (16 R314 to R325).
-/
namespace Sys2Proof.Machine

/-! ### Objects, triggers and filters -/

/-- Object of a tenant, by its index and type. -/
def objOf (m : Measure) (tenant idx type : Nat) : Option MObj :=
  m.objs.find? fun o => o.idx == idx && o.tenant == tenant && o.type == type

/-- A counter in the store rises, saturating (R318). -/
def bumpCell (m : Measure) (a v : Nat) : Measure :=
  { m with store := m.store.writeNat a 4 (Nat.min (m.store.readNat a 4 + v) (2 ^ 32 - 1)) }

/-- A record in a trace ring (R321). -/
def appendRing (m : Measure) (o : MObj) (ev : List W32) (fa fb cls : Nat) : Measure :=
  let ws := (ev.take 4).map (·.toNat) ++ [fa, fb, cls % 256, o.seq % 2 ^ 32]
  { m with
    store := m.store.writeBytes (o.off + 32 * (o.seq % o.p1)) (ws.flatMap (leBytes 4))
    objs := m.objs.map fun x => if x.idx = o.idx then { x with seq := x.seq + 1 } else x }

/-- KEY of FLHASH and the sketches (R318). -/
def flKey (r : Nat) : Nat := match r with
  | 0 => 0x5A173C01
  | 1 => 0x6B284D12
  | 2 => 0x7C395E23
  | _ => 0x8D4A6F34
/-- mix of a value and a KEY. -/
def flHash (v r : Nat) : Nat := (mix (BitVec.ofNat 32 (Nat.xor v (flKey r)))).toNat

/-- What a filter's object instructions do to the engine (R318, R321). -/
def flObject (m : Measure) (tenant op idx fa fb cls : Nat) (ev : List W32) : Measure :=
  match op with
  | 0x08 =>
    match objOf m tenant idx 1 with
    | some o => bumpCell m (o.off + 4 * Nat.min fa (o.p1 - 1)) fb
    | none => m
  | 0x09 =>
    match objOf m tenant idx 2 with
    | some o => (upTo o.p2).foldl (fun m r => bumpCell m (o.off + 4 * (r * o.p1 + flHash fa r % o.p1)) fb) m
    | none => m
  | 0x0A =>
    match objOf m tenant idx 3 with
    | some o =>
      let a := o.off + 4 * Nat.min fa (o.p1 - 1)
      { m with store := m.store.writeNat a 4 (Nat.max (m.store.readNat a 4) fb) }
    | none => m
  | _ =>
    match objOf m tenant idx 4 with
    | some o => appendRing m o ev fa fb cls
    | none => m

/-- The action of a trigger that has fired (R320). The event's ninth word is the number of its thread plus 1. -/
def triggerActs (s : State) (cluster : Nat) (t : MTrig) (ev : List W32) (fa cls : Nat) : State :=
  match t.act with
  | 0 => s.modMeasure cluster fun m =>
    match objOf m t.tenant t.arg 4 with
    | some o => appendRing m o ev fa 0 cls
    | none => m
  | 1 =>
    match (ev.getD 8 0).toNat with
    | 0 => s
    | k + 1 => stopThread s k
  | 2 =>
    let recd : W64 := if (s.thread? t.tid).isSome then t.recd else 0
    s.later [.faultNotification t.pid recd (stopWord 0 4 0 t.core t.slot) (BitVec.ofNat 64 fa) (BitVec.ofNat 64 t.arg)]
  | _ => s

/-- FLTRIG: a trigger that the tenant holds armed fires, and is disarmed (R320). -/
def fireTrigger (s : State) (cluster tenant i : Nat) (ev : List W32) (fa cls : Nat) : State :=
  match (s.measureOf cluster).trigs.find? fun t => t.idx == i && t.tenant == tenant with
  | none => s
  | some t =>
    let s1 := s.modMeasure cluster fun m =>
      ({ m with trigs := m.trigs.filter fun x => x.idx ≠ i } : Measure).modCount tenant fun c =>
        { c with fired := (i, (firedOf c i).1 + 1, fa) :: c.fired.filter fun f => f.1 ≠ i }
    triggerActs s1 cluster t ev fa cls

/-- Set a filter register. -/
def flSet (r : List Nat) (d v : Nat) : List Nat := r.set d (v % 2 ^ 32)

/-- The cell that a filter's counting instruction writes, the first of a sketch's (R318). -/
def flCell (m : Measure) (tenant op idx fa : Nat) : Option Nat :=
  match op with
  | 0x08 => (objOf m tenant idx 1).map fun o => o.off + 4 * Nat.min fa (o.p1 - 1)
  | 0x09 => (objOf m tenant idx 2).map fun o => o.off + 4 * (flHash fa 0 % o.p1)
  | 0x0A => (objOf m tenant idx 3).map fun o => o.off + 4 * Nat.min fa (o.p1 - 1)
  | _ => none

/-- A filter's object instruction acts on the engine; a soft error leaves a wrong count (R401). -/
def flCount (s : State) (cluster tenant op idx fa fb cls : Nat) (ev : List W32) : State :=
  let s1 := s.modMeasure cluster fun m => flObject m tenant op idx fa fb cls ev
  match flCell (s1.measureOf cluster) tenant op idx fa with
  | none => s1
  | some a =>
    let (wrong, s2) := takeUpset s1 fun u => match u with
      | .count b => some b
      | _ => none
    match wrong with
    | none => s2
    | some b => s2.modMeasure cluster fun m => { m with store := m.store.writeNat a 4 (Nat.xor (m.store.readNat a 4) b) }

/-- A run of a filter's words with the register values `r` (R318): how many it has executed. `skip` words are still to pass over. -/
def flRun (cluster tenant cls : Nat) (ev : List W32) : List W32 → Nat → List Nat → State → Nat × State
  | [], _, _, s => (0, s)
  | _ :: rest, k + 1, r, s => flRun cluster tenant cls ev rest k r s
  | w :: rest, 0, r, s =>
    let op := bits w.toNat 27 5
    let d := bits w.toNat 24 3
    let fa := r.getD (bits w.toNat 21 3) 0
    let fb := r.getD (bits w.toNat 18 3) 0
    let b := bits w.toNat 18 3
    let imm := bits w.toNat 0 16
    if op = 0x0D then (1, s)
    else
      let skip := if op = 0x07 ∧ (d = 0 ∨ (d = 1 ∧ fa = 0) ∨ (d = 2 ∧ fa ≠ 0)) then imm else 0
      let r1 := match op with
        | 0x00 => flSet r d (ev.getD imm 0).toNat
        | 0x01 => flSet r d (if b = 0 then imm else imm * 2 ^ 16 + r.getD d 0 % 2 ^ 16)
        | 0x02 => flSet r d (Nat.min (fa + fb) (2 ^ 32 - 1))
        | 0x03 => flSet r d (fa - fb)
        | 0x04 => flSet r d (Nat.land fa fb)
        | 0x05 => flSet r d (fa / 2 ^ imm)
        | 0x06 => flSet r d (flHash fa imm)
        | _ => r
      let s1 :=
        if op = 0x0B then fireTrigger s cluster tenant imm ev fa cls
        else if op = 0x08 ∨ op = 0x09 ∨ op = 0x0A ∨ op = 0x0C then
          flCount s cluster tenant op (imm % 16) fa fb cls ev
        else s
      let q := flRun cluster tenant cls ev rest skip r1 s1
      (q.1 + 1, q.2)

/-- BUD of a tenant in the window (R317). -/
def budgetOf (s : State) (tenant : Nat) : Nat := Nat.min (countGet s.budgets tenant) 1250

/-- Run a filter on an event, if the tenant's budget admits it (R317). -/
def runFilter (cluster tenant cls : Nat) (ev : List W32) (s : State) (f : MFilter) : State :=
  if budgetOf s tenant < ((s.measureOf cluster).count tenant).used + f.prog.length then
    s.modMeasure cluster fun m => m.modCount tenant fun c => { c with dropb := c.dropb + 1 }
  else
    let q := flRun cluster tenant cls ev f.prog 0 (List.replicate 8 0) s
    q.2.modMeasure cluster fun m => m.modCount tenant fun c =>
      { c with used := c.used + q.1, runs := c.runs + 1, instrs := c.instrs + q.1 }

/-- The class of an event. -/
def eventClass (ev : List W32) : Nat := bits (ev.getD 1 0).toNat 24 8

/-- The first filter of an engine from an index on for a class and tenant (R316). -/
def nextFilter (m : Measure) (tenant cls from' : Nat) : Option MFilter :=
  (upFrom from' (16 - from')).findSome? fun i => m.filters.find? fun f => f.idx == i && f.tenant == tenant && f.cls == cls

/-- The engine takes the oldest event, then runs its filters one by one, in ascending index. It executes one filter instruction a cycle, so a run
begins, and is checked against the budget of its window, once the run before it is over (R316, R317, R324). -/
def filterRun (s : State) (cluster : Nat) : State :=
  let m := s.measureOf cluster
  if s.ts < m.busy then s
  else
    match m.now, m.fifo with
    | none, [] => s
    | none, (tenant, ev) :: rest => (s.modMeasure cluster fun m => { m with fifo := rest, now := some (tenant, ev, 0) }).once (.filterRun cluster)
    | some (tenant, ev, i), rest =>
      match nextFilter m tenant (eventClass ev) i with
      | none =>
        let s1 := s.modMeasure cluster fun m => { m with now := none }
        if rest.isEmpty then s1 else s1.once (.filterRun cluster)
      | some f =>
        let s1 := runFilter cluster tenant (eventClass ev) ev s f
        let ran := ((s1.measureOf cluster).count tenant).used - (m.count tenant).used
        let s2 := s1.modMeasure cluster fun m => { m with now := some (tenant, ev, f.idx + 1), busy := s.ts + ran }
        if ran = 0 then s2.once (.filterRun cluster) else s2

/-- An event reaches the engine's FIFO, or is dropped (R316). -/
def measureEvent (s : State) (cluster tenant : Nat) (words : List W32) : State :=
  if 64 ≤ (s.measureOf cluster).fifo.length then
    s.modMeasure cluster fun m => m.modCount tenant fun c => { c with dropq := c.dropq + 1 }
  else (s.modMeasure cluster fun m => { m with fifo := m.fifo ++ [(tenant, words)] }).once (.filterRun cluster)

/-- A sample of a cluster's router (R315), for the tenant whose context holds the partition. The core and slot that its word 1 names
are open. -/
def routerSample (s : State) (cluster : Nat) : State :=
  let k := (s.measureOf cluster).samples
  let s1 := s.modMeasure cluster fun m => { m with samples := k + 1 }
  match holderOf s (4 * cluster) with
  | none => s1
  | some pid =>
    let (v, s2) := freshValue s1 2
    if !passesEngine s2 cluster (tenantOf pid) 9 then
      s2.later [.measureEvent cluster (BitVec.ofNat 8 (tenantOf pid))
        ([BitVec.ofNat 32 (tsOf s (4 * cluster)), BitVec.ofNat 32 (v + tenantOf pid * 2 ^ 16 + 9 * 2 ^ 24), 0, 0, Config.routerOccupancy cluster k, 0, 0, 0, 0])]
    else s2

/-- The Measure budget table as it stands (R317, R407). -/
def budgetTable (s : State) : List (Nat × Nat) :=
  ((upTo 64).map fun t => (t, sysQ s (0x104010000 + 8 * t) % 2 ^ 11)).filter fun b => b.2 != 0

/-! ### Commands (R322 to R324) -/

/-- MSTAT values (R323). -/
def msBADKIND : Nat := 1
/-- RESV. -/
def msRESV : Nat := 2
/-- OWNER. -/
def msOWNER : Nat := 3
/-- BUSY. -/
def msBUSY : Nat := 4
/-- RANGE. -/
def msRANGE : Nat := 5
/-- ADDR. -/
def msADDR : Nat := 6
/-- PROT. -/
def msPROT : Nat := 7
/-- PROGRAM. -/
def msPROGRAM : Nat := 8
/-- MISSING. -/
def msMISSING : Nat := 9

/-- IDX. -/
def msIdx (c : Cmd) : Nat := bits c.words 40 4
/-- ECLS. -/
def msEcls (c : Cmd) : Nat := bits c.words 36 4
/-- OTYPE. -/
def msOtype (c : Cmd) : Nat := bits c.words 32 4
/-- TACT. -/
def msTact (c : Cmd) : Nat := bits c.words 30 2
/-- ARG0. -/
def msArg0 (c : Cmd) : Nat := c.field 0x10 4
/-- ARG1. -/
def msArg1 (c : Cmd) : Nat := c.field 0x14 4
/-- ARG2. -/
def msArg2 (c : Cmd) : Nat := c.field 0x18 4

/-- Is a reserved field, or a field that the kind does not use, not zero. -/
def msReserved (c : Cmd) : Bool :=
  let k := c.kind
  bits c.words 0 30 != 0 || c.field 0x1C 0x24 != 0 ||
    (k != 1 && k != 5 && c.field 8 8 != 0) ||
    (k != 1 && msEcls c != 0) || (k != 0 && msOtype c != 0) || (k != 3 && msTact c != 0) ||
    (k != 0 && k != 1 && !(k == 3 && (msTact c == 0 || msTact c == 2)) && msArg0 c != 0) ||
    (k != 0 && msArg1 c != 0) || (!(k == 0 && msOtype c == 2) && msArg2 c != 0)

/-- The tenant that holds what IDX of a command names: a filter, a trigger or an object (R319, R320). -/
def msHolder (m : Measure) (c : Cmd) : Option Nat :=
  match c.kind with
  | 1 => (m.filters.find? fun f => f.idx == msIdx c).map (·.tenant)
  | 2 => (m.filters.find? fun f => f.idx == msIdx c).map (·.tenant)
  | 3 => (m.trigs.find? fun t => t.idx == msIdx c).map (·.tenant)
  | _ => (m.objs.find? fun o => o.idx == msIdx c).map (·.tenant)
/-- The object that ARG0 of an ARM with action 0 names. -/
def msRing (m : Measure) (c : Cmd) : Option MObj := m.objs.find? fun o => o.idx == msArg0 c
/-- Is what the command names held by another tenant (OWNER). -/
def msOwned (m : Measure) (c : Cmd) : Bool :=
  let other (h : Option Nat) : Bool := h.isSome && h != some (tenantOf c.pid)
  other (msHolder m c) || (c.kind == 3 && msTact c == 0 && other ((msRing m c).map (·.tenant)))

/-- Does an attached filter name an object (BUSY). -/
def msNamed (m : Measure) (idx : Nat) : Bool :=
  m.filters.any fun f => f.prog.any fun w =>
    [0x08, 0x09, 0x0A, 0x0C].contains (bits w.toNat 27 5) && bits w.toNat 0 16 == idx

/-- The object that an OBJ command defines. -/
def msObject (c : Cmd) : MObj :=
  { idx := msIdx c, tenant := tenantOf c.pid, type := msOtype c, off := msArg0 c, p1 := msArg1 c, p2 := msArg2 c, seq := 0 }

/-- Are an OBJ's parameters those of R319, within the store and clear of the other objects. -/
def msFits (m : Measure) (o : MObj) : Bool :=
  let shape := match o.type with
    | 1 => decide (1 ≤ o.p1 ∧ o.p1 ≤ 15360)
    | 2 => decide (1 ≤ o.p2 ∧ o.p2 ≤ 4) && (upTo 13).any fun i => o.p1 == 2 ^ i
    | 3 => decide (1 ≤ o.p1 ∧ o.p1 ≤ 15360)
    | 4 => decide (1 ≤ o.p1 ∧ o.p1 ≤ 1920)
    | _ => false
  shape && o.off % (if o.type = 4 then 32 else 4) == 0 && decide (0x1000 ≤ o.off ∧ o.off + objSize o ≤ 0x10000) &&
    m.objs.all fun x => x.idx == o.idx || shared o.off (objSize o) x.off (objSize x) == 0

/-- RANGE of R323. -/
def msOutOfRange (m : Measure) (c : Cmd) : Bool :=
  match c.kind with
  | 0 => !msFits m (msObject c)
  | 3 => decide (8 ≤ msIdx c) || (msTact c == 0 && !((msRing m c).any fun o => o.type == 4))
  | 4 => (msHolder m c).isNone
  | 5 => (msHolder m c).isNone
  | _ => false

/-- Does a filter word break its entry (R318): the word with index `i` of `len`. -/
def flBad (m : Measure) (tenant i len : Nat) (w : W32) : Bool :=
  let op := bits w.toNat 27 5
  let d := bits w.toNat 24 3
  let a := bits w.toNat 21 3
  let b := bits w.toNat 18 3
  let imm := bits w.toNat 0 16
  let obj (type : Nat) : Bool := d != 0 || decide (16 ≤ imm) || (objOf m tenant imm type).isNone
  bits w.toNat 16 2 != 0 || (match op with
    | 0x00 => a != 0 || b != 0 || decide (8 ≤ imm)
    | 0x01 => a != 0 || decide (2 ≤ b)
    | 0x02 => imm != 0
    | 0x03 => imm != 0
    | 0x04 => imm != 0
    | 0x05 => b != 0 || decide (32 ≤ imm)
    | 0x06 => b != 0 || decide (4 ≤ imm)
    | 0x07 => decide (3 ≤ d) || (d == 0 && a != 0) || b != 0 || imm == 0 || decide (len < i + 1 + imm)
    | 0x08 => obj 1
    | 0x09 => obj 2
    | 0x0A => obj 3
    | 0x0B => d != 0 || b != 0 || decide (8 ≤ imm)
    | 0x0C => obj 4
    | 0x0D => d != 0 || a != 0 || b != 0 || imm != 0
    | _ => true)

/-- The range that PTR names: the filter words of a LOAD, the object of a SNAP. -/
def msSpan (m : Measure) (c : Cmd) : Nat :=
  if c.kind = 1 then 4 * msArg0 c
  else match m.objs.find? fun o => o.idx == msIdx c with
    | some o => objSize o
    | none => 0

/-- The checks of R323 that need no memory, in the order of its table. -/
def msCheck (s : State) (core : Nat) (c : Cmd) : Option Nat :=
  let m := s.measureOf (clusterOf core)
  let t := engineThread s c core
  let p := c.ptr 8
  if 7 ≤ c.kind then some msBADKIND
  else if msReserved c then some msRESV
  else if msOwned m c then some msOWNER
  else if (c.kind = 0 ∨ c.kind = 6) ∧ msNamed m (msIdx c) then some msBUSY
  else if msOutOfRange m c then some msRANGE
  else if c.kind = 1 ∨ c.kind = 5 then
    if !([0, 2, 3].contains (pathOf p)) || badSpan s t p (msSpan m c) || p.toNat % 4 != 0 then some msADDR
    else if !engineAllowed s t false (c.kind == 5) p (msSpan m c) then some msPROT
    else none
  else none

/-- A Measure command ends: its record is delivered and the next begins (R323, R324). -/
def msDone (s : State) (core : Nat) (c : Cmd) (status mstat : Nat) : State :=
  engineKick (deliver s core c 3 status 0 mstat 0) core 6

/-- A SNAP or LOAD met a fault of translation, a revoked identifier or poison (R323, R336): MSTAT is open then; the fault service is
told of PAGE and POISON. A leaf entry that refuses the access gives MSTAT PROT (log entry 26, DEDUCED). -/
def msFaults (s : State) (core : Nat) (c : Cmd) (cause : Nat) (p : W64) : State :=
  if cause = cPROT then msDone s core c 0 msPROT
  else
    let (v, s1) := freshValue s 1
    if cause = cREVOKED then msDone s1 core c stREVOKED v
    else msDone (notifyEngine s1 core c cause p) core c (if cause = cPOISON then stPOISON else stPAGE) v

/-- Take the oldest command of q6 where it is one of the step's kind that may be taken, and refuse it or perform it (R322). -/
def msCommand (s : State) (core : Nat) (ok : Nat → Bool) (k : State → Cmd → State) : State :=
  match headCmd s core 6 with
  | none => s
  | some c =>
    if !ok c.kind || heldCmd s core c then s
    else
      let s1 := takeCmd s core 6
      match msCheck s1 core c with
      | some ms => msDone s1 core c 0 ms
      | none => k s1 c

/-- Zero the bytes of an object. -/
def zeroObject (m : Measure) (o : MObj) : Measure := { m with store := m.store.writeBytes o.off (List.replicate (objSize o) 0) }

/-- OBJ defines an object and zeroes it (R322). -/
def msObj (s : State) (core : Nat) (c : Cmd) : State :=
  let o := msObject c
  msDone (s.modMeasure (clusterOf core) fun m => zeroObject { m with objs := o :: m.objs.filter fun x => x.idx ≠ o.idx } o) core c 0 0

/-- LOAD reads the words, checks them and attaches the filter (R318, R322). -/
def msLoad (s : State) (core : Nat) (c : Cmd) : State :=
  let len := msArg0 c
  if len = 0 ∨ 32 < len then msDone s core c 0 msPROGRAM
  else
    match engineRead s (engineThread s c core) (dieOf core) (c.ptr 8) (4 * len) with
    | .error f => msFaults f.2.2 core c f.1 f.2.1
    | .ok (l0, s1) =>
      match s1.ahead with
      | .read k :: rest =>
        (putBack { s1 with ahead := rest, sys := s.sys } core (c.gets [(c.ptr 8, 4 * len)] l0 k)).once (.load core)
      | _ =>
      let l := withGot c.got l0
      let ws := (upTo len).map fun i => BitVec.ofNat 32 (fieldOf l (4 * i) 4)
      let m := s1.measureOf (clusterOf core)
      if ((upTo len).zip ws).any fun x => flBad m (tenantOf c.pid) x.1 len x.2 then msDone s1 core c 0 msPROGRAM
      else if 10 ≤ msEcls c then msDone s1 core c 0 msMISSING
      else
        let f : MFilter := { idx := msIdx c, tenant := tenantOf c.pid, pid := c.pid, cls := msEcls c, prog := ws }
        msDone (s1.modMeasure (clusterOf core) fun m => { m with filters := f :: m.filters.filter fun x => x.idx ≠ f.idx }) core c 0 0

/-- DETACH removes a filter. -/
def msDetach (s : State) (core : Nat) (c : Cmd) : State :=
  msDone (s.modMeasure (clusterOf core) fun m => { m with filters := m.filters.filter fun x => x.idx ≠ msIdx c }) core c 0 0

/-- ARM gives a trigger its action; the pusher's record, core and slot go with it (R320). -/
def msArm (s : State) (core : Nat) (c : Cmd) : State :=
  let t : MTrig :=
    { idx := msIdx c, tenant := tenantOf c.pid, act := msTact c, arg := msArg0 c, tid := c.tid, recd := c.recd, pid := c.pid
      core := core, slot := c.slot }
  msDone (s.modMeasure (clusterOf core) fun m => { m with trigs := t :: m.trigs.filter fun x => x.idx ≠ t.idx }) core c 0 0

/-- CLEAR zeroes an object, and a ring's SEQ. -/
def msClear (s : State) (core : Nat) (c : Cmd) : State :=
  msDone (s.modMeasure (clusterOf core) fun m =>
    match m.objs.find? fun o => o.idx == msIdx c with
    | none => m
    | some o => zeroObject { m with objs := m.objs.map fun x => if x.idx = o.idx then { x with seq := 0 } else x } o) core c 0 0

/-- The write of a SNAP that is made in parts goes on (R220); its command stands in front of its queue. -/
def snapWrites (s : State) (core : Nat) (c : Cmd) : State :=
  let r := writeOn s (dieOf core) c.writing
  if r.2.left.isEmpty then msDone r.1 core c 0 0 else (putBack r.1 core { c with writing := r.2 }).once (.snap core)

/-- SNAP copies an object's bytes to PTR, whole or in parts. -/
def msSnap (s : State) (core : Nat) (c : Cmd) : State :=
  if !c.writing.left.isEmpty then snapWrites s core c
  else
  let m := s.measureOf (clusterOf core)
  match m.objs.find? fun o => o.idx == msIdx c with
  | none => msDone s core c 0 msRANGE
  | some o =>
    match enginePlaces s (engineThread s c core) true (c.ptr 8) (objSize o) with
    | .error f => msFaults f.2.2 core c f.1 f.2.1
    | .ok (ls, s1) =>
      let bytes := m.store.readBytes o.off (objSize o)
      match s1.ahead, ls.any fun l => cutOff s1 (dieOf core) l.1 with
      | .write _ :: _, false => snapWrites s1 core { c with writing := { left := cutTo ls bytes, done := [] } }
      | _, _ => msDone (engineWrite s1 (dieOf core) core c (c.ptr 8) ls bytes) core c 0 0

/-- FREE releases an object index. -/
def msFree (s : State) (core : Nat) (c : Cmd) : State :=
  msDone (s.modMeasure (clusterOf core) fun m => { m with objs := m.objs.filter fun x => x.idx ≠ msIdx c }) core c 0 0

/-- OBJ (R319, R322 to R324). -/
def execObj (core : Nat) (s : State) : Result :=
  .next (msCommand s core (fun k => k == 0 || decide (7 ≤ k)) fun s c => msObj s core c)

/-- LOAD (R318, R322 to R324). -/
def execLoad (core : Nat) (s : State) : Result :=
  .next (msCommand s core (· == 1) fun s c => msLoad s core c)

/-- DETACH (R322 to R324). -/
def execDetach (core : Nat) (s : State) : Result :=
  .next (msCommand s core (· == 2) fun s c => msDetach s core c)

/-- ARM (R320, R322 to R324). -/
def execArm (core : Nat) (s : State) : Result :=
  .next (msCommand s core (· == 3) fun s c => msArm s core c)

/-- CLEAR (R322 to R324). -/
def execClear (core : Nat) (s : State) : Result :=
  .next (msCommand s core (· == 4) fun s c => msClear s core c)

/-- SNAP (R322 to R324). -/
def execSnap (core : Nat) (s : State) : Result :=
  .next (msCommand s core (· == 5) fun s c => msSnap s core c)

/-- FREE (R322 to R324). -/
def execFree (core : Nat) (s : State) : Result :=
  .next (msCommand s core (· == 6) fun s c => msFree s core c)

/-- MEASURE_EVENT (R314 to R316). -/
def execMeasureEvent (cluster : Nat) (tenant : BitVec 8) (words : List W32) (s : State) : Result :=
  .next (measureEvent s cluster tenant.toNat words)

/-- ROUTER_SAMPLE (R315). -/
def execRouterSample (cluster : Nat) (s : State) : Result :=
  .next (routerSample s cluster)

/-- FILTER_RUN (R316 to R318, R320, R321, R324). -/
def execFilterRun (cluster : Nat) (s : State) : Result :=
  .next (filterRun s cluster)

/-- BUDGET_WINDOW (R317). -/
def execBudgetWindow (cluster : Nat) (s : State) : Result :=
  .next (({ s with budgets := budgetTable s } : State).modMeasure cluster fun m => { m with counts := m.counts.map fun c => { c with used := 0 } })

end Sys2Proof.Machine
end

