-- ==== Sys2Proof/Machine/Kill.lean ====
section
/-!
DEFINITION. Ending a context or a tenant, and a single continuation (R210, R334, R351, R374, R394, R397).
-/
namespace Sys2Proof.Machine

/-- Set CSTATE of an identifier (R209). -/
def setCstate (s : State) (pid : BitVec 16) (v : Nat) : State := { s with sys := s.sys.writeNat (descAt pid + 0x24) 4 v }

/-- Stations of the package (R204): eight on each die, and die K's unit. -/
def stationCount : Nat := 40

/-! ### The tenant table (R397) -/

/-- Address of a tenant's entry. -/
def tenantEntry (s : State) (t : Nat) : Nat := sysQ s 0x104012008 + 8 * t
/-- Write a tenant's entry. -/
def putTenant (s : State) (t epoch tstate : Nat) : State :=
  { s with
    hbm := s.hbm.writeNat (tenantEntry s t) 8 (epoch % 2 ^ 32 * 2 ^ 32 + tstate), hbmPoison := unpoison s.hbmPoison (tenantEntry s t) 8 }
/-- EPOCH of a tenant. -/
def epochOf (s : State) (t : Nat) : Nat := s.hbm.readNat (tenantEntry s t + 4) 4

/-! ### A single continuation (R334) -/

/-- Has a thread nothing under way any more: no access, no engine command (R161, R360). -/
def drained (s : State) (t : Thread) : Bool :=
  (ownAccesses s t.tid).isEmpty && !((liveCmds s t.core).any fun c => c.tid == t.tid)

/-- RETIRE: as QUIT, once the thread has drained; until then it does not run (R161, R334). -/
def retireThread (s : State) (t : Thread) : State :=
  if drained s t then retire s t (t.state == .seam)
  else s.modThread t.tid fun t => { t with state := .stopped, retireNext := true, stopNext := false, wait := none, place := .nowhere }

/-! ### Engines -/

/-- The engines of a core turn to what they hold: after a restore, or once commands have been taken away. -/
def engineRestart (s : State) (core : Nat) : State :=
  let s1 := mxuGo s core
  let s2 := if (headCmd s1 core 2).isSome || !(unread s1 core).isEmpty then s1.once (.copy core) else s1
  let s3 := if (headCmd s2 core 4).isSome then s2.once (.colsum core) else s2
  let s4 := measureKick s3 core
  let chunks := !(s4.core core).landing.isEmpty || s4.copies.any fun r => cpLhe r.cmd && (cpDestOf r core).isSome
  let s5 := if chunks then s4.once (.landingHandlerStart core) else s4
  match (s5.core core).watch with
  | some w => if w.need ≤ w.count ∧ !watchFrozen s5 core w then wakeSampler s5 core w else s5
  | none => s5

/-- Is a pending step one of a copy or a sum. -/
def stepOfRun (id : Nat) : Event → Bool
  | .copyPacket i _ => i == id
  | .copyBarrierArrival i _ => i == id
  | .copyCompletion i => i == id
  | .columnSumAdd i _ => i == id
  | .colsumLanding i => i == id
  | _ => false

/-- Drop the pending steps of a copy or a sum. -/
def dropSteps (s : State) (id : Nat) : State := { s with agenda := s.agenda.filter fun e => !stepOfRun id e }

/-- What a step or a row under way has still to write is written (R220). -/
def writesOut (s : State) (core : Nat) (r : MxuRun) : State := { (writeOn { s with ahead := [] } (dieOf core) r.writing).1 with ahead := s.ahead }

/-- A core's commands of some identifiers end with CANCELLED (R351): those queued and those in its MXU; its watch goes too. -/
def cancelCore (pids : List (BitVec 16)) (s : State) (core : Nat) : State :=
  let own (c : Cmd) : Bool := pids.contains c.pid
  let c := s.core core
  let queued := c.cmds.filter own
  let runs := c.mxu.filter fun r => own r.cmd
  let s1 := s.modCore core fun c =>
    { c with
      cmds := c.cmds.filter fun x => !own x, mxu := c.mxu.filter fun r => !own r.cmd
      watch := if c.watch.any fun w => pids.contains w.pid then none else c.watch }
  let s2 := runs.foldl (fun s r => deliver (writesOut s core r) core r.cmd 0 stCANCELLED r.flags (mxProg r) 0) s1
  queued.foldl (fun s x => deliver s core x (x.q / 2) stCANCELLED 0 (queuedProg x) 0) s2

/-- Has a packet begun to land: some of its bytes are written. -/
def packetBegun (k : Packet) : Bool := decide ((k.parts.map (·.2.length)).sum < (k.spans.map (·.2)).sum)

/-- A copy is cancelled; a packet that has begun to land lands to its end, and the others are dropped whole (R351). -/
def cancelCopy (s : State) (r : CopyRun) : State :=
  let s0 := (r.packets.filter packetBegun).foldl (fun s k =>
    engineStore (dieOf r.core) (k.parts.map fun x => (x.1, x.2.length)) (k.parts.flatMap (·.2)) s) s
  let s1 := dropSteps { s0 with copies := s0.copies.filter fun x => x.id ≠ r.id } r.id
  tapCopy (deliver s1 r.core r.cmd 1 stCANCELLED r.flags r.readTo 0) r.core r.cmd stCANCELLED (s.ts - r.began)

/-- All engine work of some identifiers is cancelled; other contexts' work on the same engines goes on. -/
def cancelEngines (s : State) (pids : List (BitVec 16)) : State :=
  let own (c : Cmd) : Bool := pids.contains c.pid
  let s1 := (s.copies.filter fun r => own r.cmd).foldl cancelCopy s
  let s2 := (s1.sums.filter fun x => x.parts'.any fun p => own p.2.1).foldl (fun s x => dropSteps (sumEnds s x stCANCELLED none 0) x.id) s1
  let cores := (s2.cores.filter fun c =>
    (c.2.cmds.any own) || (c.2.mxu.any fun r => own r.cmd) || c.2.watch.any fun w => pids.contains w.pid).map (·.1)
  cores.foldl engineRestart (cores.foldl (cancelCore pids) s2)

/-! ### KILL (R351, R374) -/

/-- The filters of the identifiers are detached; a tenant's objects and triggers go with its reset (R319, R320, R351). -/
def killFilters (s : State) (k : KillRun) : State :=
  { s with measure := s.measure.map fun m =>
    { m with
      filters := m.filters.filter fun f => !k.pids.contains f.pid && some f.tenant != k.tenant
      objs := m.objs.filter fun o => some o.tenant != k.tenant
      trigs := m.trigs.filter fun t => some t.tenant != k.tenant } }

/-- Is a WORLD switch of a partition of the identifiers under way (R351). -/
def killWaits (s : State) (pids : List (BitVec 16)) : Bool :=
  s.parts.any fun p => p.worldPhase != 0 &&
    (p.holder.any (pids.contains ·) || (s.allThreads.any fun t => pids.contains t.pid && t.part == p.part) ||
      s.saved.any fun c => c.part == p.part && c.pid.any (pids.contains ·))

/-- A launch of a killed context is gone: its entries return, without STATUS or successors. -/
def dropLaunch (s : State) (l : Launch) : State :=
  let np := Nat.min l.resv l.resvOfParent + l.succOfParent + b2n (l.first && l.firstOfParent)
  let s1 : State := { s with
    launches := (s.launches.filter fun x => x.h ≠ l.h).map fun x => { x with parent := if x.parent = some l.h then none else x.parent }
    agenda := s.agenda.filter fun e => e != .launchCheck l.h && e != .launchCompletion l.h }
  let s2 := s1.modPart l.part fun p => { p with waiters := p.waiters.filter fun w => !(w.isLaunch && w.id == l.h) }
  giveBack s2 l.part l.parent np (b2n l.first + l.resv + l.succ - np)

/-- What stays of the contexts in the partitions once their threads are gone. -/
def dropContexts (s : State) (pids : List (BitVec 16)) : State :=
  let s1 := (s.launches.filter fun l => pids.contains l.pid || pids.contains l.fromPid).foldl dropLaunch s
  { s1 with
    parts := s1.parts.map fun p =>
      { p with
        holder := if p.holder.any (pids.contains ·) then none else p.holder
        layouts := p.layouts.filter fun l => !pids.contains l.1 }
    saved := s1.saved.filter fun c => !c.pid.any (pids.contains ·)
    vcyc := s1.vcyc.filter fun v => !pids.contains v.1
    seams := s1.seams.filter fun r => !pids.contains r.pid
    logBlocks := s1.logBlocks.filter fun b => !pids.contains b.pid
    agenda := s1.agenda.filter fun e => match e with
      | .seamRoundClose p _ => !pids.contains p
      | .seamDeadlineRelease p _ _ => !pids.contains p
      | _ => true }

/-- The threads of the identifiers. -/
def threadsOf (s : State) (pids : List (BitVec 16)) : List Thread := s.allThreads.filter fun t => pids.contains t.pid

/-- May a KILL complete: no thread is left, every station has acknowledged its identifiers and its tenant, and no STINV of an identifier is
under way (R210, R351, R377). -/
def killDone (s : State) (k : KillRun) : Bool :=
  (threadsOf s k.pids).isEmpty && (k.pids.all fun p => cstate s p != 2) &&
    (k.tenant.all fun t => (upTo stationCount).all fun st => revoked s st t) && !(s.invals.any fun v => k.pids.contains v.pid)

/-- One look at a KILL (R351): its threads stop, its engine work is cancelled, its filters are detached and the stations are told;
once the threads have drained they are retired, and once nothing is left and every station has acknowledged, it is complete. -/
def killProgress (s : State) (k : KillRun) : State :=
  if killWaits s k.pids then s
  else
    let s1 := (threadsOf s k.pids).foldl (fun s t =>
      if t.state = .stopped ∧ t.retireNext then s
      else (leaveSlot s t .stopped).modThread t.tid fun t => { t with retireNext := true }) s
    let s2 := killFilters (cancelEngines s1 k.pids) k
    let s3 := k.pids.foldl (fun s pid =>
      (upTo stationCount).foldl (fun s st =>
        if (cstate s pid == 2 && !revoked s st (2 ^ 16 + pid.toNat)) || k.tenant.any fun t => !revoked s st t
          then s.once (.stationRevokeAck st pid) else s) s) s2
    let ts := threadsOf s3 k.pids
    let s4 := if ts.all (drained s3) then dropContexts (ts.foldl (fun s t => retire s t (t.state == .seam)) s3) k.pids else s3
    if killDone s4 k then s4.once (.killCompletion k.id) else s4

/-- A KILL of identifiers begins: each CSTATE becomes 2 (R210, R374), but that of one which an earlier KILL has in progress stays as that one
has it (log entry 135, DESIGN CHOICE). Its threads stop and its work ends at what the machine looks for next (`killProgress`). -/
def startKill (s : State) (pids : List (BitVec 16)) (tenant : Option Nat) : State × Nat :=
  let id := s.nextId
  let stopped := ((s.cores ++ s.saved.flatMap (·.cores)).filter fun c => c.2.mxu.any fun r => r.stopped.isSome && pids.contains r.cmd.pid).map (·.1)
  let k : KillRun := { id := id, pids := pids, tenant := tenant, stopped := stopped }
  let fresh := pids.filter fun p => !(s.kills.any fun k => k.pids.contains p)
  (fresh.foldl (fun s p => setCstate s p 2) { s with nextId := id + 1, kills := s.kills ++ [k] }, id)

/-- A station acknowledges a revocation (R210): from now on it holds there, and the station's translations of the identifier, or of
the tenant, are dropped. With the last station CSTATE is 3, and a tenant's entry says that it is resetting (R397). -/
def stationAck (s : State) (station : Nat) (pid : BitVec 16) : State :=
  let k := s.kills.find? fun k => k.pids.contains pid && k.tenant.isSome
  let tenant := k.bind (·.tenant)
  let keys := (station, 2 ^ 16 + pid.toNat) :: (match tenant with
    | some t => [(station, t)]
    | none => [])
  let s1 := { s with
    revokedAt := s.revokedAt ++ keys.filter fun x => !s.revokedAt.contains x
    tlb := s.tlb.filter fun e => !(e.station == station && (e.pid == pid || some (tenantOf e.pid) == tenant)) }
  if (upTo stationCount).all fun st => revoked s1 st (2 ^ 16 + pid.toNat) then
    let s2 := setCstate s1 pid 3
    match k, tenant with
    | some k, some t =>
      let allOver (s : State) : Bool := (k.pids.all fun p => cstate s p == 3) && (upTo stationCount).all fun st => revoked s st t
      if allOver s2 && !allOver s then putTenant s2 t (epochOf s2 t + 1) 2 else s2
    | _, _ => s2
  else s1

/-- A KILL is complete (R374, R397): the identifiers that no other KILL in progress names are free, and the bundles that waited for it complete. -/
def killEnds (s : State) (k : KillRun) : State :=
  let free := k.pids.filter fun p => !(s.kills.any fun x => x.id != k.id && x.pids.contains p)
  let s1 := free.foldl (fun s p => setCstate s p 0) s
  let s2 := { s1 with
    kills := s1.kills.filter fun x => x.id ≠ k.id
    revokedAt := s1.revokedAt.filter fun r => !(free.any fun p => r.2 == 2 ^ 16 + p.toNat)
    vcyc := s1.vcyc.filter fun v => !free.contains v.1
    ro := s1.ro.filter fun l => !k.pids.contains l.pid }
  let s3 := match k.tenant with
    | some t => putTenant s2 t (epochOf s2 t) 3
    | none => s2
  (s3.allThreads.filter fun t => t.wait == some (.kill k.id)).foldl (fun s t =>
    wakeThread (s.modThread t.tid fun t => { t with wait := some .released }) t.tid) s3

end Sys2Proof.Machine
end

