-- ==== Sys2Proof/Machine/Faults.lean ====
section
/-!
DEFINITION. The fault service: notifications, the actions of CCGO, and ASYNC (19 R331 to R336; 20 R364).
-/
namespace Sys2Proof.Machine

/-! ### Notifications (R320, R333, R352) -/

/-- A notification (R333): a stop of the debugger's kind goes to its handler, while one is attached; any other to the fault service;
where there is none, the context is retired as KILL does, but for a Measure notification, which is dropped. Which kind it is was noted when
the thread stopped. -/
def faultNotice (s : State) (pid : BitVec 16) (x1 x2 x3 x4 : W64) : State :=
  let q (o : Nat) : Nat := sysQ s (svcAt pid + o)
  let code := bits x2.toNat 0 8
  let core := ctlCore0 + q 8 % 32
  if s.debugNotices.contains (pid, x1, x2) then
    let s1 := { s with debugNotices := s.debugNotices.erase (pid, x1, x2) }
    if q 0x10 = 0 then s1 else spawnControl s1 pid core (BitVec.ofNat 64 (q 0x10)) [x1, x2, x3, x4]
  else if q 0 ≠ 0 then spawnControl s pid core (BitVec.ofNat 64 (q 0)) [x1, x2, x3, x4]
  else if code = 0 then s
  else if s.kills.any fun k => k.pids.contains pid then s
  else (startKill s [pid] none).1

/-! ### CCGO (R334, R336) -/

/-- The result of the last action, in CCGO[1:0]. -/
def ccResult (s : State) (v : Nat) : State := { s with sys := s.sys.writeNat 0x100800000 8 v }

/-- An action on the continuation that a record names, in FAULT or STOPPED; then the result stands in CCGO. -/
def ccAction (s : State) (pid : BitVec 16) (r : W64) (k : State → Thread → State) : State :=
  match s.threadOfRecord? pid r with
  | none => ccResult s 2
  | some t => if t.state = .fault ∨ t.state = .stopped then ccResult (k s t) 0 else ccResult s 1

/-- The thread's copy that a fault has stopped, with a sequence number. -/
def stoppedCopy (s : State) (t : Thread) (seq : Nat) : Option CopyRun :=
  s.copies.find? fun r => r.cmd.tid == t.tid && r.cmd.seq == seq && r.stopped.isSome
/-- The thread's contribution to a sum that a fault has stopped: the sum, the core, the command. -/
def stoppedSum (s : State) (t : Thread) (seq : Nat) : Option (SumRun × Nat × Cmd) :=
  s.sums.findSome? fun x =>
    (x.parts'.find? fun p => p.2.1.tid == t.tid && p.2.1.seq == seq && x.stops.any fun e => e.1 == p.1).map fun p => (x, p.1, p.2.1)

/-- A copy that the service ends: the packets it has read land, then its record and the effects of R336. -/
def endCopy (s : State) (r : CopyRun) (cause : Nat) : State :=
  let s1 := r.packets.foldl (fun s k =>
    engineStore (dieOf r.core) (k.parts.map fun x => (x.1, x.2.length)) (k.parts.flatMap (·.2)) s) s
  let s2 := dropSteps { s1 with copies := s1.copies.filter fun x => x.id ≠ r.id } r.id
  let st := if cause = cPAGE then stPAGE else stPOISON
  let s3 := tapCopy (endByService s2 r.core r.cmd 1 cause r.flags r.readTo r.faddr) r.core r.cmd st (s.ts - r.began)
  if (s3.core r.core).landing.isEmpty then s3 else s3.once (.landingHandlerStart r.core)

/-- CRESUME: the copy reads on, or the contribution is read again; the fault that it stopped for is over. -/
def ccCresume (s : State) (pid : BitVec 16) (r : W64) (seq : Nat) : State :=
  match s.threadOfRecord? pid r with
  | none => ccResult s 2
  | some t =>
    match stoppedCopy s t seq, stoppedSum s t seq with
    | some c, _ => ((ccResult s 0).modCopy c.id fun c => { c with stopped := none, faddr := 0 }).once (.copy c.core)
    | none, some (x, core, c) => readContribution (ccResult s 0) x.id core c
    | none, none => ccResult s 1

/-- CEND: the command ends with PAGE or POISON. -/
def ccCend (s : State) (pid : BitVec 16) (r : W64) (seq cause : Nat) : State :=
  if cause ≠ cPAGE ∧ cause ≠ cPOISON then ccResult s 3
  else
    match s.threadOfRecord? pid r with
    | none => ccResult s 2
    | some t =>
      match stoppedCopy s t seq, stoppedSum s t seq with
      | some c, _ => endCopy (ccResult s 0) c cause
      | none, some (x, core, _) =>
        dropSteps (sumEnds (ccResult s 0) x (if cause = cPAGE then stPAGE else stPOISON) (some (core, cause))
          (BitVec.ofNat 64 (((x.stops.find? fun e => e.1 == core).map (·.2.2)).getD 0))) x.id
      | none, none => ccResult s 1

/-- The fault service readies a continuation at its record's PC (R126, R157). -/
def ccReady (s : State) (tid : Nat) : State := makeReady (loadRecord s tid) tid

/-! ### ASYNC (R336) -/

/-- May the thread take a held ASYNC now: between its bundles, in a slot, with INTRAP clear. -/
def asyncDue (s : State) (t : Thread) : Bool :=
  t.state == .running && !t.heldAsync.isEmpty && t.wait.isNone && t.seam.isNone && t.heldStores.isEmpty && !bitAt (tget s t 0x180 4) 12

/-- The thread takes its oldest held ASYNC, with TPC the bundle not yet issued. -/
def takeAsync (s : State) (t : Thread) : State :=
  match t.heldAsync with
  | [] => s
  | v :: rest => onThread s t.tid fun s => trap { s with cur := { s.cur with heldAsync := rest } } cASYNC v

/-- FAULT_NOTIFICATION (R320, R331 to R333, R351, R352). -/
def execFaultNotification (pid : BitVec 16) (x1 : W64) (x2 : W64) (x3 : W64) (x4 : W64) (s : State) : Result :=
  .next (faultNotice s pid x1 x2 x3 x4)

/-- CCGO_RESUME (R157, R334). -/
def execCcgoResume (pid : BitVec 16) (rec : W64) (s : State) : Result :=
  .next (ccAction s pid rec fun s t => ccReady s t.tid)

/-- CCGO_TRAP (R21, R334). -/
def execCcgoTrap (pid : BitVec 16) (rec : W64) (cause : BitVec 8) (s : State) : Result :=
  .next (ccAction s pid rec fun s t => ccReady (s.modThread t.tid fun t => { t with trapNext := some (cause.toNat, t.lastFault) }) t.tid)

/-- CCGO_RETIRE (R161, R334, R394). -/
def execCcgoRetire (pid : BitVec 16) (rec : W64) (s : State) : Result :=
  .next (ccAction s pid rec fun s t => retireThread s t)

/-- CCGO_STOP (R334, R354). -/
def execCcgoStop (pid : BitVec 16) (rec : W64) (s : State) : Result :=
  .next (ccAction s pid rec fun s t =>
    if t.state = .stopped then s
    else stopNotice (saveRecord (s.modThread t.tid fun t => { t with state := .stopped, stopNext := false, slotHeld := false }) t.tid) t)

/-- CCGO_CRESUME (R334, R336). -/
def execCcgoCresume (pid : BitVec 16) (rec : W64) (seq : W32) (s : State) : Result :=
  .next (ccCresume s pid rec seq.toNat)

/-- CCGO_CEND (R334, R336, R389). -/
def execCcgoCend (pid : BitVec 16) (rec : W64) (seq : W32) (cause : BitVec 8) (s : State) : Result :=
  .next (ccCend s pid rec seq.toNat cause.toNat)

/-- ASYNC (R22, R336, R364). -/
def execAsync (tid : Nat) (s : State) : Result :=
  match s.thread? tid with
  | none => .next s
  | some t => .next (if asyncDue s t then takeAsync s t else s)

end Sys2Proof.Machine
end

