-- ==== Sys2Proof/WellFormed.lean ====
section
/-!
DEFINITION. What each entry asks of its fields beyond the constant bits of its encoding. A word that breaks one of
these is an illegal encoding (R60), whatever its guard holds (R15).
-/
namespace Sys2Proof

/-- Legal FCVT and VCVT pairs common to both (R92, R180): FP32 to and from every other code, INT8 to and from INT32. -/
def cvtCommon (dst src : BitVec 3) : Bool :=
  (dst == 0 && src != 0) || (src == 0 && dst != 0) || (dst == 6 && src == 7) || (dst == 7 && src == 6)

/-- The pairs only FCVT has (R92): FP16 or BF16 to and from LNS6. -/
def cvtScalarOnly (dst src : BitVec 3) : Bool :=
  (dst == 5 && (src == 1 || src == 2)) || (src == 5 && (dst == 1 || dst == 2))

/-- Bytes of an element of a conversion format (R180). -/
def cvtBytes (f : BitVec 3) : Nat :=
  if f == 0 || f == 7 then 4 else if f == 1 || f == 2 then 2 else 1

/-- The part field of VCVT (R180). -/
def vcvtPart (dst src : BitVec 3) (k : BitVec 4) : Bool :=
  let n := Nat.min (cvtBytes dst) (cvtBytes src)
  if n == 4 then k == 0 else if n == 2 then k.toNat < 2 else k.toNat < 4

/-- A predicate pair field (R56). -/
def pairField (k : Nat) : Bool := k == 2 || k == 4 || k == 6

/-- Order and scope of an atomic (R55, R246): scope at most 5, and 0 when the order is plain. -/
def orderScope (o : BitVec 2) (sc : BitVec 3) : Bool := sc.toNat ≤ 5 && (o != 0 || sc == 0)

/-- Special registers that WRSR may name (R11): those writable at some level. -/
def srWritable (n : BitVec 11) : Bool := 0x08 ≤ n.toNat && n.toNat ≤ 0x0E

/-- The instruction's fields obey its entry. A special register number that RDSR or WRSR may not name (R11) makes the word an illegal encoding, whatever
its guard (log entry 132, DESIGN CHOICE). -/
def Instr.wf : Instr → Bool
  | .cmp _ _ _ c _ => c.toNat ≤ 9
  | .fcmp _ _ _ c _ => c.toNat ≤ 4
  | .fcvt _ _ t s _ => cvtCommon t s || cvtScalarOnly t s
  | .frnd _ _ m _ => m.toNat ≤ 5
  | .icmp k _ _ _ _ => pairField k.toNat
  | .icont k _ _ _ => pairField k.toNat
  | .iaddc z x y _ _ => z != x && z != y && x != y
  | .imulc z x y _ _ => z != x && z != y && x != y
  | .imaxc z x y _ _ => z != x && z != y && x != y
  | .isqc z x _ _ => z != x
  | .iexp2c z x _ _ => z != x
  | .vcmp _ _ _ t c _ => if t == 0 then c.toNat ≤ 4 else c.toNat ≤ 9
  | .vcvt _ _ c x y _ => cvtCommon x y && vcvtPart x y c
  | .loop d _ _ => d != 0
  | .cmpiL _ _ c _ _ => c.toNat ≤ 9
  | .ldxU _ _ _ s _ => s != 3
  | .ldOrdered _ _ o s _ _ => (o == 0 || o == 1) && orderScope o s
  | .ldUOrdered _ _ o s z _ => (o == 0 || o == 1) && orderScope o s && z != 3
  | .stOrdered _ _ o s _ _ => (o == 0 || o == 2) && orderScope o s
  | .ldOrderedLong _ _ o s _ _ _ => (o == 0 || o == 1) && orderScope o s
  | .ldUOrderedLong _ _ o s z _ _ => (o == 0 || o == 1) && orderScope o s && z != 3
  | .stOrderedLong _ _ o s _ _ _ => (o == 0 || o == 2) && orderScope o s
  | .amadd _ _ _ o s _ => orderScope o s
  | .amfadd _ _ o s _ => orderScope o s
  | .ammin _ _ _ o s _ => orderScope o s
  | .ammax _ _ _ o s _ => orderScope o s
  | .amand _ _ _ o s _ => orderScope o s
  | .amor _ _ _ o s _ => orderScope o s
  | .amxor _ _ _ o s _ => orderScope o s
  | .amxchg _ _ _ o s _ => orderScope o s
  | .amcas d _ _ o s _ => orderScope o s && d.toNat % 2 == 0
  | .fence _ s _ => s.toNat ≤ 5
  | .pref h _ _ => h.toNat ≤ 2
  | .bwin _ b s _ => s.toNat ≤ 3 && (s == 3 || b == 0)
  | .spawn a _ _ => a.toNat ≤ 28
  | .spawnC a _ _ _ => a.toNat ≤ 28
  | .fork p _ => p != 0
  | .forkC p _ _ => p != 0
  | .movm p _ _ => p != 0
  | .meetT a _ _ _ => a != 0
  | .meetLong _ _ ext _ => ext.toNat % 2 == 0
  | .qtry _ _ p _ => p != 0
  | .waitb n _ => n.toNat ≤ 16
  | .sbind _ z _ => z.toNat ≤ 2
  | .gnext _ _ _ p k _ => pairField k.toNat && p != k && p.toNat != k.toNat + 1
  | .wakeon a p _ => 1 ≤ a.toNat && a.toNat ≤ 28 && p != 0
  | .wakeonX p _ => p != 0
  | .rdsr _ s _ => s.toNat ≤ 0x11
  | .wrsr _ s _ => srWritable s
  | .stinv _ _ k _ => k.toNat ≤ 45
  | .gang _ b _ => b != 31
  | .rdctr _ n _ => n.toNat ≤ 5
  | .rdctrLo _ n _ => n.toNat ≤ 5
  | .rdctrHi _ n _ => n.toNat ≤ 5
  | _ => true

end Sys2Proof
end

