-- ==== Sys2Proof/Decode.lean ====
section
/-!
DEFINITION. The decoder, total on any 64-bit bundle, and the encoder (R48 to R61). Bit positions are those of R54 and R55:
the A-class major is bits [31:26], the C-class major bits [30:25], bit 31 of word 0 is L. Where a definition is marked noncomputable, it is because Lean's
compiler builds no constructor beyond the 244th of a type (log entry 1, DESIGN CHOICE); the kernel evaluates it all the same.
-/
namespace Sys2Proof

/-- Why a word is no instruction (R60). -/
inductive Reject where
  /-- A reserved or unassigned major, an unassigned function, or a must-be-zero field that is not zero. -/
  | unassigned
  /-- L = 0 with a long-only major. -/
  | shortOfLongOnly
  /-- L = 1 with a major or function that has no long form, or its short offset field non-zero. -/
  | noLongForm
  /-- The fields break a rule of the instruction's own entry (a reserved scope, a bad pair field, an illegal format pair). -/
  | illFormed
  deriving DecidableEq, Repr

/-- Field of `len` bits at bit `lo`, as a number. -/
def fld (w : W32) (lo len : Nat) : Nat := w.toNat / 2 ^ lo % 2 ^ len

/-- Field of `len` bits at bit `lo`, as an operand. -/
def opnd (w : W32) (lo len : Nat) : BitVec len := BitVec.ofNat len (w.toNat / 2 ^ lo)

/-- A-class major 0x00: A_NOP. -/
def decA00 (w : W32) : Option Instr :=
  if fld w 4 22 = 0 then some (.aNop (opnd w 0 4))
  else none

/-- A-class major 0x01: ADD, SUB, MUL, MULH, MULHU. -/
def decA01 (w : W32) : Option Instr :=
  if fld w 4 7 = 0 then some (.add (opnd w 21 5) (opnd w 16 5) (opnd w 11 5) (opnd w 0 4))
  else   if fld w 4 7 = 1 then some (.sub (opnd w 21 5) (opnd w 16 5) (opnd w 11 5) (opnd w 0 4))
  else   if fld w 4 7 = 2 then some (.mul (opnd w 21 5) (opnd w 16 5) (opnd w 11 5) (opnd w 0 4))
  else   if fld w 4 7 = 3 then some (.mulh (opnd w 21 5) (opnd w 16 5) (opnd w 11 5) (opnd w 0 4))
  else   if fld w 4 7 = 4 then some (.mulhu (opnd w 21 5) (opnd w 16 5) (opnd w 11 5) (opnd w 0 4))
  else none

/-- A-class major 0x02: DIV, DIVU, REM, REMU. -/
def decA02 (w : W32) : Option Instr :=
  if fld w 4 7 = 0 then some (.div (opnd w 21 5) (opnd w 16 5) (opnd w 11 5) (opnd w 0 4))
  else   if fld w 4 7 = 1 then some (.divu (opnd w 21 5) (opnd w 16 5) (opnd w 11 5) (opnd w 0 4))
  else   if fld w 4 7 = 2 then some (.rem (opnd w 21 5) (opnd w 16 5) (opnd w 11 5) (opnd w 0 4))
  else   if fld w 4 7 = 3 then some (.remu (opnd w 21 5) (opnd w 16 5) (opnd w 11 5) (opnd w 0 4))
  else none

/-- A-class major 0x03: AND, OR, XOR, ANDN. -/
def decA03 (w : W32) : Option Instr :=
  if fld w 4 7 = 0 then some (.and (opnd w 21 5) (opnd w 16 5) (opnd w 11 5) (opnd w 0 4))
  else   if fld w 4 7 = 1 then some (.or (opnd w 21 5) (opnd w 16 5) (opnd w 11 5) (opnd w 0 4))
  else   if fld w 4 7 = 2 then some (.xor (opnd w 21 5) (opnd w 16 5) (opnd w 11 5) (opnd w 0 4))
  else   if fld w 4 7 = 3 then some (.andn (opnd w 21 5) (opnd w 16 5) (opnd w 11 5) (opnd w 0 4))
  else none

/-- A-class major 0x04: SHL, SHR, SAR. -/
def decA04 (w : W32) : Option Instr :=
  if fld w 4 7 = 0 then some (.shl (opnd w 21 5) (opnd w 16 5) (opnd w 11 5) (opnd w 0 4))
  else   if fld w 4 7 = 1 then some (.shr (opnd w 21 5) (opnd w 16 5) (opnd w 11 5) (opnd w 0 4))
  else   if fld w 4 7 = 2 then some (.sar (opnd w 21 5) (opnd w 16 5) (opnd w 11 5) (opnd w 0 4))
  else none

/-- A-class major 0x05: MIN, MAX, MINU, MAXU. -/
def decA05 (w : W32) : Option Instr :=
  if fld w 4 7 = 0 then some (.min (opnd w 21 5) (opnd w 16 5) (opnd w 11 5) (opnd w 0 4))
  else   if fld w 4 7 = 1 then some (.max (opnd w 21 5) (opnd w 16 5) (opnd w 11 5) (opnd w 0 4))
  else   if fld w 4 7 = 2 then some (.minu (opnd w 21 5) (opnd w 16 5) (opnd w 11 5) (opnd w 0 4))
  else   if fld w 4 7 = 3 then some (.maxu (opnd w 21 5) (opnd w 16 5) (opnd w 11 5) (opnd w 0 4))
  else none

/-- A-class major 0x06: CLZ, POPC, BREV, EXTR, EXTR_S, INS, SEL. -/
def decA06 (w : W32) : Option Instr :=
  if fld w 4 12 = 0 then some (.clz (opnd w 21 5) (opnd w 16 5) (opnd w 0 4))
  else   if fld w 4 12 = 1 then some (.popc (opnd w 21 5) (opnd w 16 5) (opnd w 0 4))
  else   if fld w 4 12 = 2 then some (.brev (opnd w 21 5) (opnd w 16 5) (opnd w 0 4))
  else   if fld w 4 7 = 3 then some (.extr (opnd w 21 5) (opnd w 16 5) (opnd w 11 5) (opnd w 0 4))
  else   if fld w 4 7 = 4 then some (.extrS (opnd w 21 5) (opnd w 16 5) (opnd w 11 5) (opnd w 0 4))
  else   if fld w 4 7 = 5 then some (.ins (opnd w 21 5) (opnd w 16 5) (opnd w 11 5) (opnd w 0 4))
  else   if fld w 7 4 = 1 then some (.sel (opnd w 21 5) (opnd w 16 5) (opnd w 11 5) (opnd w 4 3) (opnd w 0 4))
  else none

/-- A-class major 0x07: RNDC, RNDC_U. -/
def decA07 (w : W32) : Option Instr :=
  if fld w 4 7 = 0 then some (.rndc (opnd w 21 5) (opnd w 16 5) (opnd w 11 5) (opnd w 0 4))
  else   if fld w 4 7 = 1 then some (.rndcU (opnd w 21 5) (opnd w 16 5) (opnd w 11 5) (opnd w 0 4))
  else none

/-- A-class major 0x08: ADDI. -/
def decA08 (w : W32) : Option Instr :=
  some (.addi (opnd w 21 5) (opnd w 16 5) (opnd w 4 12) (opnd w 0 4))

/-- A-class major 0x09: ANDI. -/
def decA09 (w : W32) : Option Instr :=
  some (.andi (opnd w 21 5) (opnd w 16 5) (opnd w 4 12) (opnd w 0 4))

/-- A-class major 0x0A: ORI. -/
def decA0A (w : W32) : Option Instr :=
  some (.ori (opnd w 21 5) (opnd w 16 5) (opnd w 4 12) (opnd w 0 4))

/-- A-class major 0x0B: XORI. -/
def decA0B (w : W32) : Option Instr :=
  some (.xori (opnd w 21 5) (opnd w 16 5) (opnd w 4 12) (opnd w 0 4))

/-- A-class major 0x0C: SHLI. -/
def decA0C (w : W32) : Option Instr :=
  if fld w 10 6 = 0 then some (.shli (opnd w 21 5) (opnd w 16 5) (opnd w 4 6) (opnd w 0 4))
  else none

/-- A-class major 0x0D: SHRI. -/
def decA0D (w : W32) : Option Instr :=
  if fld w 10 6 = 0 then some (.shri (opnd w 21 5) (opnd w 16 5) (opnd w 4 6) (opnd w 0 4))
  else none

/-- A-class major 0x0E: SARI. -/
def decA0E (w : W32) : Option Instr :=
  if fld w 10 6 = 0 then some (.sari (opnd w 21 5) (opnd w 16 5) (opnd w 4 6) (opnd w 0 4))
  else none

/-- A-class major 0x10: CMP. -/
def decA10 (w : W32) : Option Instr :=
  if fld w 8 3 = 0 ∧ fld w 24 2 = 0 then some (.cmp (opnd w 21 3) (opnd w 16 5) (opnd w 11 5) (opnd w 4 4) (opnd w 0 4))
  else none

/-- A-class major 0x11: CMPI. -/
def decA11 (w : W32) : Option Instr :=
  some (.cmpi (opnd w 24 2) (opnd w 21 3) (opnd w 16 5) (opnd w 4 12) (opnd w 0 4))

/-- A-class major 0x12: PLOG. -/
def decA12 (w : W32) : Option Instr :=
  if fld w 8 3 = 0 ∧ fld w 14 2 = 0 ∧ fld w 19 2 = 0 ∧ fld w 24 2 = 0 then some (.plog (opnd w 21 3) (opnd w 16 3) (opnd w 11 3) (opnd w 4 4) (opnd w 0 4))
  else none

/-- A-class major 0x13: CMPI_LE_GT_LTU_GEU. -/
def decA13 (w : W32) : Option Instr :=
  some (.cmpiLeGtLtuGeu (opnd w 24 2) (opnd w 21 3) (opnd w 16 5) (opnd w 4 12) (opnd w 0 4))

/-- A-class major 0x14: FADD, FSUB, FMUL, FDIV, FSQRT, FMIN, FMAX, FSGN_J, FSGN_JN, FSGN_JX, FSGN_J_PRED, FSGN_JN_PRED, FSGN_JX_PRED. -/
def decA14 (w : W32) : Option Instr :=
  if fld w 4 7 = 0 then some (.fadd (opnd w 21 5) (opnd w 16 5) (opnd w 11 5) (opnd w 0 4))
  else   if fld w 4 7 = 1 then some (.fsub (opnd w 21 5) (opnd w 16 5) (opnd w 11 5) (opnd w 0 4))
  else   if fld w 4 7 = 2 then some (.fmul (opnd w 21 5) (opnd w 16 5) (opnd w 11 5) (opnd w 0 4))
  else   if fld w 4 7 = 3 then some (.fdiv (opnd w 21 5) (opnd w 16 5) (opnd w 11 5) (opnd w 0 4))
  else   if fld w 4 12 = 4 then some (.fsqrt (opnd w 21 5) (opnd w 16 5) (opnd w 0 4))
  else   if fld w 4 7 = 5 then some (.fmin (opnd w 21 5) (opnd w 16 5) (opnd w 11 5) (opnd w 0 4))
  else   if fld w 4 7 = 6 then some (.fmax (opnd w 21 5) (opnd w 16 5) (opnd w 11 5) (opnd w 0 4))
  else   if fld w 4 7 = 7 then some (.fsgnJ (opnd w 21 5) (opnd w 16 5) (opnd w 11 5) (opnd w 0 4))
  else   if fld w 4 7 = 8 then some (.fsgnJn (opnd w 21 5) (opnd w 16 5) (opnd w 11 5) (opnd w 0 4))
  else   if fld w 4 7 = 9 then some (.fsgnJx (opnd w 21 5) (opnd w 16 5) (opnd w 11 5) (opnd w 0 4))
  else   if fld w 4 7 = 23 ∧ fld w 14 2 = 0 then some (.fsgnJPred (opnd w 21 5) (opnd w 16 5) (opnd w 11 3) (opnd w 0 4))
  else   if fld w 4 7 = 24 ∧ fld w 14 2 = 0 then some (.fsgnJnPred (opnd w 21 5) (opnd w 16 5) (opnd w 11 3) (opnd w 0 4))
  else   if fld w 4 7 = 25 ∧ fld w 14 2 = 0 then some (.fsgnJxPred (opnd w 21 5) (opnd w 16 5) (opnd w 11 3) (opnd w 0 4))
  else none

/-- A-class major 0x15: FFMA. -/
def decA15 (w : W32) : Option Instr :=
  if fld w 4 2 = 0 then some (.ffma (opnd w 21 5) (opnd w 16 5) (opnd w 11 5) (opnd w 6 5) (opnd w 0 4))
  else none

/-- A-class major 0x16: FCMP, FCLASS. -/
def decA16 (w : W32) : Option Instr :=
  if fld w 7 4 = 0 ∧ fld w 24 2 = 0 then some (.fcmp (opnd w 21 3) (opnd w 16 5) (opnd w 11 5) (opnd w 4 3) (opnd w 0 4))
  else   if fld w 4 12 = 8 then some (.fclass (opnd w 21 5) (opnd w 16 5) (opnd w 0 4))
  else none

/-- A-class major 0x17: FCVT, FRND. -/
def decA17 (w : W32) : Option Instr :=
  if fld w 10 6 = 0 then some (.fcvt (opnd w 21 5) (opnd w 16 5) (opnd w 7 3) (opnd w 4 3) (opnd w 0 4))
  else   if fld w 7 9 = 8 then some (.frnd (opnd w 21 5) (opnd w 16 5) (opnd w 4 3) (opnd w 0 4))
  else none

/-- A-class major 0x18: IVMK, IVMK_R, IVLO, IVHI, IWID, IMID, IVLO_NS, IVLO_NSC. -/
def decA18 (w : W32) : Option Instr :=
  if fld w 4 7 = 0 ∧ fld w 25 1 = 0 then some (.ivmk (opnd w 21 4) (opnd w 16 5) (opnd w 11 5) (opnd w 0 4))
  else   if fld w 4 7 = 1 ∧ fld w 25 1 = 0 then some (.ivmkR (opnd w 21 4) (opnd w 16 5) (opnd w 11 5) (opnd w 0 4))
  else   if fld w 4 12 = 2 ∧ fld w 20 1 = 0 then some (.ivlo (opnd w 21 5) (opnd w 16 4) (opnd w 0 4))
  else   if fld w 4 12 = 3 ∧ fld w 20 1 = 0 then some (.ivhi (opnd w 21 5) (opnd w 16 4) (opnd w 0 4))
  else   if fld w 4 12 = 4 ∧ fld w 20 1 = 0 then some (.iwid (opnd w 21 5) (opnd w 16 4) (opnd w 0 4))
  else   if fld w 4 12 = 5 ∧ fld w 20 1 = 0 then some (.imid (opnd w 21 5) (opnd w 16 4) (opnd w 0 4))
  else   if fld w 4 17 = 6 then some (.ivloNs (opnd w 21 5) (opnd w 0 4))
  else   if fld w 4 17 = 7 then some (.ivloNsc (opnd w 21 5) (opnd w 0 4))
  else none

/-- A-class major 0x19: IADD, ISUB, IMUL, IDIV. -/
def decA19 (w : W32) : Option Instr :=
  if fld w 4 10 = 0 then some (.iadd (opnd w 22 4) (opnd w 18 4) (opnd w 14 4) (opnd w 0 4))
  else   if fld w 4 10 = 1 then some (.isub (opnd w 22 4) (opnd w 18 4) (opnd w 14 4) (opnd w 0 4))
  else   if fld w 4 10 = 2 then some (.imul (opnd w 22 4) (opnd w 18 4) (opnd w 14 4) (opnd w 0 4))
  else   if fld w 4 10 = 3 then some (.idiv (opnd w 22 4) (opnd w 18 4) (opnd w 14 4) (opnd w 0 4))
  else none

/-- A-class major 0x1A: ISQ, ISQRT, IEXP2, IMAX, IMIN, IHULL, IISECT. -/
def decA1A (w : W32) : Option Instr :=
  if fld w 4 14 = 0 then some (.isq (opnd w 22 4) (opnd w 18 4) (opnd w 0 4))
  else   if fld w 4 14 = 1 then some (.isqrt (opnd w 22 4) (opnd w 18 4) (opnd w 0 4))
  else   if fld w 4 14 = 2 then some (.iexp2 (opnd w 22 4) (opnd w 18 4) (opnd w 0 4))
  else   if fld w 4 10 = 3 then some (.imax (opnd w 22 4) (opnd w 18 4) (opnd w 14 4) (opnd w 0 4))
  else   if fld w 4 10 = 4 then some (.imin (opnd w 22 4) (opnd w 18 4) (opnd w 14 4) (opnd w 0 4))
  else   if fld w 4 10 = 5 then some (.ihull (opnd w 22 4) (opnd w 18 4) (opnd w 14 4) (opnd w 0 4))
  else   if fld w 4 10 = 6 then some (.iisect (opnd w 22 4) (opnd w 18 4) (opnd w 14 4) (opnd w 0 4))
  else none

/-- A-class major 0x1B: ICMP, ICONT. -/
def decA1B (w : W32) : Option Instr :=
  if fld w 6 8 = 0 then some (.icmp (opnd w 22 4) (opnd w 18 4) (opnd w 14 4) (opnd w 4 2) (opnd w 0 4))
  else   if fld w 4 10 = 8 then some (.icont (opnd w 22 4) (opnd w 18 4) (opnd w 14 4) (opnd w 0 4))
  else none

/-- A-class major 0x1C: IADDC, IMULC, ISQC, IMAXC, IEXP2C. -/
def decA1C (w : W32) : Option Instr :=
  if fld w 4 4 = 0 ∧ fld w 11 3 = 0 then some (.iaddc (opnd w 22 4) (opnd w 18 4) (opnd w 14 4) (opnd w 8 3) (opnd w 0 4))
  else   if fld w 4 4 = 1 ∧ fld w 11 3 = 0 then some (.imulc (opnd w 22 4) (opnd w 18 4) (opnd w 14 4) (opnd w 8 3) (opnd w 0 4))
  else   if fld w 4 4 = 2 ∧ fld w 11 7 = 0 then some (.isqc (opnd w 22 4) (opnd w 18 4) (opnd w 8 3) (opnd w 0 4))
  else   if fld w 4 4 = 3 ∧ fld w 11 3 = 0 then some (.imaxc (opnd w 22 4) (opnd w 18 4) (opnd w 14 4) (opnd w 8 3) (opnd w 0 4))
  else   if fld w 4 4 = 4 ∧ fld w 11 7 = 0 then some (.iexp2c (opnd w 22 4) (opnd w 18 4) (opnd w 8 3) (opnd w 0 4))
  else none

/-- A-class major 0x20: VADD, VSUB, VMUL, VMIN, VMAX. -/
def decA20 (w : W32) : Option Instr :=
  if fld w 4 3 = 0 ∧ fld w 8 6 = 0 then some (.vadd (opnd w 22 4) (opnd w 18 4) (opnd w 14 4) (opnd w 7 1) (opnd w 0 4))
  else   if fld w 4 3 = 1 ∧ fld w 8 6 = 0 then some (.vsub (opnd w 22 4) (opnd w 18 4) (opnd w 14 4) (opnd w 7 1) (opnd w 0 4))
  else   if fld w 4 3 = 2 ∧ fld w 8 6 = 0 then some (.vmul (opnd w 22 4) (opnd w 18 4) (opnd w 14 4) (opnd w 7 1) (opnd w 0 4))
  else   if fld w 4 3 = 3 ∧ fld w 8 6 = 0 then some (.vmin (opnd w 22 4) (opnd w 18 4) (opnd w 14 4) (opnd w 7 1) (opnd w 0 4))
  else   if fld w 4 3 = 4 ∧ fld w 8 6 = 0 then some (.vmax (opnd w 22 4) (opnd w 18 4) (opnd w 14 4) (opnd w 7 1) (opnd w 0 4))
  else none

/-- A-class major 0x21: VFMA, VFMA_LNS. -/
def decA21 (w : W32) : Option Instr :=
  if fld w 4 6 = 0 then some (.vfma (opnd w 22 4) (opnd w 18 4) (opnd w 14 4) (opnd w 10 4) (opnd w 0 4))
  else   if fld w 4 6 = 1 then some (.vfmaLns (opnd w 22 4) (opnd w 18 4) (opnd w 14 4) (opnd w 10 4) (opnd w 0 4))
  else none

/-- A-class major 0x22: VAND, VOR, VXOR, VSHL, VSHR, VSHR_A. -/
def decA22 (w : W32) : Option Instr :=
  if fld w 4 10 = 0 then some (.vand (opnd w 22 4) (opnd w 18 4) (opnd w 14 4) (opnd w 0 4))
  else   if fld w 4 10 = 1 then some (.vor (opnd w 22 4) (opnd w 18 4) (opnd w 14 4) (opnd w 0 4))
  else   if fld w 4 10 = 2 then some (.vxor (opnd w 22 4) (opnd w 18 4) (opnd w 14 4) (opnd w 0 4))
  else   if fld w 4 10 = 3 then some (.vshl (opnd w 22 4) (opnd w 18 4) (opnd w 14 4) (opnd w 0 4))
  else   if fld w 4 10 = 4 then some (.vshr (opnd w 22 4) (opnd w 18 4) (opnd w 14 4) (opnd w 0 4))
  else   if fld w 4 10 = 5 then some (.vshrA (opnd w 22 4) (opnd w 18 4) (opnd w 14 4) (opnd w 0 4))
  else none

/-- A-class major 0x23: VCMP. -/
def decA23 (w : W32) : Option Instr :=
  if fld w 9 5 = 0 then some (.vcmp (opnd w 22 4) (opnd w 18 4) (opnd w 14 4) (opnd w 8 1) (opnd w 4 4) (opnd w 0 4))
  else none

/-- A-class major 0x24: VSEL. -/
def decA24 (w : W32) : Option Instr :=
  if fld w 4 6 = 0 then some (.vsel (opnd w 22 4) (opnd w 18 4) (opnd w 14 4) (opnd w 10 4) (opnd w 0 4))
  else none

/-- A-class major 0x25: VCVT. -/
def decA25 (w : W32) : Option Instr :=
  if fld w 14 4 = 0 then some (.vcvt (opnd w 22 4) (opnd w 18 4) (opnd w 10 4) (opnd w 7 3) (opnd w 4 3) (opnd w 0 4))
  else none

/-- A-class major 0x26: VEXP2, VLOG2, VRCP, VRSQ. -/
def decA26 (w : W32) : Option Instr :=
  if fld w 4 14 = 0 then some (.vexp2 (opnd w 22 4) (opnd w 18 4) (opnd w 0 4))
  else   if fld w 4 14 = 1 then some (.vlog2 (opnd w 22 4) (opnd w 18 4) (opnd w 0 4))
  else   if fld w 4 14 = 2 then some (.vrcp (opnd w 22 4) (opnd w 18 4) (opnd w 0 4))
  else   if fld w 4 14 = 3 then some (.vrsq (opnd w 22 4) (opnd w 18 4) (opnd w 0 4))
  else none

/-- A-class major 0x27: VREDSUM, VREDMAX, VSCAN. -/
def decA27 (w : W32) : Option Instr :=
  if fld w 4 3 = 0 ∧ fld w 8 10 = 0 then some (.vredsum (opnd w 22 4) (opnd w 18 4) (opnd w 7 1) (opnd w 0 4))
  else   if fld w 4 3 = 1 ∧ fld w 8 10 = 0 then some (.vredmax (opnd w 22 4) (opnd w 18 4) (opnd w 7 1) (opnd w 0 4))
  else   if fld w 4 3 = 2 ∧ fld w 8 10 = 0 then some (.vscan (opnd w 22 4) (opnd w 18 4) (opnd w 7 1) (opnd w 0 4))
  else none

/-- A-class major 0x28: VPERM, VIDX, VIDX_F. -/
def decA28 (w : W32) : Option Instr :=
  if fld w 4 6 = 0 then some (.vperm (opnd w 22 4) (opnd w 18 4) (opnd w 14 4) (opnd w 10 4) (opnd w 0 4))
  else   if fld w 4 18 = 1 then some (.vidx (opnd w 22 4) (opnd w 0 4))
  else   if fld w 4 18 = 2 then some (.vidxF (opnd w 22 4) (opnd w 0 4))
  else none

/-- A-class major 0x29: VMOVX, VINS, VBCAST. -/
def decA29 (w : W32) : Option Instr :=
  if fld w 4 7 = 0 ∧ fld w 20 1 = 0 then some (.vmovx (opnd w 21 5) (opnd w 16 4) (opnd w 11 5) (opnd w 0 4))
  else   if fld w 4 7 = 1 ∧ fld w 25 1 = 0 then some (.vins (opnd w 21 4) (opnd w 16 5) (opnd w 11 5) (opnd w 0 4))
  else   if fld w 4 12 = 2 ∧ fld w 25 1 = 0 then some (.vbcast (opnd w 21 4) (opnd w 16 5) (opnd w 0 4))
  else none

/-- A-class major 0x2A: VSORTK. -/
def decA2A (w : W32) : Option Instr :=
  if fld w 9 9 = 0 ∧ fld w 22 1 = 0 then some (.vsortk (opnd w 23 3) (opnd w 18 4) (opnd w 8 1) (opnd w 4 4) (opnd w 0 4))
  else none

/-- A-class major 0x2B: VMASKBM, VMASKBM_X. -/
def decA2B (w : W32) : Option Instr :=
  if fld w 4 14 = 0 then some (.vmaskbm (opnd w 22 4) (opnd w 18 4) (opnd w 0 4))
  else   if fld w 4 14 = 1 then some (.vmaskbmX (opnd w 22 4) (opnd w 18 4) (opnd w 0 4))
  else none

/-- A-class major 0x30: VIADD. -/
noncomputable def decA30 (w : W32) : Option Instr :=
  if fld w 4 11 = 0 ∧ fld w 18 1 = 0 ∧ fld w 22 1 = 0 then some (.viadd (opnd w 23 3) (opnd w 19 3) (opnd w 15 3) (opnd w 0 4))
  else none

/-- A-class major 0x31: VIMUL. -/
noncomputable def decA31 (w : W32) : Option Instr :=
  if fld w 4 11 = 0 ∧ fld w 18 1 = 0 ∧ fld w 22 1 = 0 then some (.vimul (opnd w 23 3) (opnd w 19 3) (opnd w 15 3) (opnd w 0 4))
  else none

/-- A-class major 0x32: VIFMA. -/
noncomputable def decA32 (w : W32) : Option Instr :=
  if fld w 4 7 = 0 ∧ fld w 14 1 = 0 ∧ fld w 18 1 = 0 ∧ fld w 22 1 = 0 then some (.vifma (opnd w 23 3) (opnd w 19 3) (opnd w 15 3) (opnd w 11 3) (opnd w 0 4))
  else none

/-- A-class major 0x33: VIMAX, VICMP. -/
noncomputable def decA33 (w : W32) : Option Instr :=
  if fld w 4 11 = 0 ∧ fld w 18 1 = 0 ∧ fld w 22 1 = 0 then some (.vimax (opnd w 23 3) (opnd w 19 3) (opnd w 15 3) (opnd w 0 4))
  else   if fld w 6 9 = 4 ∧ fld w 18 1 = 0 ∧ fld w 22 1 = 0 then some (.vicmp (opnd w 23 3) (opnd w 19 3) (opnd w 15 3) (opnd w 4 2) (opnd w 0 4))
  else none

/-- C-class major 0x00: C_NOP. -/
def decC00 (w : W32) : Option Instr :=
  if fld w 4 21 = 0 then some (.cNop (opnd w 0 4))
  else none

/-- C-class major 0x01: BR. -/
def decC01 (w : W32) : Option Instr :=
  some (.br (opnd w 4 21) (opnd w 0 4))

/-- C-class major 0x02: CALL. -/
def decC02 (w : W32) : Option Instr :=
  some (.call (opnd w 4 21) (opnd w 0 4))

/-- C-class major 0x04: JMPR, CALLR, RET. -/
def decC04 (w : W32) : Option Instr :=
  if fld w 20 5 = 0 then some (.jmpr (opnd w 15 5) (opnd w 4 11) (opnd w 0 4))
  else   if fld w 20 5 = 1 then some (.callr (opnd w 15 5) (opnd w 4 11) (opnd w 0 4))
  else   if fld w 4 21 = 131072 then some (.ret (opnd w 0 4))
  else none

/-- C-class major 0x05: LOOP. -/
def decC05 (w : W32) : Option Instr :=
  if fld w 15 5 = 0 then some (.loop (opnd w 20 5) (opnd w 4 11) (opnd w 0 4))
  else none

/-- C-class major 0x08: LD_B. -/
def decC08 (w : W32) : Option Instr :=
  some (.ldB (opnd w 20 5) (opnd w 15 5) (opnd w 4 11) (opnd w 0 4))

/-- C-class major 0x09: LD_BU. -/
def decC09 (w : W32) : Option Instr :=
  some (.ldBu (opnd w 20 5) (opnd w 15 5) (opnd w 4 11) (opnd w 0 4))

/-- C-class major 0x0A: LD_H. -/
def decC0A (w : W32) : Option Instr :=
  some (.ldH (opnd w 20 5) (opnd w 15 5) (opnd w 4 11) (opnd w 0 4))

/-- C-class major 0x0B: LD_HU. -/
def decC0B (w : W32) : Option Instr :=
  some (.ldHu (opnd w 20 5) (opnd w 15 5) (opnd w 4 11) (opnd w 0 4))

/-- C-class major 0x0C: LD_W. -/
def decC0C (w : W32) : Option Instr :=
  some (.ldW (opnd w 20 5) (opnd w 15 5) (opnd w 4 11) (opnd w 0 4))

/-- C-class major 0x0D: LD_WU. -/
def decC0D (w : W32) : Option Instr :=
  some (.ldWu (opnd w 20 5) (opnd w 15 5) (opnd w 4 11) (opnd w 0 4))

/-- C-class major 0x0E: LD_D. -/
def decC0E (w : W32) : Option Instr :=
  some (.ldD (opnd w 20 5) (opnd w 15 5) (opnd w 4 11) (opnd w 0 4))

/-- C-class major 0x0F: ST_B. -/
def decC0F (w : W32) : Option Instr :=
  some (.stB (opnd w 20 5) (opnd w 15 5) (opnd w 4 11) (opnd w 0 4))

/-- C-class major 0x10: ST_H. -/
def decC10 (w : W32) : Option Instr :=
  some (.stH (opnd w 20 5) (opnd w 15 5) (opnd w 4 11) (opnd w 0 4))

/-- C-class major 0x11: ST_W. -/
def decC11 (w : W32) : Option Instr :=
  some (.stW (opnd w 20 5) (opnd w 15 5) (opnd w 4 11) (opnd w 0 4))

/-- C-class major 0x12: ST_D. -/
def decC12 (w : W32) : Option Instr :=
  some (.stD (opnd w 20 5) (opnd w 15 5) (opnd w 4 11) (opnd w 0 4))

/-- C-class major 0x13: LDX, LDX_U, STX, LD_ORDERED, LD_U_ORDERED, ST_ORDERED. -/
def decC13 (w : W32) : Option Instr :=
  if fld w 4 4 = 0 then some (.ldx (opnd w 20 5) (opnd w 15 5) (opnd w 10 5) (opnd w 8 2) (opnd w 0 4))
  else   if fld w 4 4 = 1 then some (.ldxU (opnd w 20 5) (opnd w 15 5) (opnd w 10 5) (opnd w 8 2) (opnd w 0 4))
  else   if fld w 4 4 = 2 then some (.stx (opnd w 20 5) (opnd w 15 5) (opnd w 10 5) (opnd w 8 2) (opnd w 0 4))
  else   if fld w 4 4 = 3 then some (.ldOrdered (opnd w 20 5) (opnd w 15 5) (opnd w 13 2) (opnd w 10 3) (opnd w 8 2) (opnd w 0 4))
  else   if fld w 4 4 = 4 then some (.ldUOrdered (opnd w 20 5) (opnd w 15 5) (opnd w 13 2) (opnd w 10 3) (opnd w 8 2) (opnd w 0 4))
  else   if fld w 4 4 = 5 then some (.stOrdered (opnd w 20 5) (opnd w 15 5) (opnd w 13 2) (opnd w 10 3) (opnd w 8 2) (opnd w 0 4))
  else none

/-- C-class major 0x14: AMADD, AMFADD, AMMIN, AMMAX, AMAND, AMOR, AMXOR, AMXCHG, AMCAS. -/
def decC14 (w : W32) : Option Instr :=
  if fld w 4 1 = 0 ∧ fld w 11 4 = 0 then some (.amadd (opnd w 20 5) (opnd w 15 5) (opnd w 10 1) (opnd w 8 2) (opnd w 5 3) (opnd w 0 4))
  else   if fld w 4 1 = 0 ∧ fld w 10 5 = 2 then some (.amfadd (opnd w 20 5) (opnd w 15 5) (opnd w 8 2) (opnd w 5 3) (opnd w 0 4))
  else   if fld w 4 1 = 0 ∧ fld w 11 4 = 2 then some (.ammin (opnd w 20 5) (opnd w 15 5) (opnd w 10 1) (opnd w 8 2) (opnd w 5 3) (opnd w 0 4))
  else   if fld w 4 1 = 0 ∧ fld w 11 4 = 3 then some (.ammax (opnd w 20 5) (opnd w 15 5) (opnd w 10 1) (opnd w 8 2) (opnd w 5 3) (opnd w 0 4))
  else   if fld w 4 1 = 0 ∧ fld w 11 4 = 4 then some (.amand (opnd w 20 5) (opnd w 15 5) (opnd w 10 1) (opnd w 8 2) (opnd w 5 3) (opnd w 0 4))
  else   if fld w 4 1 = 0 ∧ fld w 11 4 = 5 then some (.amor (opnd w 20 5) (opnd w 15 5) (opnd w 10 1) (opnd w 8 2) (opnd w 5 3) (opnd w 0 4))
  else   if fld w 4 1 = 0 ∧ fld w 11 4 = 6 then some (.amxor (opnd w 20 5) (opnd w 15 5) (opnd w 10 1) (opnd w 8 2) (opnd w 5 3) (opnd w 0 4))
  else   if fld w 4 1 = 0 ∧ fld w 11 4 = 7 then some (.amxchg (opnd w 20 5) (opnd w 15 5) (opnd w 10 1) (opnd w 8 2) (opnd w 5 3) (opnd w 0 4))
  else   if fld w 4 1 = 0 ∧ fld w 11 4 = 8 then some (.amcas (opnd w 20 5) (opnd w 15 5) (opnd w 10 1) (opnd w 8 2) (opnd w 5 3) (opnd w 0 4))
  else none

/-- C-class major 0x15: LDV, STV, LDVS, STVS, LDVG, STVG. -/
def decC15 (w : W32) : Option Instr :=
  if fld w 4 6 = 0 ∧ fld w 24 1 = 0 then some (.ldv (opnd w 20 4) (opnd w 15 5) (opnd w 10 5) (opnd w 0 4))
  else   if fld w 4 6 = 1 ∧ fld w 24 1 = 0 then some (.stv (opnd w 20 4) (opnd w 15 5) (opnd w 10 5) (opnd w 0 4))
  else   if fld w 4 6 = 2 ∧ fld w 24 1 = 0 then some (.ldvs (opnd w 20 4) (opnd w 15 5) (opnd w 10 5) (opnd w 0 4))
  else   if fld w 4 6 = 3 ∧ fld w 24 1 = 0 then some (.stvs (opnd w 20 4) (opnd w 15 5) (opnd w 10 5) (opnd w 0 4))
  else   if fld w 4 6 = 4 ∧ fld w 14 1 = 0 ∧ fld w 24 1 = 0 then some (.ldvg (opnd w 20 4) (opnd w 15 5) (opnd w 10 4) (opnd w 0 4))
  else   if fld w 4 6 = 5 ∧ fld w 14 1 = 0 ∧ fld w 24 1 = 0 then some (.stvg (opnd w 20 4) (opnd w 15 5) (opnd w 10 4) (opnd w 0 4))
  else none

/-- C-class major 0x16: IVLD, IVST. -/
def decC16 (w : W32) : Option Instr :=
  if fld w 24 1 = 0 then some (.ivld (opnd w 20 4) (opnd w 15 5) (opnd w 4 11) (opnd w 0 4))
  else   if fld w 24 1 = 1 then some (.ivst (opnd w 20 4) (opnd w 15 5) (opnd w 4 11) (opnd w 0 4))
  else none

/-- C-class major 0x17: FENCE, PREF, VAPPEND, VAPPEND_M. -/
def decC17 (w : W32) : Option Instr :=
  if fld w 4 6 = 0 ∧ fld w 15 10 = 0 then some (.fence (opnd w 13 2) (opnd w 10 3) (opnd w 0 4))
  else   if fld w 4 11 = 1 then some (.pref (opnd w 20 5) (opnd w 15 5) (opnd w 0 4))
  else   if fld w 4 4 = 2 ∧ fld w 9 2 = 0 ∧ fld w 14 1 = 0 then some (.vappend (opnd w 20 5) (opnd w 15 5) (opnd w 11 3) (opnd w 8 1) (opnd w 0 4))
  else   if fld w 4 4 = 3 ∧ fld w 9 2 = 0 ∧ fld w 14 1 = 0 then some (.vappendM (opnd w 20 5) (opnd w 15 5) (opnd w 11 3) (opnd w 8 1) (opnd w 0 4))
  else none

/-- C-class major 0x18: BASTE. -/
def decC18 (w : W32) : Option Instr :=
  if fld w 4 16 = 0 then some (.baste (opnd w 20 5) (opnd w 0 4))
  else none

/-- C-class major 0x19: TACK. -/
def decC19 (w : W32) : Option Instr :=
  if fld w 4 11 = 0 then some (.tack (opnd w 20 5) (opnd w 15 5) (opnd w 0 4))
  else none

/-- C-class major 0x1A: UNPICK. -/
def decC1A (w : W32) : Option Instr :=
  if fld w 4 11 = 0 then some (.unpick (opnd w 20 5) (opnd w 15 5) (opnd w 0 4))
  else none

/-- C-class major 0x1B: BWIN. -/
def decC1B (w : W32) : Option Instr :=
  some (.bwin (opnd w 20 5) (opnd w 15 5) (opnd w 4 11) (opnd w 0 4))

/-- C-class major 0x1C: SPAWN, SPAWN_C. -/
def decC1C (w : W32) : Option Instr :=
  if fld w 4 11 = 0 then some (.spawn (opnd w 20 5) (opnd w 15 5) (opnd w 0 4))
  else   if fld w 4 6 = 32 then some (.spawnC (opnd w 20 5) (opnd w 15 5) (opnd w 10 5) (opnd w 0 4))
  else none

/-- C-class major 0x1D: FORK, FORK_C. -/
def decC1D (w : W32) : Option Instr :=
  if fld w 4 16 = 0 ∧ fld w 23 2 = 0 then some (.fork (opnd w 20 3) (opnd w 0 4))
  else   if fld w 4 6 = 32 ∧ fld w 15 5 = 0 ∧ fld w 23 2 = 0 then some (.forkC (opnd w 20 3) (opnd w 10 5) (opnd w 0 4))
  else none

/-- C-class major 0x1E: QUIT. -/
def decC1E (w : W32) : Option Instr :=
  if fld w 4 21 = 0 then some (.quit (opnd w 0 4))
  else none

/-- C-class major 0x1F: YIELD, YIELD_H. -/
def decC1F (w : W32) : Option Instr :=
  if fld w 4 21 = 0 then some (.yield (opnd w 0 4))
  else   if fld w 4 21 = 32 then some (.yieldH (opnd w 0 4))
  else none

/-- C-class major 0x20: MEET, MEET_T. -/
def decC20 (w : W32) : Option Instr :=
  if fld w 4 1 = 0 ∧ fld w 20 5 = 0 then some (.meet (opnd w 15 5) (opnd w 5 10) (opnd w 0 4))
  else   if fld w 4 1 = 0 then some (.meetT (opnd w 20 5) (opnd w 15 5) (opnd w 5 10) (opnd w 0 4))
  else none

/-- C-class major 0x21: MOVM. -/
def decC21 (w : W32) : Option Instr :=
  if fld w 4 11 = 0 ∧ fld w 23 2 = 0 then some (.movm (opnd w 20 3) (opnd w 15 5) (opnd w 0 4))
  else none

/-- C-class major 0x22: BARA. -/
def decC22 (w : W32) : Option Instr :=
  if fld w 4 11 = 0 then some (.bara (opnd w 20 5) (opnd w 15 5) (opnd w 0 4))
  else none

/-- C-class major 0x23: BARW. -/
def decC23 (w : W32) : Option Instr :=
  if fld w 4 11 = 0 then some (.barw (opnd w 20 5) (opnd w 15 5) (opnd w 0 4))
  else none

/-- C-class major 0x24: BARG. -/
def decC24 (w : W32) : Option Instr :=
  if fld w 12 13 = 0 then some (.barg (opnd w 4 8) (opnd w 0 4))
  else none

/-- C-class major 0x25: LAUNCH. -/
def decC25 (w : W32) : Option Instr :=
  if fld w 23 2 = 0 then some (.launch (opnd w 20 3) (opnd w 15 5) (opnd w 4 11) (opnd w 0 4))
  else none

/-- C-class major 0x26: LAUNCHW. -/
def decC26 (w : W32) : Option Instr :=
  if fld w 20 5 = 0 then some (.launchw (opnd w 15 5) (opnd w 4 11) (opnd w 0 4))
  else none

/-- C-class major 0x27: TASK_ARM, TASK_DIS. -/
def decC27 (w : W32) : Option Instr :=
  if fld w 4 16 = 0 then some (.taskArm (opnd w 20 5) (opnd w 0 4))
  else   if fld w 4 16 = 1 then some (.taskDis (opnd w 20 5) (opnd w 0 4))
  else none

/-- C-class major 0x28: QPUSH, QPOP, QTRY. -/
def decC28 (w : W32) : Option Instr :=
  if fld w 4 11 = 0 ∧ fld w 19 1 = 0 ∧ fld w 23 2 = 0 then some (.qpush (opnd w 20 3) (opnd w 15 4) (opnd w 0 4))
  else   if fld w 4 11 = 1 ∧ fld w 19 1 = 0 ∧ fld w 23 2 = 0 then some (.qpop (opnd w 20 3) (opnd w 15 4) (opnd w 0 4))
  else   if fld w 4 6 = 2 ∧ fld w 13 2 = 0 ∧ fld w 19 1 = 0 ∧ fld w 23 2 = 0 then some (.qtry (opnd w 20 3) (opnd w 15 4) (opnd w 10 3) (opnd w 0 4))
  else none

/-- C-class major 0x29: WAITC. -/
def decC29 (w : W32) : Option Instr :=
  if fld w 4 1 = 0 then some (.waitc (opnd w 20 5) (opnd w 15 5) (opnd w 10 5) (opnd w 5 5) (opnd w 0 4))
  else none

/-- C-class major 0x2A: BATCH, WAITB. -/
def decC2A (w : W32) : Option Instr :=
  if fld w 4 16 = 0 then some (.batch (opnd w 20 5) (opnd w 0 4))
  else   if fld w 4 6 = 1 ∧ fld w 15 10 = 0 then some (.waitb (opnd w 10 5) (opnd w 0 4))
  else none

/-- C-class major 0x2B: SBIND, SBIND_X. -/
def decC2B (w : W32) : Option Instr :=
  if fld w 4 6 = 0 ∧ fld w 15 5 = 0 ∧ fld w 23 2 = 0 then some (.sbind (opnd w 20 3) (opnd w 10 5) (opnd w 0 4))
  else   if fld w 4 16 = 1 ∧ fld w 23 2 = 0 then some (.sbindX (opnd w 20 3) (opnd w 0 4))
  else none

/-- C-class major 0x2C: MOVS, VMOVS. -/
def decC2C (w : W32) : Option Instr :=
  if fld w 4 11 = 0 ∧ fld w 18 2 = 0 then some (.movs (opnd w 20 5) (opnd w 15 3) (opnd w 0 4))
  else   if fld w 4 11 = 1 ∧ fld w 18 2 = 0 ∧ fld w 24 1 = 0 then some (.vmovs (opnd w 20 4) (opnd w 15 3) (opnd w 0 4))
  else none

/-- C-class major 0x2D: GNEXT. -/
def decC2D (w : W32) : Option Instr :=
  some (.gnext (opnd w 20 5) (opnd w 15 5) (opnd w 10 5) (opnd w 7 3) (opnd w 4 3) (opnd w 0 4))

/-- C-class major 0x2E: WAKEON, WAKEON_X. -/
def decC2E (w : W32) : Option Instr :=
  if fld w 4 6 = 0 ∧ fld w 13 7 = 0 then some (.wakeon (opnd w 20 5) (opnd w 10 3) (opnd w 0 4))
  else   if fld w 4 6 = 1 ∧ fld w 13 12 = 0 then some (.wakeonX (opnd w 10 3) (opnd w 0 4))
  else none

/-- C-class major 0x2F: CRPASS, CRTAKE. -/
def decC2F (w : W32) : Option Instr :=
  if fld w 4 11 = 0 then some (.crpass (opnd w 20 5) (opnd w 15 5) (opnd w 0 4))
  else   if fld w 4 11 = 1 then some (.crtake (opnd w 20 5) (opnd w 15 5) (opnd w 0 4))
  else none

/-- C-class major 0x30: TRAP, BRK. -/
def decC30 (w : W32) : Option Instr :=
  if fld w 15 10 = 0 then some (.trap (opnd w 4 11) (opnd w 0 4))
  else   if fld w 15 10 = 32 then some (.brk (opnd w 4 11) (opnd w 0 4))
  else none

/-- C-class major 0x31: RETT. -/
def decC31 (w : W32) : Option Instr :=
  if fld w 4 21 = 0 then some (.rett (opnd w 0 4))
  else none

/-- C-class major 0x32: RDSR. -/
def decC32 (w : W32) : Option Instr :=
  if fld w 15 5 = 0 then some (.rdsr (opnd w 20 5) (opnd w 4 11) (opnd w 0 4))
  else none

/-- C-class major 0x33: WRSR. -/
def decC33 (w : W32) : Option Instr :=
  if fld w 20 5 = 0 then some (.wrsr (opnd w 15 5) (opnd w 4 11) (opnd w 0 4))
  else none

/-- C-class major 0x34: SWAPWP. -/
def decC34 (w : W32) : Option Instr :=
  if fld w 4 11 = 0 then some (.swapwp (opnd w 20 5) (opnd w 15 5) (opnd w 0 4))
  else none

/-- C-class major 0x35: LIVE_P, LIVE_D. -/
def decC35 (w : W32) : Option Instr :=
  if fld w 15 10 = 0 then some (.liveP (opnd w 4 11) (opnd w 0 4))
  else   if fld w 4 11 = 0 ∧ fld w 20 5 = 1 then some (.liveD (opnd w 15 5) (opnd w 0 4))
  else none

/-- C-class major 0x36: SLOTW. -/
def decC36 (w : W32) : Option Instr :=
  if fld w 4 11 = 0 then some (.slotw (opnd w 20 5) (opnd w 15 5) (opnd w 0 4))
  else none

/-- C-class major 0x37: STINV, STINV_ALL. -/
def decC37 (w : W32) : Option Instr :=
  if fld w 10 5 = 0 then some (.stinv (opnd w 20 5) (opnd w 15 5) (opnd w 4 6) (opnd w 0 4))
  else   if fld w 4 16 = 64 then some (.stinvAll (opnd w 20 5) (opnd w 0 4))
  else none

/-- C-class major 0x38: KILL, KILL_T. -/
def decC38 (w : W32) : Option Instr :=
  if fld w 4 11 = 0 then some (.kill (opnd w 20 5) (opnd w 15 5) (opnd w 0 4))
  else   if fld w 4 11 = 1 then some (.killT (opnd w 20 5) (opnd w 15 5) (opnd w 0 4))
  else none

/-- C-class major 0x39: GANG. -/
def decC39 (w : W32) : Option Instr :=
  if fld w 4 11 = 0 then some (.gang (opnd w 20 5) (opnd w 15 5) (opnd w 0 4))
  else none

/-- C-class major 0x3A: MXRS, MXRS_PAGE, MXRS_POISON. -/
def decC3A (w : W32) : Option Instr :=
  if fld w 4 11 = 0 then some (.mxrs (opnd w 20 5) (opnd w 15 5) (opnd w 0 4))
  else   if fld w 4 11 = 1 then some (.mxrsPage (opnd w 20 5) (opnd w 15 5) (opnd w 0 4))
  else   if fld w 4 11 = 2 then some (.mxrsPoison (opnd w 20 5) (opnd w 15 5) (opnd w 0 4))
  else none

/-- C-class major 0x3B: RDTS, RDCTR, RDCTR_LO, RDCTR_HI. -/
def decC3B (w : W32) : Option Instr :=
  if fld w 4 16 = 0 then some (.rdts (opnd w 20 5) (opnd w 0 4))
  else   if fld w 12 8 = 2 then some (.rdctr (opnd w 20 5) (opnd w 4 8) (opnd w 0 4))
  else   if fld w 12 8 = 4 then some (.rdctrLo (opnd w 20 5) (opnd w 4 8) (opnd w 0 4))
  else   if fld w 12 8 = 6 then some (.rdctrHi (opnd w 20 5) (opnd w 4 8) (opnd w 0 4))
  else none

/-- The A-class word (word 1 of a pair), its fields not yet checked by the entries (R58). -/
noncomputable def rawA (w : W32) : Option Instr :=
  match fld w 26 6 with
  | 0x00 => decA00 w
  | 0x01 => decA01 w
  | 0x02 => decA02 w
  | 0x03 => decA03 w
  | 0x04 => decA04 w
  | 0x05 => decA05 w
  | 0x06 => decA06 w
  | 0x07 => decA07 w
  | 0x08 => decA08 w
  | 0x09 => decA09 w
  | 0x0A => decA0A w
  | 0x0B => decA0B w
  | 0x0C => decA0C w
  | 0x0D => decA0D w
  | 0x0E => decA0E w
  | 0x10 => decA10 w
  | 0x11 => decA11 w
  | 0x12 => decA12 w
  | 0x13 => decA13 w
  | 0x14 => decA14 w
  | 0x15 => decA15 w
  | 0x16 => decA16 w
  | 0x17 => decA17 w
  | 0x18 => decA18 w
  | 0x19 => decA19 w
  | 0x1A => decA1A w
  | 0x1B => decA1B w
  | 0x1C => decA1C w
  | 0x20 => decA20 w
  | 0x21 => decA21 w
  | 0x22 => decA22 w
  | 0x23 => decA23 w
  | 0x24 => decA24 w
  | 0x25 => decA25 w
  | 0x26 => decA26 w
  | 0x27 => decA27 w
  | 0x28 => decA28 w
  | 0x29 => decA29 w
  | 0x2A => decA2A w
  | 0x2B => decA2B w
  | 0x30 => decA30 w
  | 0x31 => decA31 w
  | 0x32 => decA32 w
  | 0x33 => decA33 w
  | _ => none

/-- The C-class word with L = 0 (R59). -/
def rawC (w : W32) : Option Instr :=
  match fld w 25 6 with
  | 0x00 => decC00 w
  | 0x01 => decC01 w
  | 0x02 => decC02 w
  | 0x04 => decC04 w
  | 0x05 => decC05 w
  | 0x08 => decC08 w
  | 0x09 => decC09 w
  | 0x0A => decC0A w
  | 0x0B => decC0B w
  | 0x0C => decC0C w
  | 0x0D => decC0D w
  | 0x0E => decC0E w
  | 0x0F => decC0F w
  | 0x10 => decC10 w
  | 0x11 => decC11 w
  | 0x12 => decC12 w
  | 0x13 => decC13 w
  | 0x14 => decC14 w
  | 0x15 => decC15 w
  | 0x16 => decC16 w
  | 0x17 => decC17 w
  | 0x18 => decC18 w
  | 0x19 => decC19 w
  | 0x1A => decC1A w
  | 0x1B => decC1B w
  | 0x1C => decC1C w
  | 0x1D => decC1D w
  | 0x1E => decC1E w
  | 0x1F => decC1F w
  | 0x20 => decC20 w
  | 0x21 => decC21 w
  | 0x22 => decC22 w
  | 0x23 => decC23 w
  | 0x24 => decC24 w
  | 0x25 => decC25 w
  | 0x26 => decC26 w
  | 0x27 => decC27 w
  | 0x28 => decC28 w
  | 0x29 => decC29 w
  | 0x2A => decC2A w
  | 0x2B => decC2B w
  | 0x2C => decC2C w
  | 0x2D => decC2D w
  | 0x2E => decC2E w
  | 0x2F => decC2F w
  | 0x30 => decC30 w
  | 0x31 => decC31 w
  | 0x32 => decC32 w
  | 0x33 => decC33 w
  | 0x34 => decC34 w
  | 0x35 => decC35 w
  | 0x36 => decC36 w
  | 0x37 => decC37 w
  | 0x38 => decC38 w
  | 0x39 => decC39 w
  | 0x3A => decC3A w
  | 0x3B => decC3B w
  | _ => none

/-- Long forms of major 0x01 (R51). -/
def decL01 (w ext : W32) : Option Instr :=
  if fld w 4 21 = 0 then some (.brLong  ext (opnd w 0 4))
  else none

/-- Long forms of major 0x02 (R51). -/
def decL02 (w ext : W32) : Option Instr :=
  if fld w 4 21 = 0 then some (.callLong  ext (opnd w 0 4))
  else none

/-- Long forms of major 0x03 (R51). -/
def decL03 (w ext : W32) : Option Instr :=
  if fld w 4 21 = 0 then some (.jmp  ext (opnd w 0 4))
  else none

/-- Long forms of major 0x06 (R51). -/
def decL06 (w ext : W32) : Option Instr :=
  if fld w 15 5 = 0 ∧ fld w 10 5 = 0 ∧ fld w 4 6 = 0 then some (.li (opnd w 20 5) ext (opnd w 0 4))
  else   if fld w 15 5 = 0 ∧ fld w 10 5 = 1 ∧ fld w 4 6 = 0 then some (.lih (opnd w 20 5) ext (opnd w 0 4))
  else none

/-- Long forms of major 0x07 (R51). -/
def decL07 (w ext : W32) : Option Instr :=
  if fld w 10 5 = 0 ∧ fld w 4 6 = 0 then some (.addiL (opnd w 20 5) (opnd w 15 5) ext (opnd w 0 4))
  else   if fld w 14 1 = 1 ∧ fld w 23 2 = 0 ∧ fld w 4 6 = 0 then some (.cmpiL (opnd w 20 3) (opnd w 15 5) (opnd w 10 4) ext (opnd w 0 4))
  else none

/-- Long forms of major 0x08 (R51). -/
def decL08 (w ext : W32) : Option Instr :=
  if fld w 4 11 = 0 then some (.ldBLong (opnd w 20 5) (opnd w 15 5) ext (opnd w 0 4))
  else none

/-- Long forms of major 0x09 (R51). -/
def decL09 (w ext : W32) : Option Instr :=
  if fld w 4 11 = 0 then some (.ldBuLong (opnd w 20 5) (opnd w 15 5) ext (opnd w 0 4))
  else none

/-- Long forms of major 0x0A (R51). -/
def decL0A (w ext : W32) : Option Instr :=
  if fld w 4 11 = 0 then some (.ldHLong (opnd w 20 5) (opnd w 15 5) ext (opnd w 0 4))
  else none

/-- Long forms of major 0x0B (R51). -/
def decL0B (w ext : W32) : Option Instr :=
  if fld w 4 11 = 0 then some (.ldHuLong (opnd w 20 5) (opnd w 15 5) ext (opnd w 0 4))
  else none

/-- Long forms of major 0x0C (R51). -/
def decL0C (w ext : W32) : Option Instr :=
  if fld w 4 11 = 0 then some (.ldWLong (opnd w 20 5) (opnd w 15 5) ext (opnd w 0 4))
  else none

/-- Long forms of major 0x0D (R51). -/
def decL0D (w ext : W32) : Option Instr :=
  if fld w 4 11 = 0 then some (.ldWuLong (opnd w 20 5) (opnd w 15 5) ext (opnd w 0 4))
  else none

/-- Long forms of major 0x0E (R51). -/
def decL0E (w ext : W32) : Option Instr :=
  if fld w 4 11 = 0 then some (.ldDLong (opnd w 20 5) (opnd w 15 5) ext (opnd w 0 4))
  else none

/-- Long forms of major 0x0F (R51). -/
def decL0F (w ext : W32) : Option Instr :=
  if fld w 4 11 = 0 then some (.stBLong (opnd w 20 5) (opnd w 15 5) ext (opnd w 0 4))
  else none

/-- Long forms of major 0x10 (R51). -/
def decL10 (w ext : W32) : Option Instr :=
  if fld w 4 11 = 0 then some (.stHLong (opnd w 20 5) (opnd w 15 5) ext (opnd w 0 4))
  else none

/-- Long forms of major 0x11 (R51). -/
def decL11 (w ext : W32) : Option Instr :=
  if fld w 4 11 = 0 then some (.stWLong (opnd w 20 5) (opnd w 15 5) ext (opnd w 0 4))
  else none

/-- Long forms of major 0x12 (R51). -/
def decL12 (w ext : W32) : Option Instr :=
  if fld w 4 11 = 0 then some (.stDLong (opnd w 20 5) (opnd w 15 5) ext (opnd w 0 4))
  else none

/-- Long forms of major 0x13 (R51). -/
def decL13 (w ext : W32) : Option Instr :=
  if fld w 4 4 = 3 then some (.ldOrderedLong (opnd w 20 5) (opnd w 15 5) (opnd w 13 2) (opnd w 10 3) (opnd w 8 2) ext (opnd w 0 4))
  else   if fld w 4 4 = 4 then some (.ldUOrderedLong (opnd w 20 5) (opnd w 15 5) (opnd w 13 2) (opnd w 10 3) (opnd w 8 2) ext (opnd w 0 4))
  else   if fld w 4 4 = 5 then some (.stOrderedLong (opnd w 20 5) (opnd w 15 5) (opnd w 13 2) (opnd w 10 3) (opnd w 8 2) ext (opnd w 0 4))
  else none

/-- Long forms of major 0x16 (R51). -/
def decL16 (w ext : W32) : Option Instr :=
  if fld w 24 1 = 0 ∧ fld w 4 11 = 0 then some (.ivldLong (opnd w 20 4) (opnd w 15 5) ext (opnd w 0 4))
  else   if fld w 24 1 = 1 ∧ fld w 4 11 = 0 then some (.ivstLong (opnd w 20 4) (opnd w 15 5) ext (opnd w 0 4))
  else none

/-- Long forms of major 0x20 (R51). -/
def decL20 (w ext : W32) : Option Instr :=
  if fld w 4 11 = 0 then some (.meetLong (opnd w 20 5) (opnd w 15 5) ext (opnd w 0 4))
  else none

/-- Long forms of major 0x25 (R51). -/
def decL25 (w ext : W32) : Option Instr :=
  if fld w 23 2 = 0 ∧ fld w 4 11 = 0 then some (.launchLong (opnd w 20 3) (opnd w 15 5) ext (opnd w 0 4))
  else none

/-- A long form: word 0 with L = 1 and its extension (R51). -/
def rawL (w ext : W32) : Option Instr :=
  match fld w 25 6 with
  | 0x01 => decL01 w ext
  | 0x02 => decL02 w ext
  | 0x03 => decL03 w ext
  | 0x06 => decL06 w ext
  | 0x07 => decL07 w ext
  | 0x08 => decL08 w ext
  | 0x09 => decL09 w ext
  | 0x0A => decL0A w ext
  | 0x0B => decL0B w ext
  | 0x0C => decL0C w ext
  | 0x0D => decL0D w ext
  | 0x0E => decL0E w ext
  | 0x0F => decL0F w ext
  | 0x10 => decL10 w ext
  | 0x11 => decL11 w ext
  | 0x12 => decL12 w ext
  | 0x13 => decL13 w ext
  | 0x16 => decL16 w ext
  | 0x20 => decL20 w ext
  | 0x25 => decL25 w ext
  | _ => none

/-- The fields obey the entry of the instruction (R60). -/
def checked (r : Reject) : Option Instr → Except Reject Instr
  | none => .error r
  | some i => if i.wf then .ok i else .error .illFormed

/-- An A-class word. -/
noncomputable def decodeA (w : W32) : Except Reject Instr := checked .unassigned (rawA w)

/-- A C-class word with L = 0. -/
def decodeC (w : W32) : Except Reject Instr :=
  if fld w 25 6 = 0x03 ∨ fld w 25 6 = 0x06 ∨ fld w 25 6 = 0x07 then .error .shortOfLongOnly
  else checked .unassigned (rawC w)

/-- A C-class word with L = 1 and its extension. -/
def decodeL (w ext : W32) : Except Reject Instr := checked .noLongForm (rawL w ext)

/-- What one bundle holds (R49). -/
inductive Bundle where
  | pair (c a : Instr)
  | long (c : Instr)
  deriving DecidableEq, Repr

/-- Word 0 of a bundle, in the low half (R48). -/
def word0 (b : W64) : W32 := BitVec.ofNat 32 b.toNat

/-- Word 1 of a bundle, in the high half (R48). -/
def word1 (b : W64) : W32 := BitVec.ofNat 32 (b.toNat / 2 ^ 32)

/-- Decoding a bundle: word 0's check before word 1's (R61). -/
noncomputable def decodeBundle (b : W64) : Except Reject Bundle :=
  if fld (word0 b) 31 1 = 1 then
    match decodeL (word0 b) (word1 b) with
    | .ok c => .ok (.long c)
    | .error r => .error r
  else
    match decodeC (word0 b) with
    | .error r => .error r
    | .ok c =>
      match decodeA (word1 b) with
      | .error r => .error r
      | .ok a => .ok (.pair c a)

/-- The part of a bundle a row of the table encodes. -/
inductive WordClass where
  | aWord | cWord | longForm | deviceStep
  deriving DecidableEq, Repr

/-- Which word the instruction is (R54, R55, R51); the device's own steps are no words. -/
def Instr.wordClass : Instr → WordClass
  | .aNop .. | .add .. | .sub .. | .mul .. | .mulh .. | .mulhu ..
  | .div .. | .divu .. | .rem .. | .remu .. | .and .. | .or ..
  | .xor .. | .andn .. | .shl .. | .shr .. | .sar .. | .min ..
  | .max .. | .minu .. | .maxu .. | .clz .. | .popc .. | .brev ..
  | .extr .. | .extrS .. | .ins .. | .sel .. | .rndc .. | .rndcU ..
  | .addi .. | .andi .. | .ori .. | .xori .. | .shli .. | .shri ..
  | .sari .. | .cmp .. | .cmpi .. | .cmpiLeGtLtuGeu .. | .plog .. | .fadd ..
  | .fsub .. | .fmul .. | .fdiv .. | .fsqrt .. | .fmin .. | .fmax ..
  | .fsgnJ .. | .fsgnJn .. | .fsgnJx .. | .fsgnJPred .. | .fsgnJnPred .. | .fsgnJxPred ..
  | .ffma .. | .fcmp .. | .fclass .. | .fcvt .. | .frnd .. | .ivmk ..
  | .ivmkR .. | .ivlo .. | .ivhi .. | .iwid .. | .imid .. | .ivloNs ..
  | .ivloNsc .. | .iadd .. | .isub .. | .imul .. | .idiv .. | .isq ..
  | .isqrt .. | .iexp2 .. | .imax .. | .imin .. | .ihull .. | .iisect ..
  | .icmp .. | .icont .. | .iaddc .. | .imulc .. | .isqc .. | .imaxc ..
  | .iexp2c .. | .vadd .. | .vsub .. | .vmul .. | .vmin .. | .vmax ..
  | .vfma .. | .vfmaLns .. | .vand .. | .vor .. | .vxor .. | .vshl ..
  | .vshr .. | .vshrA .. | .vcmp .. | .vsel .. | .vcvt .. | .vexp2 ..
  | .vlog2 .. | .vrcp .. | .vrsq .. | .vredsum .. | .vredmax .. | .vscan ..
  | .vperm .. | .vidx .. | .vidxF .. | .vmovx .. | .vins .. | .vbcast ..
  | .vsortk .. | .vmaskbm .. | .vmaskbmX .. | .viadd .. | .vimul .. | .vifma ..
  | .vimax .. | .vicmp .. => .aWord
  | .cNop .. | .br .. | .call .. | .jmpr .. | .callr .. | .ret ..
  | .loop .. | .ldB .. | .ldBu .. | .ldH .. | .ldHu .. | .ldW ..
  | .ldWu .. | .ldD .. | .stB .. | .stH .. | .stW .. | .stD ..
  | .ldx .. | .ldxU .. | .stx .. | .ldOrdered .. | .ldUOrdered .. | .stOrdered ..
  | .amadd .. | .amfadd .. | .ammin .. | .ammax .. | .amand .. | .amor ..
  | .amxor .. | .amxchg .. | .amcas .. | .ldv .. | .stv .. | .ldvs ..
  | .stvs .. | .ldvg .. | .stvg .. | .ivld .. | .ivst .. | .fence ..
  | .pref .. | .vappend .. | .vappendM .. | .baste .. | .tack .. | .unpick ..
  | .bwin .. | .spawn .. | .spawnC .. | .fork .. | .forkC .. | .quit ..
  | .yield .. | .yieldH .. | .meet .. | .meetT .. | .movm .. | .bara ..
  | .barw .. | .barg .. | .launch .. | .launchw .. | .taskArm .. | .taskDis ..
  | .qpush .. | .qpop .. | .qtry .. | .waitc .. | .batch .. | .waitb ..
  | .sbind .. | .sbindX .. | .movs .. | .vmovs .. | .gnext .. | .wakeon ..
  | .wakeonX .. | .crpass .. | .crtake .. | .trap .. | .brk .. | .rett ..
  | .rdsr .. | .wrsr .. | .swapwp .. | .liveP .. | .liveD .. | .slotw ..
  | .stinv .. | .stinvAll .. | .kill .. | .killT .. | .gang .. | .mxrs ..
  | .mxrsPage .. | .mxrsPoison .. | .rdts .. | .rdctr .. | .rdctrLo .. | .rdctrHi .. => .cWord
  | .brLong .. | .callLong .. | .jmp .. | .li .. | .lih .. | .addiL ..
  | .cmpiL .. | .meetLong .. | .launchLong .. | .ivldLong .. | .ivstLong .. | .ldOrderedLong ..
  | .ldUOrderedLong .. | .stOrderedLong .. | .ldBLong .. | .ldBuLong .. | .ldHLong .. | .ldHuLong ..
  | .ldWLong .. | .ldWuLong .. | .ldDLong .. | .stBLong .. | .stHLong .. | .stWLong ..
  | .stDLong .. => .longForm
  | _ => .deviceStep

/-- The 32-bit word of an instruction, as a number: the constant bits of its encoding plus each field at its place. -/
def encodeNat : Instr → Nat
  | .aNop g => 0x00000000 + g.toNat
  | .add d a b g => 0x04000000 + d.toNat * 0x200000 + a.toNat * 0x10000 + b.toNat * 0x800 + g.toNat
  | .sub d a b g => 0x04000010 + d.toNat * 0x200000 + a.toNat * 0x10000 + b.toNat * 0x800 + g.toNat
  | .mul d a b g => 0x04000020 + d.toNat * 0x200000 + a.toNat * 0x10000 + b.toNat * 0x800 + g.toNat
  | .mulh d a b g => 0x04000030 + d.toNat * 0x200000 + a.toNat * 0x10000 + b.toNat * 0x800 + g.toNat
  | .mulhu d a b g => 0x04000040 + d.toNat * 0x200000 + a.toNat * 0x10000 + b.toNat * 0x800 + g.toNat
  | .div d a b g => 0x08000000 + d.toNat * 0x200000 + a.toNat * 0x10000 + b.toNat * 0x800 + g.toNat
  | .divu d a b g => 0x08000010 + d.toNat * 0x200000 + a.toNat * 0x10000 + b.toNat * 0x800 + g.toNat
  | .rem d a b g => 0x08000020 + d.toNat * 0x200000 + a.toNat * 0x10000 + b.toNat * 0x800 + g.toNat
  | .remu d a b g => 0x08000030 + d.toNat * 0x200000 + a.toNat * 0x10000 + b.toNat * 0x800 + g.toNat
  | .and d a b g => 0x0C000000 + d.toNat * 0x200000 + a.toNat * 0x10000 + b.toNat * 0x800 + g.toNat
  | .or d a b g => 0x0C000010 + d.toNat * 0x200000 + a.toNat * 0x10000 + b.toNat * 0x800 + g.toNat
  | .xor d a b g => 0x0C000020 + d.toNat * 0x200000 + a.toNat * 0x10000 + b.toNat * 0x800 + g.toNat
  | .andn d a b g => 0x0C000030 + d.toNat * 0x200000 + a.toNat * 0x10000 + b.toNat * 0x800 + g.toNat
  | .shl d a b g => 0x10000000 + d.toNat * 0x200000 + a.toNat * 0x10000 + b.toNat * 0x800 + g.toNat
  | .shr d a b g => 0x10000010 + d.toNat * 0x200000 + a.toNat * 0x10000 + b.toNat * 0x800 + g.toNat
  | .sar d a b g => 0x10000020 + d.toNat * 0x200000 + a.toNat * 0x10000 + b.toNat * 0x800 + g.toNat
  | .min d a b g => 0x14000000 + d.toNat * 0x200000 + a.toNat * 0x10000 + b.toNat * 0x800 + g.toNat
  | .max d a b g => 0x14000010 + d.toNat * 0x200000 + a.toNat * 0x10000 + b.toNat * 0x800 + g.toNat
  | .minu d a b g => 0x14000020 + d.toNat * 0x200000 + a.toNat * 0x10000 + b.toNat * 0x800 + g.toNat
  | .maxu d a b g => 0x14000030 + d.toNat * 0x200000 + a.toNat * 0x10000 + b.toNat * 0x800 + g.toNat
  | .clz d a g => 0x18000000 + d.toNat * 0x200000 + a.toNat * 0x10000 + g.toNat
  | .popc d a g => 0x18000010 + d.toNat * 0x200000 + a.toNat * 0x10000 + g.toNat
  | .brev d a g => 0x18000020 + d.toNat * 0x200000 + a.toNat * 0x10000 + g.toNat
  | .extr d a b g => 0x18000030 + d.toNat * 0x200000 + a.toNat * 0x10000 + b.toNat * 0x800 + g.toNat
  | .extrS d a b g => 0x18000040 + d.toNat * 0x200000 + a.toNat * 0x10000 + b.toNat * 0x800 + g.toNat
  | .ins d a b g => 0x18000050 + d.toNat * 0x200000 + a.toNat * 0x10000 + b.toNat * 0x800 + g.toNat
  | .sel d a b n g => 0x18000080 + d.toNat * 0x200000 + a.toNat * 0x10000 + b.toNat * 0x800 + n.toNat * 0x10 + g.toNat
  | .rndc d a b g => 0x1C000000 + d.toNat * 0x200000 + a.toNat * 0x10000 + b.toNat * 0x800 + g.toNat
  | .rndcU d a b g => 0x1C000010 + d.toNat * 0x200000 + a.toNat * 0x10000 + b.toNat * 0x800 + g.toNat
  | .addi d a i g => 0x20000000 + d.toNat * 0x200000 + a.toNat * 0x10000 + i.toNat * 0x10 + g.toNat
  | .andi d a i g => 0x24000000 + d.toNat * 0x200000 + a.toNat * 0x10000 + i.toNat * 0x10 + g.toNat
  | .ori d a i g => 0x28000000 + d.toNat * 0x200000 + a.toNat * 0x10000 + i.toNat * 0x10 + g.toNat
  | .xori d a i g => 0x2C000000 + d.toNat * 0x200000 + a.toNat * 0x10000 + i.toNat * 0x10 + g.toNat
  | .shli d a s g => 0x30000000 + d.toNat * 0x200000 + a.toNat * 0x10000 + s.toNat * 0x10 + g.toNat
  | .shri d a s g => 0x34000000 + d.toNat * 0x200000 + a.toNat * 0x10000 + s.toNat * 0x10 + g.toNat
  | .sari d a s g => 0x38000000 + d.toNat * 0x200000 + a.toNat * 0x10000 + s.toNat * 0x10 + g.toNat
  | .cmp p a b c g => 0x40000000 + p.toNat * 0x200000 + a.toNat * 0x10000 + b.toNat * 0x800 + c.toNat * 0x10 + g.toNat
  | .cmpi c p a i g => 0x44000000 + c.toNat * 0x1000000 + p.toNat * 0x200000 + a.toNat * 0x10000 + i.toNat * 0x10 + g.toNat
  | .cmpiLeGtLtuGeu c p a i g => 0x4C000000 + c.toNat * 0x1000000 + p.toNat * 0x200000 + a.toNat * 0x10000 + i.toNat * 0x10 + g.toNat
  | .plog d a b t g => 0x48000000 + d.toNat * 0x200000 + a.toNat * 0x10000 + b.toNat * 0x800 + t.toNat * 0x10 + g.toNat
  | .fadd d a b g => 0x50000000 + d.toNat * 0x200000 + a.toNat * 0x10000 + b.toNat * 0x800 + g.toNat
  | .fsub d a b g => 0x50000010 + d.toNat * 0x200000 + a.toNat * 0x10000 + b.toNat * 0x800 + g.toNat
  | .fmul d a b g => 0x50000020 + d.toNat * 0x200000 + a.toNat * 0x10000 + b.toNat * 0x800 + g.toNat
  | .fdiv d a b g => 0x50000030 + d.toNat * 0x200000 + a.toNat * 0x10000 + b.toNat * 0x800 + g.toNat
  | .fsqrt d a g => 0x50000040 + d.toNat * 0x200000 + a.toNat * 0x10000 + g.toNat
  | .fmin d a b g => 0x50000050 + d.toNat * 0x200000 + a.toNat * 0x10000 + b.toNat * 0x800 + g.toNat
  | .fmax d a b g => 0x50000060 + d.toNat * 0x200000 + a.toNat * 0x10000 + b.toNat * 0x800 + g.toNat
  | .fsgnJ d a b g => 0x50000070 + d.toNat * 0x200000 + a.toNat * 0x10000 + b.toNat * 0x800 + g.toNat
  | .fsgnJn d a b g => 0x50000080 + d.toNat * 0x200000 + a.toNat * 0x10000 + b.toNat * 0x800 + g.toNat
  | .fsgnJx d a b g => 0x50000090 + d.toNat * 0x200000 + a.toNat * 0x10000 + b.toNat * 0x800 + g.toNat
  | .fsgnJPred d a p g => 0x50000170 + d.toNat * 0x200000 + a.toNat * 0x10000 + p.toNat * 0x800 + g.toNat
  | .fsgnJnPred d a p g => 0x50000180 + d.toNat * 0x200000 + a.toNat * 0x10000 + p.toNat * 0x800 + g.toNat
  | .fsgnJxPred d a p g => 0x50000190 + d.toNat * 0x200000 + a.toNat * 0x10000 + p.toNat * 0x800 + g.toNat
  | .ffma d a b c g => 0x54000000 + d.toNat * 0x200000 + a.toNat * 0x10000 + b.toNat * 0x800 + c.toNat * 0x40 + g.toNat
  | .fcmp p a b c g => 0x58000000 + p.toNat * 0x200000 + a.toNat * 0x10000 + b.toNat * 0x800 + c.toNat * 0x10 + g.toNat
  | .fclass d a g => 0x58000080 + d.toNat * 0x200000 + a.toNat * 0x10000 + g.toNat
  | .fcvt d a t s g => 0x5C000000 + d.toNat * 0x200000 + a.toNat * 0x10000 + t.toNat * 0x80 + s.toNat * 0x10 + g.toNat
  | .frnd d a m g => 0x5C000400 + d.toNat * 0x200000 + a.toNat * 0x10000 + m.toNat * 0x10 + g.toNat
  | .ivmk d a b g => 0x60000000 + d.toNat * 0x200000 + a.toNat * 0x10000 + b.toNat * 0x800 + g.toNat
  | .ivmkR d a b g => 0x60000010 + d.toNat * 0x200000 + a.toNat * 0x10000 + b.toNat * 0x800 + g.toNat
  | .ivlo d a g => 0x60000020 + d.toNat * 0x200000 + a.toNat * 0x10000 + g.toNat
  | .ivhi d a g => 0x60000030 + d.toNat * 0x200000 + a.toNat * 0x10000 + g.toNat
  | .iwid d a g => 0x60000040 + d.toNat * 0x200000 + a.toNat * 0x10000 + g.toNat
  | .imid d a g => 0x60000050 + d.toNat * 0x200000 + a.toNat * 0x10000 + g.toNat
  | .ivloNs d g => 0x60000060 + d.toNat * 0x200000 + g.toNat
  | .ivloNsc d g => 0x60000070 + d.toNat * 0x200000 + g.toNat
  | .iadd d a b g => 0x64000000 + d.toNat * 0x400000 + a.toNat * 0x40000 + b.toNat * 0x4000 + g.toNat
  | .isub d a b g => 0x64000010 + d.toNat * 0x400000 + a.toNat * 0x40000 + b.toNat * 0x4000 + g.toNat
  | .imul d a b g => 0x64000020 + d.toNat * 0x400000 + a.toNat * 0x40000 + b.toNat * 0x4000 + g.toNat
  | .idiv d a b g => 0x64000030 + d.toNat * 0x400000 + a.toNat * 0x40000 + b.toNat * 0x4000 + g.toNat
  | .isq d a g => 0x68000000 + d.toNat * 0x400000 + a.toNat * 0x40000 + g.toNat
  | .isqrt d a g => 0x68000010 + d.toNat * 0x400000 + a.toNat * 0x40000 + g.toNat
  | .iexp2 d a g => 0x68000020 + d.toNat * 0x400000 + a.toNat * 0x40000 + g.toNat
  | .imax d a b g => 0x68000030 + d.toNat * 0x400000 + a.toNat * 0x40000 + b.toNat * 0x4000 + g.toNat
  | .imin d a b g => 0x68000040 + d.toNat * 0x400000 + a.toNat * 0x40000 + b.toNat * 0x4000 + g.toNat
  | .ihull d a b g => 0x68000050 + d.toNat * 0x400000 + a.toNat * 0x40000 + b.toNat * 0x4000 + g.toNat
  | .iisect d a b g => 0x68000060 + d.toNat * 0x400000 + a.toNat * 0x40000 + b.toNat * 0x4000 + g.toNat
  | .icmp k a b c g => 0x6C000000 + k.toNat * 0x400000 + a.toNat * 0x40000 + b.toNat * 0x4000 + c.toNat * 0x10 + g.toNat
  | .icont k a b g => 0x6C000080 + k.toNat * 0x400000 + a.toNat * 0x40000 + b.toNat * 0x4000 + g.toNat
  | .iaddc z x y n g => 0x70000000 + z.toNat * 0x400000 + x.toNat * 0x40000 + y.toNat * 0x4000 + n.toNat * 0x100 + g.toNat
  | .imulc z x y n g => 0x70000010 + z.toNat * 0x400000 + x.toNat * 0x40000 + y.toNat * 0x4000 + n.toNat * 0x100 + g.toNat
  | .isqc z x n g => 0x70000020 + z.toNat * 0x400000 + x.toNat * 0x40000 + n.toNat * 0x100 + g.toNat
  | .imaxc z x y n g => 0x70000030 + z.toNat * 0x400000 + x.toNat * 0x40000 + y.toNat * 0x4000 + n.toNat * 0x100 + g.toNat
  | .iexp2c z x n g => 0x70000040 + z.toNat * 0x400000 + x.toNat * 0x40000 + n.toNat * 0x100 + g.toNat
  | .vadd d a b t g => 0x80000000 + d.toNat * 0x400000 + a.toNat * 0x40000 + b.toNat * 0x4000 + t.toNat * 0x80 + g.toNat
  | .vsub d a b t g => 0x80000010 + d.toNat * 0x400000 + a.toNat * 0x40000 + b.toNat * 0x4000 + t.toNat * 0x80 + g.toNat
  | .vmul d a b t g => 0x80000020 + d.toNat * 0x400000 + a.toNat * 0x40000 + b.toNat * 0x4000 + t.toNat * 0x80 + g.toNat
  | .vmin d a b t g => 0x80000030 + d.toNat * 0x400000 + a.toNat * 0x40000 + b.toNat * 0x4000 + t.toNat * 0x80 + g.toNat
  | .vmax d a b t g => 0x80000040 + d.toNat * 0x400000 + a.toNat * 0x40000 + b.toNat * 0x4000 + t.toNat * 0x80 + g.toNat
  | .vfma d a b c g => 0x84000000 + d.toNat * 0x400000 + a.toNat * 0x40000 + b.toNat * 0x4000 + c.toNat * 0x400 + g.toNat
  | .vfmaLns d a b c g => 0x84000010 + d.toNat * 0x400000 + a.toNat * 0x40000 + b.toNat * 0x4000 + c.toNat * 0x400 + g.toNat
  | .vand d a b g => 0x88000000 + d.toNat * 0x400000 + a.toNat * 0x40000 + b.toNat * 0x4000 + g.toNat
  | .vor d a b g => 0x88000010 + d.toNat * 0x400000 + a.toNat * 0x40000 + b.toNat * 0x4000 + g.toNat
  | .vxor d a b g => 0x88000020 + d.toNat * 0x400000 + a.toNat * 0x40000 + b.toNat * 0x4000 + g.toNat
  | .vshl d a b g => 0x88000030 + d.toNat * 0x400000 + a.toNat * 0x40000 + b.toNat * 0x4000 + g.toNat
  | .vshr d a b g => 0x88000040 + d.toNat * 0x400000 + a.toNat * 0x40000 + b.toNat * 0x4000 + g.toNat
  | .vshrA d a b g => 0x88000050 + d.toNat * 0x400000 + a.toNat * 0x40000 + b.toNat * 0x4000 + g.toNat
  | .vcmp d a b t c g => 0x8C000000 + d.toNat * 0x400000 + a.toNat * 0x40000 + b.toNat * 0x4000 + t.toNat * 0x100 + c.toNat * 0x10 + g.toNat
  | .vsel d a b c g => 0x90000000 + d.toNat * 0x400000 + a.toNat * 0x40000 + b.toNat * 0x4000 + c.toNat * 0x400 + g.toNat
  | .vcvt d a c x y g => 0x94000000 + d.toNat * 0x400000 + a.toNat * 0x40000 + c.toNat * 0x400 + x.toNat * 0x80 + y.toNat * 0x10 + g.toNat
  | .vexp2 d a g => 0x98000000 + d.toNat * 0x400000 + a.toNat * 0x40000 + g.toNat
  | .vlog2 d a g => 0x98000010 + d.toNat * 0x400000 + a.toNat * 0x40000 + g.toNat
  | .vrcp d a g => 0x98000020 + d.toNat * 0x400000 + a.toNat * 0x40000 + g.toNat
  | .vrsq d a g => 0x98000030 + d.toNat * 0x400000 + a.toNat * 0x40000 + g.toNat
  | .vredsum d a t g => 0x9C000000 + d.toNat * 0x400000 + a.toNat * 0x40000 + t.toNat * 0x80 + g.toNat
  | .vredmax d a t g => 0x9C000010 + d.toNat * 0x400000 + a.toNat * 0x40000 + t.toNat * 0x80 + g.toNat
  | .vscan d a t g => 0x9C000020 + d.toNat * 0x400000 + a.toNat * 0x40000 + t.toNat * 0x80 + g.toNat
  | .vperm d a b c g => 0xA0000000 + d.toNat * 0x400000 + a.toNat * 0x40000 + b.toNat * 0x4000 + c.toNat * 0x400 + g.toNat
  | .vidx d g => 0xA0000010 + d.toNat * 0x400000 + g.toNat
  | .vidxF d g => 0xA0000020 + d.toNat * 0x400000 + g.toNat
  | .vmovx d a b g => 0xA4000000 + d.toNat * 0x200000 + a.toNat * 0x10000 + b.toNat * 0x800 + g.toNat
  | .vins d a b g => 0xA4000010 + d.toNat * 0x200000 + a.toNat * 0x10000 + b.toNat * 0x800 + g.toNat
  | .vbcast d a g => 0xA4000020 + d.toNat * 0x200000 + a.toNat * 0x10000 + g.toNat
  | .vsortk d a r k g => 0xA8000000 + d.toNat * 0x800000 + a.toNat * 0x40000 + r.toNat * 0x100 + k.toNat * 0x10 + g.toNat
  | .vmaskbm d a g => 0xAC000000 + d.toNat * 0x400000 + a.toNat * 0x40000 + g.toNat
  | .vmaskbmX d a g => 0xAC000010 + d.toNat * 0x400000 + a.toNat * 0x40000 + g.toNat
  | .viadd d a b g => 0xC0000000 + d.toNat * 0x800000 + a.toNat * 0x80000 + b.toNat * 0x8000 + g.toNat
  | .vimul d a b g => 0xC4000000 + d.toNat * 0x800000 + a.toNat * 0x80000 + b.toNat * 0x8000 + g.toNat
  | .vifma d a b c g => 0xC8000000 + d.toNat * 0x800000 + a.toNat * 0x80000 + b.toNat * 0x8000 + c.toNat * 0x800 + g.toNat
  | .vimax d a b g => 0xCC000000 + d.toNat * 0x800000 + a.toNat * 0x80000 + b.toNat * 0x8000 + g.toNat
  | .vicmp d a b c g => 0xCC000100 + d.toNat * 0x800000 + a.toNat * 0x80000 + b.toNat * 0x8000 + c.toNat * 0x10 + g.toNat
  | .cNop g => 0x00000000 + g.toNat
  | .br d g => 0x02000000 + d.toNat * 0x10 + g.toNat
  | .call d g => 0x04000000 + d.toNat * 0x10 + g.toNat
  | .jmpr b o g => 0x08000000 + b.toNat * 0x8000 + o.toNat * 0x10 + g.toNat
  | .callr b o g => 0x08100000 + b.toNat * 0x8000 + o.toNat * 0x10 + g.toNat
  | .ret g => 0x08200000 + g.toNat
  | .loop d o g => 0x0A000000 + d.toNat * 0x100000 + o.toNat * 0x10 + g.toNat
  | .ldB d b o g => 0x10000000 + d.toNat * 0x100000 + b.toNat * 0x8000 + o.toNat * 0x10 + g.toNat
  | .ldBu d b o g => 0x12000000 + d.toNat * 0x100000 + b.toNat * 0x8000 + o.toNat * 0x10 + g.toNat
  | .ldH d b o g => 0x14000000 + d.toNat * 0x100000 + b.toNat * 0x8000 + o.toNat * 0x10 + g.toNat
  | .ldHu d b o g => 0x16000000 + d.toNat * 0x100000 + b.toNat * 0x8000 + o.toNat * 0x10 + g.toNat
  | .ldW d b o g => 0x18000000 + d.toNat * 0x100000 + b.toNat * 0x8000 + o.toNat * 0x10 + g.toNat
  | .ldWu d b o g => 0x1A000000 + d.toNat * 0x100000 + b.toNat * 0x8000 + o.toNat * 0x10 + g.toNat
  | .ldD d b o g => 0x1C000000 + d.toNat * 0x100000 + b.toNat * 0x8000 + o.toNat * 0x10 + g.toNat
  | .stB d b o g => 0x1E000000 + d.toNat * 0x100000 + b.toNat * 0x8000 + o.toNat * 0x10 + g.toNat
  | .stH d b o g => 0x20000000 + d.toNat * 0x100000 + b.toNat * 0x8000 + o.toNat * 0x10 + g.toNat
  | .stW d b o g => 0x22000000 + d.toNat * 0x100000 + b.toNat * 0x8000 + o.toNat * 0x10 + g.toNat
  | .stD d b o g => 0x24000000 + d.toNat * 0x100000 + b.toNat * 0x8000 + o.toNat * 0x10 + g.toNat
  | .ldx d b c s g => 0x26000000 + d.toNat * 0x100000 + b.toNat * 0x8000 + c.toNat * 0x400 + s.toNat * 0x100 + g.toNat
  | .ldxU d b c s g => 0x26000010 + d.toNat * 0x100000 + b.toNat * 0x8000 + c.toNat * 0x400 + s.toNat * 0x100 + g.toNat
  | .stx d b c s g => 0x26000020 + d.toNat * 0x100000 + b.toNat * 0x8000 + c.toNat * 0x400 + s.toNat * 0x100 + g.toNat
  | .ldOrdered d b o s z g => 0x26000030 + d.toNat * 0x100000 + b.toNat * 0x8000 + o.toNat * 0x2000 + s.toNat * 0x400 + z.toNat * 0x100 + g.toNat
  | .ldUOrdered d b o s z g => 0x26000040 + d.toNat * 0x100000 + b.toNat * 0x8000 + o.toNat * 0x2000 + s.toNat * 0x400 + z.toNat * 0x100 + g.toNat
  | .stOrdered d b o s z g => 0x26000050 + d.toNat * 0x100000 + b.toNat * 0x8000 + o.toNat * 0x2000 + s.toNat * 0x400 + z.toNat * 0x100 + g.toNat
  | .amadd d b w o s g => 0x28000000 + d.toNat * 0x100000 + b.toNat * 0x8000 + w.toNat * 0x400 + o.toNat * 0x100 + s.toNat * 0x20 + g.toNat
  | .amfadd d b o s g => 0x28000800 + d.toNat * 0x100000 + b.toNat * 0x8000 + o.toNat * 0x100 + s.toNat * 0x20 + g.toNat
  | .ammin d b w o s g => 0x28001000 + d.toNat * 0x100000 + b.toNat * 0x8000 + w.toNat * 0x400 + o.toNat * 0x100 + s.toNat * 0x20 + g.toNat
  | .ammax d b w o s g => 0x28001800 + d.toNat * 0x100000 + b.toNat * 0x8000 + w.toNat * 0x400 + o.toNat * 0x100 + s.toNat * 0x20 + g.toNat
  | .amand d b w o s g => 0x28002000 + d.toNat * 0x100000 + b.toNat * 0x8000 + w.toNat * 0x400 + o.toNat * 0x100 + s.toNat * 0x20 + g.toNat
  | .amor d b w o s g => 0x28002800 + d.toNat * 0x100000 + b.toNat * 0x8000 + w.toNat * 0x400 + o.toNat * 0x100 + s.toNat * 0x20 + g.toNat
  | .amxor d b w o s g => 0x28003000 + d.toNat * 0x100000 + b.toNat * 0x8000 + w.toNat * 0x400 + o.toNat * 0x100 + s.toNat * 0x20 + g.toNat
  | .amxchg d b w o s g => 0x28003800 + d.toNat * 0x100000 + b.toNat * 0x8000 + w.toNat * 0x400 + o.toNat * 0x100 + s.toNat * 0x20 + g.toNat
  | .amcas d b w o s g => 0x28004000 + d.toNat * 0x100000 + b.toNat * 0x8000 + w.toNat * 0x400 + o.toNat * 0x100 + s.toNat * 0x20 + g.toNat
  | .ldv d b c g => 0x2A000000 + d.toNat * 0x100000 + b.toNat * 0x8000 + c.toNat * 0x400 + g.toNat
  | .stv d b c g => 0x2A000010 + d.toNat * 0x100000 + b.toNat * 0x8000 + c.toNat * 0x400 + g.toNat
  | .ldvs d b c g => 0x2A000020 + d.toNat * 0x100000 + b.toNat * 0x8000 + c.toNat * 0x400 + g.toNat
  | .stvs d b c g => 0x2A000030 + d.toNat * 0x100000 + b.toNat * 0x8000 + c.toNat * 0x400 + g.toNat
  | .ldvg d b c g => 0x2A000040 + d.toNat * 0x100000 + b.toNat * 0x8000 + c.toNat * 0x400 + g.toNat
  | .stvg d b c g => 0x2A000050 + d.toNat * 0x100000 + b.toNat * 0x8000 + c.toNat * 0x400 + g.toNat
  | .ivld d b o g => 0x2C000000 + d.toNat * 0x100000 + b.toNat * 0x8000 + o.toNat * 0x10 + g.toNat
  | .ivst d b o g => 0x2D000000 + d.toNat * 0x100000 + b.toNat * 0x8000 + o.toNat * 0x10 + g.toNat
  | .fence k s g => 0x2E000000 + k.toNat * 0x2000 + s.toNat * 0x400 + g.toNat
  | .pref h b g => 0x2E000010 + h.toNat * 0x100000 + b.toNat * 0x8000 + g.toNat
  | .vappend d b c n g => 0x2E000020 + d.toNat * 0x100000 + b.toNat * 0x8000 + c.toNat * 0x800 + n.toNat * 0x100 + g.toNat
  | .vappendM d b c n g => 0x2E000030 + d.toNat * 0x100000 + b.toNat * 0x8000 + c.toNat * 0x800 + n.toNat * 0x100 + g.toNat
  | .baste d g => 0x30000000 + d.toNat * 0x100000 + g.toNat
  | .tack d b g => 0x32000000 + d.toNat * 0x100000 + b.toNat * 0x8000 + g.toNat
  | .unpick d b g => 0x34000000 + d.toNat * 0x100000 + b.toNat * 0x8000 + g.toNat
  | .bwin d b s g => 0x36000000 + d.toNat * 0x100000 + b.toNat * 0x8000 + s.toNat * 0x10 + g.toNat
  | .spawn a b g => 0x38000000 + a.toNat * 0x100000 + b.toNat * 0x8000 + g.toNat
  | .spawnC a b c g => 0x38000200 + a.toNat * 0x100000 + b.toNat * 0x8000 + c.toNat * 0x400 + g.toNat
  | .fork p g => 0x3A000000 + p.toNat * 0x100000 + g.toNat
  | .forkC p c g => 0x3A000200 + p.toNat * 0x100000 + c.toNat * 0x400 + g.toNat
  | .quit g => 0x3C000000 + g.toNat
  | .yield g => 0x3E000000 + g.toNat
  | .yieldH g => 0x3E000200 + g.toNat
  | .meet b m g => 0x40000000 + b.toNat * 0x8000 + m.toNat * 0x20 + g.toNat
  | .meetT a b m g => 0x40000000 + a.toNat * 0x100000 + b.toNat * 0x8000 + m.toNat * 0x20 + g.toNat
  | .movm p b g => 0x42000000 + p.toNat * 0x100000 + b.toNat * 0x8000 + g.toNat
  | .bara d b g => 0x44000000 + d.toNat * 0x100000 + b.toNat * 0x8000 + g.toNat
  | .barw a b g => 0x46000000 + a.toNat * 0x100000 + b.toNat * 0x8000 + g.toNat
  | .barg e g => 0x48000000 + e.toNat * 0x10 + g.toNat
  | .launch p b o g => 0x4A000000 + p.toNat * 0x100000 + b.toNat * 0x8000 + o.toNat * 0x10 + g.toNat
  | .launchw b o g => 0x4C000000 + b.toNat * 0x8000 + o.toNat * 0x10 + g.toNat
  | .taskArm a g => 0x4E000000 + a.toNat * 0x100000 + g.toNat
  | .taskDis a g => 0x4E000010 + a.toNat * 0x100000 + g.toNat
  | .qpush q k g => 0x50000000 + q.toNat * 0x100000 + k.toNat * 0x8000 + g.toNat
  | .qpop q k g => 0x50000010 + q.toNat * 0x100000 + k.toNat * 0x8000 + g.toNat
  | .qtry q k p g => 0x50000020 + q.toNat * 0x100000 + k.toNat * 0x8000 + p.toNat * 0x400 + g.toNat
  | .waitc l s c t g => 0x52000000 + l.toNat * 0x100000 + s.toNat * 0x8000 + c.toNat * 0x400 + t.toNat * 0x20 + g.toNat
  | .batch d g => 0x54000000 + d.toNat * 0x100000 + g.toNat
  | .waitb n g => 0x54000010 + n.toNat * 0x400 + g.toNat
  | .sbind s z g => 0x56000000 + s.toNat * 0x100000 + z.toNat * 0x400 + g.toNat
  | .sbindX s g => 0x56000010 + s.toNat * 0x100000 + g.toNat
  | .movs d s g => 0x58000000 + d.toNat * 0x100000 + s.toNat * 0x8000 + g.toNat
  | .vmovs d s g => 0x58000010 + d.toNat * 0x100000 + s.toNat * 0x8000 + g.toNat
  | .gnext d b c p k g => 0x5A000000 + d.toNat * 0x100000 + b.toNat * 0x8000 + c.toNat * 0x400 + p.toNat * 0x80 + k.toNat * 0x10 + g.toNat
  | .wakeon a p g => 0x5C000000 + a.toNat * 0x100000 + p.toNat * 0x400 + g.toNat
  | .wakeonX p g => 0x5C000010 + p.toNat * 0x400 + g.toNat
  | .crpass d b g => 0x5E000000 + d.toNat * 0x100000 + b.toNat * 0x8000 + g.toNat
  | .crtake d b g => 0x5E000010 + d.toNat * 0x100000 + b.toNat * 0x8000 + g.toNat
  | .trap i g => 0x60000000 + i.toNat * 0x10 + g.toNat
  | .brk i g => 0x60100000 + i.toNat * 0x10 + g.toNat
  | .rett g => 0x62000000 + g.toNat
  | .rdsr d s g => 0x64000000 + d.toNat * 0x100000 + s.toNat * 0x10 + g.toNat
  | .wrsr b s g => 0x66000000 + b.toNat * 0x8000 + s.toNat * 0x10 + g.toNat
  | .swapwp d b g => 0x68000000 + d.toNat * 0x100000 + b.toNat * 0x8000 + g.toNat
  | .liveP o g => 0x6A000000 + o.toNat * 0x10 + g.toNat
  | .liveD b g => 0x6A100000 + b.toNat * 0x8000 + g.toNat
  | .slotw a b g => 0x6C000000 + a.toNat * 0x100000 + b.toNat * 0x8000 + g.toNat
  | .stinv a b k g => 0x6E000000 + a.toNat * 0x100000 + b.toNat * 0x8000 + k.toNat * 0x10 + g.toNat
  | .stinvAll a g => 0x6E000400 + a.toNat * 0x100000 + g.toNat
  | .kill d b g => 0x70000000 + d.toNat * 0x100000 + b.toNat * 0x8000 + g.toNat
  | .killT d b g => 0x70000010 + d.toNat * 0x100000 + b.toNat * 0x8000 + g.toNat
  | .gang d b g => 0x72000000 + d.toNat * 0x100000 + b.toNat * 0x8000 + g.toNat
  | .mxrs d b g => 0x74000000 + d.toNat * 0x100000 + b.toNat * 0x8000 + g.toNat
  | .mxrsPage d b g => 0x74000010 + d.toNat * 0x100000 + b.toNat * 0x8000 + g.toNat
  | .mxrsPoison d b g => 0x74000020 + d.toNat * 0x100000 + b.toNat * 0x8000 + g.toNat
  | .rdts d g => 0x76000000 + d.toNat * 0x100000 + g.toNat
  | .rdctr d n g => 0x76002000 + d.toNat * 0x100000 + n.toNat * 0x10 + g.toNat
  | .rdctrLo d n g => 0x76004000 + d.toNat * 0x100000 + n.toNat * 0x10 + g.toNat
  | .rdctrHi d n g => 0x76006000 + d.toNat * 0x100000 + n.toNat * 0x10 + g.toNat
  | .brLong  _ g => 0x82000000 + g.toNat
  | .callLong  _ g => 0x84000000 + g.toNat
  | .jmp  _ g => 0x86000000 + g.toNat
  | .li d _ g => 0x8C000000 + d.toNat * 0x100000 + g.toNat
  | .lih d _ g => 0x8C000400 + d.toNat * 0x100000 + g.toNat
  | .addiL d a _ g => 0x8E000000 + d.toNat * 0x100000 + a.toNat * 0x8000 + g.toNat
  | .cmpiL p a c _ g => 0x8E004000 + p.toNat * 0x100000 + a.toNat * 0x8000 + c.toNat * 0x400 + g.toNat
  | .meetLong a b _ g => 0xC0000000 + a.toNat * 0x100000 + b.toNat * 0x8000 + g.toNat
  | .launchLong p b _ g => 0xCA000000 + p.toNat * 0x100000 + b.toNat * 0x8000 + g.toNat
  | .ivldLong d b _ g => 0xAC000000 + d.toNat * 0x100000 + b.toNat * 0x8000 + g.toNat
  | .ivstLong d b _ g => 0xAD000000 + d.toNat * 0x100000 + b.toNat * 0x8000 + g.toNat
  | .ldOrderedLong d b o s z _ g => 0xA6000030 + d.toNat * 0x100000 + b.toNat * 0x8000 + o.toNat * 0x2000 + s.toNat * 0x400 + z.toNat * 0x100 + g.toNat
  | .ldUOrderedLong d b o s z _ g => 0xA6000040 + d.toNat * 0x100000 + b.toNat * 0x8000 + o.toNat * 0x2000 + s.toNat * 0x400 + z.toNat * 0x100 + g.toNat
  | .stOrderedLong d b o s z _ g => 0xA6000050 + d.toNat * 0x100000 + b.toNat * 0x8000 + o.toNat * 0x2000 + s.toNat * 0x400 + z.toNat * 0x100 + g.toNat
  | .ldBLong d b _ g => 0x90000000 + d.toNat * 0x100000 + b.toNat * 0x8000 + g.toNat
  | .ldBuLong d b _ g => 0x92000000 + d.toNat * 0x100000 + b.toNat * 0x8000 + g.toNat
  | .ldHLong d b _ g => 0x94000000 + d.toNat * 0x100000 + b.toNat * 0x8000 + g.toNat
  | .ldHuLong d b _ g => 0x96000000 + d.toNat * 0x100000 + b.toNat * 0x8000 + g.toNat
  | .ldWLong d b _ g => 0x98000000 + d.toNat * 0x100000 + b.toNat * 0x8000 + g.toNat
  | .ldWuLong d b _ g => 0x9A000000 + d.toNat * 0x100000 + b.toNat * 0x8000 + g.toNat
  | .ldDLong d b _ g => 0x9C000000 + d.toNat * 0x100000 + b.toNat * 0x8000 + g.toNat
  | .stBLong d b _ g => 0x9E000000 + d.toNat * 0x100000 + b.toNat * 0x8000 + g.toNat
  | .stHLong d b _ g => 0xA0000000 + d.toNat * 0x100000 + b.toNat * 0x8000 + g.toNat
  | .stWLong d b _ g => 0xA2000000 + d.toNat * 0x100000 + b.toNat * 0x8000 + g.toNat
  | .stDLong d b _ g => 0xA4000000 + d.toNat * 0x100000 + b.toNat * 0x8000 + g.toNat
  | _ => 0

/-- The extension word of a long form; zero for every other row. -/
def extension : Instr → W32
  | .brLong ext _ => ext
  | .callLong ext _ => ext
  | .jmp ext _ => ext
  | .li _ ext _ => ext
  | .lih _ ext _ => ext
  | .addiL _ _ ext _ => ext
  | .cmpiL _ _ _ ext _ => ext
  | .meetLong _ _ ext _ => ext
  | .launchLong _ _ ext _ => ext
  | .ivldLong _ _ ext _ => ext
  | .ivstLong _ _ ext _ => ext
  | .ldOrderedLong _ _ _ _ _ ext _ => ext
  | .ldUOrderedLong _ _ _ _ _ ext _ => ext
  | .stOrderedLong _ _ _ _ _ ext _ => ext
  | .ldBLong _ _ ext _ => ext
  | .ldBuLong _ _ ext _ => ext
  | .ldHLong _ _ ext _ => ext
  | .ldHuLong _ _ ext _ => ext
  | .ldWLong _ _ ext _ => ext
  | .ldWuLong _ _ ext _ => ext
  | .ldDLong _ _ ext _ => ext
  | .stBLong _ _ ext _ => ext
  | .stHLong _ _ ext _ => ext
  | .stWLong _ _ ext _ => ext
  | .stDLong _ _ ext _ => ext
  | _ => 0

/-- The bundle in which the instruction stands alone, the other word a NOP (R52). -/
def encode (i : Instr) : W64 :=
  match i.wordClass with
  | .aWord => BitVec.ofNat 64 (encodeNat i * 2 ^ 32)
  | .cWord => BitVec.ofNat 64 (encodeNat i)
  | .longForm => BitVec.ofNat 64 ((extension i).toNat * 2 ^ 32 + encodeNat i)
  | .deviceStep => 0

/-- The number of bits that the operand fields of a 32-bit word take (R58, R59). -/
def operandBits : Instr → Nat
  | .aNop .. | .cNop .. | .ret .. | .quit .. | .yield .. | .yieldH ..
  | .rett .. => 4
  | .fork .. | .sbindX .. | .wakeonX .. => 7
  | .vidx .. | .vidxF .. => 8
  | .ivloNs .. | .ivloNsc .. | .fence .. | .baste .. | .taskArm .. | .taskDis ..
  | .batch .. | .waitb .. | .liveD .. | .stinvAll .. | .rdts .. => 9
  | .qpush .. | .qpop .. | .vmovs .. => 11
  | .isq .. | .isqrt .. | .iexp2 .. | .vexp2 .. | .vlog2 .. | .vrcp ..
  | .vrsq .. | .vmaskbm .. | .vmaskbmX .. | .forkC .. | .movm .. | .barg ..
  | .sbind .. | .movs .. | .wakeon .. => 12
  | .ivlo .. | .ivhi .. | .iwid .. | .imid .. | .vredsum .. | .vredmax ..
  | .vscan .. | .vbcast .. | .viadd .. | .vimul .. | .vimax .. => 13
  | .clz .. | .popc .. | .brev .. | .fsqrt .. | .fclass .. | .pref ..
  | .tack .. | .unpick .. | .spawn .. | .bara .. | .barw .. | .qtry ..
  | .crpass .. | .crtake .. | .swapwp .. | .slotw .. | .kill .. | .killT ..
  | .gang .. | .mxrs .. | .mxrsPage .. | .mxrsPoison .. => 14
  | .isqc .. | .iexp2c .. | .vicmp .. | .trap .. | .brk .. | .liveP .. => 15
  | .iadd .. | .isub .. | .imul .. | .idiv .. | .imax .. | .imin ..
  | .ihull .. | .iisect .. | .icont .. | .vand .. | .vor .. | .vxor ..
  | .vshl .. | .vshr .. | .vshrA .. | .vsortk .. | .vifma .. => 16
  | .plog .. | .fsgnJPred .. | .fsgnJnPred .. | .fsgnJxPred .. | .frnd .. | .vadd ..
  | .vsub .. | .vmul .. | .vmin .. | .vmax .. | .ldvg .. | .stvg ..
  | .rdctr .. | .rdctrLo .. | .rdctrHi .. => 17
  | .ivmk .. | .ivmkR .. | .icmp .. | .vmovx .. | .vins .. | .ldv ..
  | .stv .. | .ldvs .. | .stvs .. | .vappend .. | .vappendM .. => 18
  | .add .. | .sub .. | .mul .. | .mulh .. | .mulhu .. | .div ..
  | .divu .. | .rem .. | .remu .. | .and .. | .or .. | .xor ..
  | .andn .. | .shl .. | .shr .. | .sar .. | .min .. | .max ..
  | .minu .. | .maxu .. | .extr .. | .extrS .. | .ins .. | .rndc ..
  | .rndcU .. | .fadd .. | .fsub .. | .fmul .. | .fdiv .. | .fmin ..
  | .fmax .. | .fsgnJ .. | .fsgnJn .. | .fsgnJx .. | .iaddc .. | .imulc ..
  | .imaxc .. | .amfadd .. | .spawnC .. | .meet .. => 19
  | .shli .. | .shri .. | .sari .. | .fcmp .. | .fcvt .. | .vfma ..
  | .vfmaLns .. | .vsel .. | .vperm .. | .jmpr .. | .callr .. | .loop ..
  | .amadd .. | .ammin .. | .ammax .. | .amand .. | .amor .. | .amxor ..
  | .amxchg .. | .amcas .. | .launchw .. | .rdsr .. | .wrsr .. | .stinv .. => 20
  | .cmp .. | .vcmp .. | .ldx .. | .ldxU .. | .stx .. | .ldOrdered ..
  | .ldUOrdered .. | .stOrdered .. => 21
  | .sel .. | .vcvt .. => 22
  | .launch .. => 23
  | .ffma .. | .ivld .. | .ivst .. | .meetT .. | .waitc .. => 24
  | .br .. | .call .. | .ldB .. | .ldBu .. | .ldH .. | .ldHu ..
  | .ldW .. | .ldWu .. | .ldD .. | .stB .. | .stH .. | .stW ..
  | .stD .. | .bwin .. | .gnext .. => 25
  | .addi .. | .andi .. | .ori .. | .xori .. | .cmpi .. | .cmpiLeGtLtuGeu .. => 26
  | _ => 32

/-- Is a table word the first word of its bundle: of the C-class and A-class instructions it can be, the one with fewer operand
bits is meant. The table does not say which of the two words a row is (log entry 2, DESIGN CHOICE). -/
noncomputable def isFirstWord (w : W32) : Bool :=
  fld w 31 1 == 0 && (match decodeC w, decodeA w with
    | .ok c, .ok a => decide (operandBits c < operandBits a)
    | .ok _, .error _ => true
    | .error _, _ => false)

/-- The bundle in which a table word stands at its place, the other word a NOP. A number of more than 32 bits is a whole bundle. -/
noncomputable def tableBundle (w : Nat) : W64 :=
  if 2 ^ 32 ≤ w then BitVec.ofNat 64 w
  else if isFirstWord (BitVec.ofNat 32 w) then BitVec.ofNat 64 w
  else BitVec.ofNat 64 (w * 2 ^ 32)

/-- The instruction the decoder reads from a table word laid out as `tableBundle` lays it. -/
noncomputable def decodeTableWord (_nbits w : Nat) : Option Instr :=
  match decodeBundle (tableBundle w) with
  | .error _ => none
  | .ok (.long c) => some c
  | .ok (.pair c a) => if (tableBundle w).toNat < 2 ^ 32 then some c else some a

end Sys2Proof
end

