-- ==== Sys2Proof/Machine/Uses.lean ====
section
/-!
DEFINITION. Which registers an instruction reads and writes, by its operand fields alone (R49, R50, R71, R123, R174), and what
those decide for a bundle: conflicts, pending and spaced registers, poison.
-/
namespace Sys2Proof.Machine

/-- `n` general registers from a field up. -/
def regXs (f : BitVec 5) (n : Nat) : List RegName := ((upFrom f.toNat n).filter (· ≠ 0)).map RegName.x
/-- VCVT narrows: the elements it leaves out keep their values, so it reads its destination (R180). -/
def narrows (dst : BitVec 3) : Bool := decide (Sys2Proof.cvtBytes dst < 4)
/-- The general registers that a mask of MEET names (R148, R163). -/
def maskRegs (m : Nat) : List RegName := ((upTo 32).filter fun i => i != 0 && bitAt m i).map RegName.x

/-- The registers that a FORK copies into its child (R138, R159). -/
def copiedRegs : List RegName := (upFrom 1 31).map .x ++ (upTo 16).map .iv ++ (upFrom 1 7).map .p

/-- Guard, registers read and registers written. A MEET reads p1 to p7 for W1 (R163). None for the steps of the device. -/
def usesOf : Instr → Option (BitVec 4 × List RegName × List RegName)
  | .aNop g | .cNop g | .br _ g | .call _ g | .ret g | .fence _ _ g | .quit g | .yield g | .yieldH g | .barg _ g
  | .waitc _ _ _ _ g | .waitb _ g | .sbind _ _ g | .sbindX _ g | .trap _ g | .brk _ g | .rett g | .liveP _ g | .brLong _ g
  | .callLong _ g | .jmp _ g =>
    some (g, [], [])
  | .add d a b g | .sub d a b g | .mul d a b g | .mulh d a b g | .mulhu d a b g | .div d a b g | .divu d a b g | .rem d a b g
  | .remu d a b g | .and d a b g | .or d a b g | .xor d a b g | .andn d a b g | .shl d a b g | .shr d a b g | .sar d a b g
  | .min d a b g | .max d a b g | .minu d a b g | .maxu d a b g | .extr d a b g | .extrS d a b g | .rndc d a b g
  | .rndcU d a b g | .fadd d a b g | .fsub d a b g | .fmul d a b g | .fdiv d a b g | .fmin d a b g | .fmax d a b g
  | .fsgnJ d a b g | .fsgnJn d a b g | .fsgnJx d a b g =>
    some (g, regX a ++ regX b, regX d)
  | .clz d a g | .popc d a g | .brev d a g | .addi d a _ g | .andi d a _ g | .ori d a _ g | .xori d a _ g | .shli d a _ g
  | .shri d a _ g | .sari d a _ g | .fsqrt d a g | .fclass d a g | .fcvt d a _ _ g | .frnd d a _ g | .addiL d a _ g =>
    some (g, regX a, regX d)
  | .ins d a b g =>
    some (g, regX d ++ regX a ++ regX b, regX d)
  | .sel d a b n g =>
    some (g, regX a ++ regX b ++ regP n.toNat, regX d)
  | .cmp p a b _ g | .fcmp p a b _ g =>
    some (g, regX a ++ regX b, regP p.toNat)
  | .cmpi _ p a _ g | .cmpiLeGtLtuGeu _ p a _ g | .cmpiL p a _ _ g =>
    some (g, regX a, regP p.toNat)
  | .plog d a b _ g =>
    some (g, regP a.toNat ++ regP b.toNat, regP d.toNat)
  | .fsgnJPred d a p g | .fsgnJnPred d a p g | .fsgnJxPred d a p g =>
    some (g, regX a ++ regP p.toNat, regX d)
  | .ffma d a b c g =>
    some (g, regX a ++ regX b ++ regX c, regX d)
  | .ivmk d a b g | .ivmkR d a b g =>
    some (g, regX a ++ regX b, [.iv d.toNat])
  | .ivlo d a g | .ivhi d a g | .iwid d a g | .imid d a g =>
    some (g, [.iv a.toNat], regX d)
  | .ivloNs d g | .ivloNsc d g | .baste d g | .batch d g | .movs d _ g | .rdsr d _ g | .rdts d g | .rdctr d _ g
  | .rdctrLo d _ g | .rdctrHi d _ g | .li d _ g =>
    some (g, [], regX d)
  | .iadd d a b g | .isub d a b g | .imul d a b g | .idiv d a b g | .imax d a b g | .imin d a b g | .ihull d a b g
  | .iisect d a b g =>
    some (g, [.iv a.toNat] ++ [.iv b.toNat], [.iv d.toNat])
  | .isq d a g | .isqrt d a g | .iexp2 d a g =>
    some (g, [.iv a.toNat], [.iv d.toNat])
  | .icmp k a b _ g | .icont k a b g =>
    some (g, [.iv a.toNat] ++ [.iv b.toNat], regP k.toNat ++ regP (k.toNat + 1))
  | .iaddc z x y n g | .imulc z x y n g | .imaxc z x y n g =>
    some (g, [.iv z.toNat] ++ [.iv x.toNat] ++ [.iv y.toNat], [.iv z.toNat] ++ [.iv x.toNat] ++ [.iv y.toNat] ++ regP n.toNat)
  | .isqc z x n g | .iexp2c z x n g =>
    some (g, [.iv z.toNat] ++ [.iv x.toNat], [.iv z.toNat] ++ [.iv x.toNat] ++ regP n.toNat)
  | .vadd d a b _ g | .vsub d a b _ g | .vmul d a b _ g | .vmin d a b _ g | .vmax d a b _ g | .vand d a b g | .vor d a b g
  | .vxor d a b g | .vshl d a b g | .vshr d a b g | .vshrA d a b g | .vcmp d a b _ _ g =>
    some (g, [.v a.toNat] ++ [.v b.toNat], [.v d.toNat])
  | .vfma d a b c g | .vfmaLns d a b c g | .vsel d a b c g | .vperm d a b c g =>
    some (g, [.v a.toNat] ++ [.v b.toNat] ++ [.v c.toNat], [.v d.toNat])
  | .vcvt d a _ x _ g =>
    some (g, [.v a.toNat] ++ (if narrows x then [.v d.toNat] else []), [.v d.toNat])
  | .vexp2 d a g | .vlog2 d a g | .vrcp d a g | .vrsq d a g | .vredsum d a _ g | .vredmax d a _ g
  | .vscan d a _ g | .vmaskbm d a g | .vmaskbmX d a g =>
    some (g, [.v a.toNat], [.v d.toNat])
  | .vidx d g | .vidxF d g | .vmovs d _ g =>
    some (g, [], [.v d.toNat])
  | .vmovx d a b g =>
    some (g, [.v a.toNat] ++ regX b, regX d)
  | .vins d a b g =>
    some (g, [.v d.toNat] ++ regX a ++ regX b, [.v d.toNat])
  | .vbcast d a g =>
    some (g, regX a, [.v d.toNat])
  | .vsortk d a _ _ g =>
    some (g, [.v a.toNat], [.v (2 * d.toNat), .v (2 * d.toNat + 1)])
  | .viadd d a b g | .vimul d a b g | .vimax d a b g | .vicmp d a b _ g =>
    some (g, [.v (2 * a.toNat), .v (2 * a.toNat + 1)] ++ [.v (2 * b.toNat), .v (2 * b.toNat + 1)], [.v (2 * d.toNat), .v (2 * d.toNat + 1)])
  | .vifma d a b c g =>
    some (g, [.v (2 * a.toNat), .v (2 * a.toNat + 1)] ++ [.v (2 * b.toNat), .v (2 * b.toNat + 1)] ++ [.v (2 * c.toNat), .v (2 * c.toNat + 1)], [.v (2 * d.toNat), .v (2 * d.toNat + 1)])
  | .jmpr b _ g | .callr b _ g | .pref _ b g | .launchw b _ g | .wrsr b _ g | .liveD b g =>
    some (g, regX b, [])
  | .loop d _ g | .lih d _ g =>
    some (g, regX d, regX d)
  | .ldB d b _ g | .ldBu d b _ g | .ldH d b _ g | .ldHu d b _ g | .ldW d b _ g | .ldWu d b _ g | .ldD d b _ g
  | .ldOrdered d b _ _ _ g | .ldUOrdered d b _ _ _ g | .tack d b g | .unpick d b g | .bwin d b _ g | .bara d b g
  | .crpass d b g | .crtake d b g | .swapwp d b g | .kill d b g | .killT d b g | .mxrs d b g | .mxrsPage d b g
  | .mxrsPoison d b g | .ldBLong d b _ g | .ldBuLong d b _ g | .ldHLong d b _ g | .ldHuLong d b _ g | .ldWLong d b _ g
  | .ldWuLong d b _ g | .ldDLong d b _ g | .ldOrderedLong d b _ _ _ _ g | .ldUOrderedLong d b _ _ _ _ g =>
    some (g, regX b, regX d)
  | .stB d b _ g | .stH d b _ g | .stW d b _ g | .stD d b _ g | .stOrdered d b _ _ _ g | .stBLong d b _ g | .stHLong d b _ g
  | .stWLong d b _ g | .stDLong d b _ g | .stOrderedLong d b _ _ _ _ g =>
    some (g, regX d ++ regX b, [])
  | .ldx d b c _ g | .ldxU d b c _ g =>
    some (g, regX b ++ regX c, regX d)
  | .stx d b c _ g =>
    some (g, regX d ++ regX b ++ regX c, [])
  | .amadd d b _ _ _ g | .amfadd d b _ _ g | .ammin d b _ _ _ g | .ammax d b _ _ _ g | .amand d b _ _ _ g | .amor d b _ _ _ g
  | .amxor d b _ _ _ g | .amxchg d b _ _ _ g =>
    some (g, regX d ++ regX b, regX d)
  | .amcas d b _ _ _ g =>
    some (g, regXs d 2 ++ regX b, regX d)
  | .ldv d b c g | .ldvs d b c g =>
    some (g, regX b ++ regX c, [.v d.toNat])
  | .stv d b c g | .stvs d b c g =>
    some (g, [.v d.toNat] ++ regX b ++ regX c, [])
  | .ldvg d b c g =>
    some (g, regX b ++ [.v c.toNat], [.v d.toNat])
  | .stvg d b c g =>
    some (g, [.v d.toNat] ++ regX b ++ [.v c.toNat], [])
  | .ivld d b _ g | .ivldLong d b _ g =>
    some (g, regX b, [.iv d.toNat])
  | .ivst d b _ g | .ivstLong d b _ g =>
    some (g, [.iv d.toNat] ++ regX b, [])
  | .vappend d b c _ g | .vappendM d b c _ g =>
    some (g, regX b ++ [.v (2 * c.toNat), .v (2 * c.toNat + 1)], regX d)
  | .spawn a b g =>
    some (g, regXs a 4 ++ regX b, [])
  | .spawnC a b c g =>
    some (g, regXs a 4 ++ regX b ++ regX c, [])
  | .fork p g =>
    some (g, copiedRegs, regP p.toNat)
  | .wakeonX p g =>
    some (g, [], regP p.toNat)
  | .forkC p c g =>
    some (g, regX c ++ copiedRegs, regP p.toNat)
  | .meet b m g =>
    some (g, regX b ++ maskRegs (2 * m.toNat) ++ (upFrom 1 7).map .p, [])
  | .meetT a b m g =>
    some (g, regX a ++ regX b ++ maskRegs (2 * m.toNat) ++ (upFrom 1 7).map .p, [])
  | .movm p b g | .launch p b _ g | .launchLong p b _ g =>
    some (g, regX b, regP p.toNat)
  | .barw a b g | .slotw a b g | .stinv a b _ g =>
    some (g, regX a ++ regX b, [])
  | .taskArm a g | .taskDis a g | .stinvAll a g =>
    some (g, regX a, [])
  | .qpush _ k g =>
    some (g, [.v k.toNat], [])
  | .qpop _ k g =>
    some (g, [], [.v k.toNat])
  | .qtry _ k p g =>
    some (g, [], [.v k.toNat] ++ regP p.toNat)
  | .gnext d b c p k g =>
    some (g, regX d ++ regX b ++ regX c, regX d ++ regP p.toNat ++ regP k.toNat ++ regP (k.toNat + 1))
  | .wakeon a p g =>
    some (g, regXs a 4, regP p.toNat)
  | .gang d b g =>
    some (g, regXs b 2, regX d)
  | .meetLong a b ext g =>
    some (g, regX a ++ regX b ++ maskRegs ext.toNat ++ (upFrom 1 7).map .p, [])
  | _ => none

/-- Vector instructions whose result needs 16 cycles (R174). -/
def slowVector : Instr → Bool
  | .vexp2 .. | .vlog2 .. | .vrcp .. | .vrsq .. | .vredsum .. | .vredmax .. | .vscan .. | .vsortk .. | .vifma .. => true
  | _ => false

/-- The instructions of a bundle. -/
def bundleInstrs : Bundle → List Instr
  | .pair c a => [c, a]
  | .long c => [c]

/-- The general registers that the mask of a MEET names (R164). -/
def meetMask : Instr → Option (List RegName)
  | .meet _ m _ => some (maskRegs (2 * m.toNat))
  | .meetT _ _ m _ => some (maskRegs (2 * m.toNat))
  | .meetLong _ _ ext _ => some (maskRegs ext.toNat)
  | _ => none

/-- Registers an instruction writes. -/
def writesOf (i : Instr) : List RegName := ((usesOf i).map (·.2.2)).getD []
/-- Registers an instruction reads; its guard is one (R53). -/
def readsOf (i : Instr) : List RegName :=
  match usesOf i with
  | some (g, r, _) => regP (g.toNat % 8) ++ r
  | none => []

/-- CALL, CALLR and RET carry x1 to x7 from frame to frame (R17, R20). -/
def carriedRegs : Instr → List RegName
  | .call .. | .callr .. | .callLong .. | .ret .. => (upFrom 1 7).map RegName.x
  | _ => []

/-- Is a predicate p1 to p7. -/
def isPred : RegName → Bool
  | .p _ => true
  | _ => false

/-- Do the words of a pair conflict: they name one destination (R50), or the A-class word writes what a MEET releases (R164). -/
def conflicts : Bundle → Bool
  | .pair c a =>
    (writesOf c).any ((writesOf a).contains ·) ||
      (match meetMask c with
        | some m => (writesOf a).any fun r => isPred r || m.contains r
        | none => false)
  | .long _ => false

/-- Is a register of a workspace still to be written by an access in flight (R71). -/
def pendingIn (s : State) (base : Nat) (r : RegName) : Bool := s.cur.pend.any fun p => p.base == base && p.reg == r
/-- Is a register of the current workspace so. -/
def isPending (s : State) (r : RegName) : Bool := pendingIn s (wsKey s.cur) r

/-- Does a MOVM make a child (R160). -/
def splits (s : State) (k : W64) : Bool := decide (0 < k.toNat ∧ k.toNat < (rcur s).mcnt.toNat)
/-- The registers that a MOVM which makes a child copies into it. -/
def splitReads (s : State) : Instr → List RegName
  | .movm _ b _ => if splits s (rX s b) then copiedRegs else []
  | _ => []
/-- The registers that an instruction copies elsewhere besides those that its operands name: CALL and RET from frame to frame, a MOVM that makes a
child into that (R17, R20, R160). -/
def alsoReads (s : State) (i : Instr) : List RegName := carriedRegs i ++ splitReads s i

/-- The registers that an instruction writes, with their workspaces: SWAPWP writes in the one that it enters (R366), CALL and RET besides their
operands x1 to x7 of the frame that they enter (R17, R20). -/
def writtenIn (s : State) (i : Instr) : List (Nat × RegName) :=
  let at' (off : Nat) (l : List RegName) : List (Nat × RegName) := l.map fun r => (poolKey s.cur.core off, r)
  match i with
  | .swapwp d b _ => at' ((rX s b).toNat % 2 ^ 20) (regX d)
  | .ret .. => at' (framePrev s s.cur) (carriedRegs i)
  | i => at' s.cur.wp (writesOf i) ++ at' (frameNext s s.cur) (carriedRegs i)
/-- Does a bundle read or write a pending register. -/
def bundlePending (s : State) (b : Bundle) : Bool :=
  (bundleInstrs b).any fun i =>
    (readsOf i).any (isPending s) || (writtenIn s i).any (fun w => pendingIn s w.1 w.2) || (alsoReads s i).any (isPending s)

/-- Was a register written too lately for a bundle that names it (R123, R174). -/
def isSpaced (s : State) (r : RegName) : Bool :=
  s.cur.wrote.any fun w => w.base == wsKey s.cur && w.reg == r && decide (s.ts < w.ready)

/-- Is a vector register. -/
def isVec : RegName → Bool
  | .v _ => true
  | _ => false

/-- Must a bundle wait for a result's spacing. -/
def bundleSpaced (s : State) (b : Bundle) : Bool :=
  (bundleInstrs b).any fun i => (readsOf i).any (isSpaced s) || (alsoReads s i).any (isSpaced s) ||
    ((writesOf i).filter isVec).any (isSpaced s)

/-- Is an instruction a PREF, which takes no trap of its operand (R255). -/
def isPref : Instr → Bool
  | .pref .. => true
  | _ => false

/-- The first poisoned register that a word with a true guard reads, as its offset in the workspace (R331, R400). -/
def poisonedRead (s : State) (i : Instr) : Option Nat :=
  match usesOf i with
  | some (g, rs, _) =>
    if guardOn s g && !isPref i then
      ((rs ++ splitReads s i).find? fun r => !isPred r && poisonedLoc s (.pool (wsKey s.cur + (regSpan r).1)) (regSpan r).2).map fun r => (regSpan r).1
    else none
  | none => none

/-- The level that an instruction needs (R11, R16, R361); LAUNCH and LAUNCHW need level 1 on a control core (R171). -/
def levelNeeded (s : State) : Instr → Nat
  | .rdsr _ n _ => if n.toNat = 0x08 then 1 else 0
  | .wrsr _ n _ => if n.toNat < 0x0C then 1 else 0
  | .swapwp .. | .slotw .. | .stinv .. | .stinvAll .. | .kill .. | .mxrs .. | .mxrsPage .. | .mxrsPoison .. | .rett .. => 1
  | .gang .. | .killT .. => 2
  | .launch .. | .launchLong .. | .launchw .. => if isCtl s.cur.core then 1 else 0
  | _ => 0

/-- Is a word with a true guard above the thread's level (R61). -/
def abovePriv (s : State) (i : Instr) : Bool :=
  match usesOf i with
  | some (g, _) => guardOn s g && decide (s.cur.priv < levelNeeded s i)
  | none => false

/-- Does the instruction write its destination in the workspace that it enters (R366). -/
def entersWorkspace : Instr → Bool
  | .swapwp .. => true
  | _ => false

/-- What the bundle's words have written, for the spacing of later bundles: their destinations, in the workspace from before the
bundle at `base`, and what CALL and RET carry, with the predicates of the status block, into the one now current (R17, R20). -/
def noteWrites (s : State) (base : Nat) (b : Bundle) : State :=
  let now := wsKey s.cur
  let note (k : Nat) (i : Instr) (r : RegName) : Spacing := { base := k, reg := r, ready := s.ts + (if slowVector i then 16 else 8) }
  let ws := (bundleInstrs b).flatMap fun i =>
    (writesOf i).map (note (if entersWorkspace i then now else base) i) ++
      (carriedRegs i ++ (if (carriedRegs i).isEmpty then [] else (upFrom 1 7).map RegName.p)).map (note now i)
  s.modCur fun t => { t with wrote := ws ++ (t.wrote.filter fun w => decide (s.ts < w.ready) && !(ws.any fun x => x.reg == w.reg && x.base == w.base)) }

/-- The pointers of an instruction's accesses to memory, and whether it writes them (R101 to R113, R188, R249 to R253, R167, R303). -/
def pointersOf (s : State) : Instr → Bool × List W64
  | .ldB _ b o _ | .ldBu _ b o _ => (false, [ptrShort s b o 1])
  | .ldH _ b o _ | .ldHu _ b o _ => (false, [ptrShort s b o 2])
  | .ldW _ b o _ | .ldWu _ b o _ => (false, [ptrShort s b o 4])
  | .ldD _ b o _ | .ivld _ b o _ => (false, [ptrShort s b o 8])
  | .stB _ b o _ => (true, [ptrShort s b o 1])
  | .stH _ b o _ => (true, [ptrShort s b o 2])
  | .stW _ b o _ => (true, [ptrShort s b o 4])
  | .stD _ b o _ | .ivst _ b o _ => (true, [ptrShort s b o 8])
  | .ldBLong _ b ext _ | .ldBuLong _ b ext _ | .ldHLong _ b ext _ | .ldHuLong _ b ext _ | .ldWLong _ b ext _
  | .ldWuLong _ b ext _ | .ldDLong _ b ext _ | .ivldLong _ b ext _ => (false, [ptrLong s b ext])
  | .ldOrderedLong _ b _ _ _ ext _ | .ldUOrderedLong _ b _ _ _ ext _ => (false, [ptrLong s b ext])
  | .stBLong _ b ext _ | .stHLong _ b ext _ | .stWLong _ b ext _ | .stDLong _ b ext _ | .ivstLong _ b ext _ => (true, [ptrLong s b ext])
  | .stOrderedLong _ b _ _ _ ext _ => (true, [ptrLong s b ext])
  | .ldx _ b c z _ | .ldxU _ b c z _ => (false, [rX s b + (rX s c <<< z.toNat)])
  | .stx _ b c z _ => (true, [rX s b + (rX s c <<< z.toNat)])
  | .ldOrdered _ b _ _ _ _ | .ldUOrdered _ b _ _ _ _ => (false, [rX s b])
  | .stOrdered _ b _ _ _ _ => (true, [rX s b])
  | .amadd _ b _ _ _ _ | .ammin _ b _ _ _ _ | .ammax _ b _ _ _ _ | .amand _ b _ _ _ _ | .amor _ b _ _ _ _
  | .amxor _ b _ _ _ _ | .amxchg _ b _ _ _ _ | .amcas _ b _ _ _ _ => (true, [rX s b])
  | .amfadd _ b _ _ _ => (true, [rX s b])
  | .ldv _ b c _ => (false, [ptrV s b c])
  | .stv _ b c _ => (true, [ptrV s b c])
  | .ldvs _ b c _ => (false, stridePtrs s b c)
  | .stvs _ b c _ => (true, stridePtrs s b c)
  | .ldvg _ b c _ => (false, gatherPtrs s b c)
  | .stvg _ b c _ => (true, gatherPtrs s b c)
  | .vappend _ b _ _ _ | .vappendM _ b _ _ _ => (true, [rX s b])
  | .gnext _ b _ _ _ _ | .barw _ b _ => (false, [rX s b])
  | _ => (false, [])

/-- Bytes of memory as an instruction that is about to issue would find them at a pointer. -/
def peek (s : State) (p : W64) (n : Nat) : Nat :=
  match pathOf p with
  | 2 => s.pool.readNat (poolKey s.cur.core (addrOf p)) n
  | 3 => s.pool.readNat (addrOf p) n
  | _ => ctxNat s s.cur.pid (addrOf p) n

/-- The element pointers of a VAPPEND of `need` elements, as its descriptor stands (R252, R253). -/
def elementPtrs (s : State) (p : W64) (need : Nat) : List W64 :=
  let raw := peek s p 16
  (upTo (Nat.min need (bits raw 96 32 - bits raw 64 32))).map fun k => BitVec.ofNat 64 (bits raw 0 64 + 4 * (bits raw 64 32 + k))

/-- The lanes that a VAPPEND selects (R253). -/
def selectedLanes (s : State) (c : BitVec 3) (neg : Bool) : Nat := ((getV s (2 * c.toNat + 1)).filter fun x => bitAt x 31 != neg).length

/-- The pointers that memory gives an instruction: the elements of a VAPPEND, and the words of its tables that a GNEXT reads (R253, R303). -/
def tablePtrs (s : State) : Instr → List W64
  | .vappend _ b c n _ => elementPtrs s (rX s b) (selectedLanes s c (n == 1))
  | .vappendM _ b c n _ => elementPtrs s (rX s b) ((rcur s).mcnt.toNat * selectedLanes s c (n == 1))
  | .gnext d b c _ _ _ =>
    let hd := peek s (rX s b) 24
    let st := (rX s d).toNat % 2 ^ 32
    let tok := (rX s c).toNat % 2 ^ 32
    let ns := bits hd 128 32
    let nt := bits hd 160 32
    if ns ≤ st ∨ nt ≤ tok then []
    else
      let p := BitVec.ofNat 64 (bits hd 0 64 + 4 * (st * nt + tok))
      let w := peek s p 4
      p :: (if !bitAt w 31 ∨ ns ≤ bits w 0 24 then [] else [BitVec.ofNat 64 (bits hd 64 64 + 4 * bits w 0 24)])
  | _ => []

/-- Would an UNPICK restore the entry into a pool through NBR: R198 does not refuse it (R211, R262). -/
def restoresFar (s : State) (off : Nat) : Bool :=
  let h := logNat s s.cur.pid off 8
  let a := bits h 0 57
  restores s s.cur.pid off && bits h 60 4 == 3 && nbrAllowed s s.cur (a / 2 ^ 20) (a % 2 ^ 20) (szBytes (bits h 57 3))

/-- Does a chain from a link down to the marker at link `m` hold an entry that is restored through NBR. -/
def restoresNbr (s : State) (pid : BitVec 16) (m : Nat) : Nat → Nat → Bool
  | 0, _ => false
  | n + 1, l =>
    if l = m ∨ l = 0 then false
    else restoresFar s (linkOff l) ||
      restoresNbr s pid m n (let p := logNat s pid (linkOff l + 8) 4; if p = 0xFFFFFFFF then 0 else p + 1)

/-- Would an UNPICK restore bytes through NBR. One that reaches a fixed window changes nothing (R261). -/
def unpicksNbr (s : State) (x : W64) : Bool :=
  let n := windowKey (woldOf s) (namedWindow x (woldOf s))
  let back := (windowsOf s s.cur).filter fun w => decide (n ≤ windowKey (woldOf s) w.1)
  match back.getLast? with
  | some m => decide (nfix s ≤ nopen s - back.length) && restoresNbr s s.cur.pid m.2 (sysQ s (descAt s.cur.pid + 0x10) / 16 + 1) (getSt s 0x1B0 4)
  | none => false

/-- An effect that a WORLD switch no longer lets start: a spawn, a barrier arrival, an engine command, an access on NBR (R341, R379). -/
def startsWork (s : State) (i : Instr) : Bool :=
  match i with
  | .spawn .. | .spawnC .. | .fork .. | .forkC .. | .bara .. | .barg .. | .qpush .. => true
  | .movm _ b _ => splits s (rX s b)
  | .unpick _ b _ => unpicksNbr s (rX s b)
  | i => ((pointersOf s i).2 ++ tablePtrs s i).any fun p => pathOf p == 3

/-- An effect that RSTEP does not undo (R216, R355, R393): those that fix a window, a QPUSH, a QPOP or a QTRY. -/
def cannotUndo (s : State) (i : Instr) : Bool :=
  match i with
  | .movm _ b _ => splits s (rX s b)
  | .spawn .. | .spawnC .. | .fork .. | .forkC .. | .bara .. | .launch .. | .launchLong .. | .launchw ..
  | .taskArm .. | .taskDis .. | .qpush .. | .qpop .. | .qtry .. | .crpass .. | .crtake .. => true
  | i =>
    let a := pointersOf s i
    a.1 && (a.2 ++ tablePtrs s i).any fun p =>
      pathOf p == 5 || ((pathOf p == 0 || pathOf p == 4) && (match deviceAddr s s.cur.pid (addrOf p) false with
        | .ok pa => isRemote pa
        | .error _ => false))

/-- Has the word's guard the value true. -/
def guardTrue (s : State) (i : Instr) : Bool :=
  match usesOf i with
  | some (g, _) => guardOn s g
  | none => true

/-- Is an instruction a LIVE (R339). -/
def isLive : Instr → Bool
  | .liveP .. | .liveD .. => true
  | _ => false

end Sys2Proof.Machine
end

