-- ==== Sys2Proof/Machine/Debug.lean ====
section
/-!
DEFINITION. The debug port (19 R352 to R355): stops, steps, debug-log mode and stepping back.
-/
namespace Sys2Proof.Machine

/-- A refused or failed command says so in DSTAT; the operations that succeed leave 0 (R352). -/
def debugResult (s : State) (core v : Nat) : State := s.modCore core fun c => { c with dstat := v }

/-- An operation of a debugger on a context: refused while none is attached (R352; log entry 28, DEDUCED). -/
def debugOp (s : State) (core : Nat) (pid : BitVec 16) (k : State → State) : State :=
  if sysQ s (svcAt pid + 0x10) = 0 then debugResult s core 4 else k (debugResult s core 0)

/-- The thread that a slot number names: the one in the slot, else one that has last run there and has not gone elsewhere. -/
def debugThread (s : State) (core slot : Nat) (pid : BitVec 16) : Option Thread :=
  let own (t : Thread) : Bool := t.pid == pid && t.core == core && t.slot == slot && !t.retireNext
  match (slotThread s core slot).filter own with
  | some t => some t
  | none =>
    match s.allThreads.find? fun t => own t && t.state == .stopped with
    | some t => some t
    | none => s.allThreads.find? fun t => own t && t.state != .free && t.img.isNone

/-- An operation on the thread of a slot; RES 1 where there is none. -/
def debugOn (s : State) (core slot : Nat) (pid : BitVec 16) (k : State → Thread → State) : State :=
  debugOp s core pid fun s =>
    match debugThread s core slot pid with
    | some t => k s t
    | none => debugResult s core 1

/-- An operation on a stopped thread of a slot; RES 1 for any other. -/
def debugStopped (s : State) (core slot : Nat) (pid : BitVec 16) (k : State → Thread → State) : State :=
  debugOn s core slot pid fun s t => if t.state = .stopped then k s t else debugResult s core 1

/-- HALT: every thread of a context on a core, running there or queued for it. -/
def debugHalt (s : State) (core : Nat) (pid : BitVec 16) : State :=
  (s.allThreads.filter fun t =>
    t.pid == pid && (t.place == .fifo core || t.place == .pinned core || (t.core == core && t.img.isNone))).foldl
    (fun s t => stopThread s t.tid) s

/-- STEP: the thread goes on in its slot, or where it waits for one, for `n` bundles. -/
def debugStep (s : State) (t : Thread) (n : Nat) : State :=
  let s1 := s.modThread t.tid fun t => { t with stepsLeft := some n, stopNext := false }
  if t.img.isNone && mayRun s t && (slotThread s t.core t.slot).isNone then
    s1.modThread t.tid fun t => { t with state := .running, npc := t.pc }
  else makeReady s1 t.tid

/-- Old values of a register destination, as the log of debug-log mode holds them (R214): 8 bytes of an x or iv register, a line
of a v register or of the status block. -/
def regEntry (s : State) (r : RegName) : LogEnt :=
  let at' : Nat × Nat := match r with
    | .p _ => (0x180, 64)
    | r => regSpan r
  { path := 2, sz := szCode at'.2, addr := s.cur.wp + at'.1, win := 0, val := bundleNow s
    data := s.pool.readBytes (wsKey s.cur + at'.1) at'.2 }

/-- The registers of a bundle whose old values debug-log mode logs, each once; a WRSR to a field of the status block counts as one to it. -/
def loggedRegs (s : State) (b : Bundle) : List RegName :=
  let all := ((bundleInstrs b).filter (guardTrue s)).flatMap fun i =>
    match i with
    | .wrsr _ n _ => if n.toNat = 0x08 ∨ n.toNat = 0x0E then [] else [.p 1]
    | i => (writesOf i).map fun r => if isPred r then .p 1 else r
  all.foldl (fun acc r => if acc.contains r then acc else acc ++ [r]) []

/-- What a bundle appends in debug-log mode: a REG marker with its PC, then its registers (R214, R355). -/
def debugEntries (s : State) (b : Bundle) : List LogEnt :=
  { path := 0, sz := 5, addr := 0, win := 0, data := leBytes 8 s.cur.pc.toNat, val := bundleNow s } :: (loggedRegs s b).map (regEntry s)

/-- MARK appends a NOOP of PATH 0xE with a value of zero (R355, log entry 29, DEDUCED): RES 3 where the log has no room, 4 where it cannot be
written. -/
def debugMark (s : State) (core : Nat) (t : Thread) : State :=
  let e : LogEnt := { path := 0xE, sz := 6, addr := 0, win := 0, data := leBytes 8 0, val := 0 }
  match appendPolicy t.tid core t.pid (fun _ => [e]) (openCount s t.pid) s with
  | .ok s1 _ => s1
  | .full _ => debugResult s core 3
  | .fault 0 _ => s.later [.dcmdMark core t.slot t.pid]
  | .fault _ _ => debugResult s core 4

/-- The link after an entry of the chain. -/
def prevLink (s : State) (pid : BitVec 16) (off : Nat) : Nat :=
  let p := logNat s pid (off + 8) 4
  if p = 0xFFFFFFFF then 0 else p + 1
/-- SZ of an entry. -/
def entrySz (s : State) (pid : BitVec 16) (off : Nat) : Nat := bits (logNat s pid off 8) 57 3
/-- Is the entry a MARK. -/
def isMark (s : State) (pid : BitVec 16) (off : Nat) : Bool :=
  entrySz s pid off == 6 && bits (logNat s pid off 8) 60 4 == 0xE

/-- What a walk back over one bundle comes to: its registers and stores restored and the link of its REG marker, a MARK that is met
first, or no earlier marker. -/
inductive WalkBack where
  | marker (s : State) (link : Nat)
  | mark
  | exhausted

/-- Walk back from a link to the latest REG marker, restoring the entries on the way (R262, R355). With `atMark` the walk ends at a
MARK. A place that cannot be restored ends it as an exhausted log does. -/
def walkBack (t : Thread) (atMark : Bool) : Nat → Nat → State → WalkBack
  | 0, _, _ => .exhausted
  | n + 1, link, s =>
    if link = 0 then .exhausted
    else
      let off := linkOff link
      if entrySz s t.pid off = 5 then .marker s link
      else if atMark && isMark s t.pid off then .mark
      else if entrySz s t.pid off ≤ 4 then
        match restoreEntry s t off with
        | .ok (s1, _) => walkBack t atMark n (prevLink s t.pid off) s1
        | .error _ => .exhausted
      else walkBack t atMark n (prevLink s t.pid off) s

/-- Word 0 of a bundle in memory, decoded; only a C-class word or a long form has an effect outside the registers. -/
def firstWord (w : W64) : Option Instr :=
  (if fld (word0 w) 31 1 = 1 then decodeL (word0 w) (word1 w) else decodeC (word0 w)).toOption

/-- Does the bundle at a PC hold an effect that RSTEP does not undo: looked at with the registers from before it. -/
def bundleStays (s : State) (t : Thread) (pc : Nat) : Bool :=
  match firstWord (BitVec.ofNat 64 (ctxNat s t.pid pc 8)) with
  | some i =>
    let s1 := { switchTo s t.tid with pre := none }
    guardTrue s1 i && cannotUndo s1 i
  | none => false

/-- RSTEP: undo `n` bundles, one at a time; with `atMark`, back to the latest MARK (R355). -/
def debugRstep (core tid : Nat) (atMark : Bool) : Nat → State → State
  | 0, s => saveRecord s tid
  | n + 1, s =>
    match s.thread? tid with
    | none => s
    | some t =>
      match walkBack t atMark (sysQ s (descAt t.pid + 0x10) / 16 + 1) (tget s t 0x1B0 4) s with
      | .exhausted => saveRecord (debugResult s core 3) tid
      | .mark => saveRecord s tid
      | .marker s1 link =>
        let pc := logNat s t.pid (linkOff link + 16) 8
        if bundleStays s1 t pc then saveRecord (debugResult s core 2) tid
        else
          let s2 := tput s1 tid 0x1B0 4 (prevLink s t.pid (linkOff link))
          debugRstep core tid atMark n (s2.modThread tid fun t => { t with pc := BitVec.ofNat 64 pc, npc := BitVec.ofNat 64 pc })

/-- A bundle count of 0 is refused (R352). -/
def counted (s : State) (core n : Nat) (k : State → State) : State := if n = 0 then debugResult s core 4 else k s

/-- DCMD_HALT (R352, R354). -/
def execDcmdHalt (core : Nat) (pid : BitVec 16) (s : State) : Result :=
  .next (debugOp s core pid fun s => debugHalt s core pid)

/-- DCMD_STOP (R352, R354). -/
def execDcmdStop (core : Nat) (slot : Nat) (pid : BitVec 16) (s : State) : Result :=
  .next (debugOn s core slot pid fun s t => stopThread s t.tid)

/-- DCMD_STEP (R352, R354). -/
def execDcmdStep (core : Nat) (slot : Nat) (pid : BitVec 16) (n : Nat) (s : State) : Result :=
  .next (debugStopped s core slot pid fun s t => counted s core n fun s => debugStep s t n)

/-- DCMD_RSTEP (R352, R355). -/
def execDcmdRstep (core : Nat) (slot : Nat) (pid : BitVec 16) (n : Nat) (s : State) : Result :=
  .next (debugStopped s core slot pid fun s t => counted s core n fun s =>
    if n = 0xFFFF then debugRstep core t.tid true (sysQ s (descAt t.pid + 0x10) / 16 + 1) s else debugRstep core t.tid false n s)

/-- DCMD_GO (R352, R354). -/
def execDcmdGo (core : Nat) (slot : Nat) (pid : BitVec 16) (s : State) : Result :=
  .next (debugStopped s core slot pid fun s t => makeReady (s.modThread t.tid fun t => { t with stopNext := false }) t.tid)

/-- DCMD_DLOG_ON (R214, R352). -/
def execDcmdDlogOn (core : Nat) (slot : Nat) (pid : BitVec 16) (s : State) : Result :=
  .next (debugOn s core slot pid fun s t => tput s t.tid 0x190 1 (setBits (tget s t 0x190 1) 1 1 1))

/-- DCMD_DLOG_OFF (R214, R352). -/
def execDcmdDlogOff (core : Nat) (slot : Nat) (pid : BitVec 16) (s : State) : Result :=
  .next (debugOn s core slot pid fun s t => tput s t.tid 0x190 1 (setBits (tget s t 0x190 1) 1 1 0))

/-- DCMD_MARK (R352, R355). -/
def execDcmdMark (core : Nat) (slot : Nat) (pid : BitVec 16) (s : State) : Result :=
  .next (debugOn s core slot pid fun s t => debugMark s core t)

/-- DCMD_TRIM (R212, R352, R355). -/
def execDcmdTrim (core : Nat) (slot : Nat) (pid : BitVec 16) (s : State) : Result :=
  .next (debugOn s core slot pid fun s t => releaseEntries s t.pid t.tid [0])

end Sys2Proof.Machine
end

