-- ==== Sys2Proof/Machine/Sha3.lean ====
section
/-!
DEFINITION. SHA3-512, which 24 R408 to R410 name: the standard FIPS 202 gives it, not the spec (log entry 7, PRESUMED). The 1,600 bits are 25
lanes of 64 bits; lane x + 5y stands in column x of row y.
-/
namespace Sys2Proof.Machine

/-- The rotation of each lane in step rho. -/
def keccakTurns : List Nat :=
  [0, 1, 62, 28, 27, 36, 44, 6, 55, 20, 3, 10, 43, 25, 39, 41, 45, 15, 21, 8, 18, 2, 61, 56, 14]

/-- The constant of each round in step iota. -/
def keccakConstants : List (BitVec 64) :=
  [0x0000000000000001, 0x0000000000008082, 0x800000000000808A, 0x8000000080008000, 0x000000000000808B, 0x0000000080000001,
   0x8000000080008081, 0x8000000000008009, 0x000000000000008A, 0x0000000000000088, 0x0000000080008009, 0x000000008000000A] ++
  [0x000000008000808B, 0x800000000000008B, 0x8000000000008089, 0x8000000000008003, 0x8000000000008002, 0x8000000000000080,
   0x000000000000800A, 0x800000008000000A, 0x8000000080008081, 0x8000000000008080, 0x0000000080000001, 0x8000000080008008]

/-- A lane of the state, by column and row, which wrap at 5. -/
def lane (a : List (BitVec 64)) (x y : Nat) : BitVec 64 := a.getD (x % 5 + 5 * (y % 5)) 0
/-- The 25 lanes that a function of column and row gives. -/
def lanes (f : Nat → Nat → BitVec 64) : List (BitVec 64) := (List.range 25).map fun i => f (i % 5) (i / 5)

/-- One round of Keccak-f[1600]: theta, rho with pi, chi and iota. -/
def keccakRound (a : List (BitVec 64)) (rc : BitVec 64) : List (BitVec 64) :=
  let col := (List.range 5).map fun x => lane a x 0 ^^^ lane a x 1 ^^^ lane a x 2 ^^^ lane a x 3 ^^^ lane a x 4
  let t := lanes fun x y => lane a x y ^^^ lane col (x + 4) 0 ^^^ (lane col (x + 1) 0).rotateLeft 1
  let b := lanes fun x y => (lane t (x + 3 * y) x).rotateLeft (keccakTurns.getD ((x + 3 * y) % 5 + 5 * x) 0)
  let c := lanes fun x y => lane b x y ^^^ (~~~lane b (x + 1) y &&& lane b (x + 2) y)
  (lane c 0 0 ^^^ rc) :: c.drop 1

/-- Keccak-f[1600]. -/
def keccak (a : List (BitVec 64)) : List (BitVec 64) := keccakConstants.foldl keccakRound a

/-- Absorb `n` blocks of 72 bytes. -/
def absorb : Nat → List Byte → List (BitVec 64) → List (BitVec 64)
  | 0, _, a => a
  | n + 1, m, a =>
    let block := lanes fun x y => if x + 5 * y < 9 then BitVec.ofNat 64 (leNat ((m.drop (8 * (x + 5 * y))).take 8)) else 0
    absorb n (m.drop 72) (keccak (List.zipWith (· ^^^ ·) a block))

/-- The padding after a message of `n` bytes. -/
def sha3Padding (n : Nat) : List Byte :=
  let k := 72 - n % 72
  if k = 1 then [0x86] else 0x06 :: List.replicate (k - 2) 0 ++ [0x80]

/-- SHA3-512 of a message: 64 bytes. -/
def sha3 (m : List Byte) : List Byte :=
  ((absorb (m.length / 72 + 1) (m ++ sha3Padding m.length) (List.replicate 25 0)).take 8).flatMap fun v => leBytes 8 v.toNat

end Sys2Proof.Machine
end

