-- ==== Sys2Proof/Machine/Device.lean ====
section
/-!
DEFINITION. What the device does of itself: links and their errors (22 R382 to R404), bring-up, attestation, power and the system map (24 R407 to R416).
-/
namespace Sys2Proof.Machine

/-! ### Links (R391, R399, R402) -/

/-- The die whose error block counts a link's events: of a hem edge the lower-numbered die, of a stitch port the die of its
number over 4 (log entry 33, DESIGN CHOICE). -/
def linkDie : Link → Nat
  | .hem e => if e = 1 then 2 else if e = 3 then 1 else 0
  | .stitch p => p / 4 % 4
/-- The two dies of a hem edge (R382). -/
def hemDies (e : Nat) : List Nat := if e = 0 then [0, 1] else if e = 1 then [2, 3] else if e = 2 then [0, 2] else [1, 3]

/-- Add to a field of an error block, saturating (R402). -/
def errAdd (s : State) (die off n : Nat) : State :=
  let a := 0x104014000 + 0x100 * die + off
  { s with sys := s.sys.writeNat a 8 (Nat.min (sysQ s a + n) (2 ^ 64 - 1)) }

/-- Do two places lie in the 32 bytes that one flit carries: taken to be aligned ones (log entry 130, DESIGN CHOICE). -/
def sameFlit (a b : Loc) : Bool :=
  match a, b with
  | .mem x, .mem y => x / 32 == y / 32
  | .pool x, .pool y => x / 32 == y / 32
  | a, b => a == b

/-- One flit of an access comes poisoned (R399, R400): the bytes of it that a store has still to write, or the answer. -/
def spoilAccess (s : State) (a : Access) : State :=
  match a.op, a.pieces with
  | .store, p0 :: _ =>
    let c := pickOf s a.pieces.length
    let p := a.pieces.getD c.1 p0
    modAccess c.2 a.id fun a => { a with pieces := a.pieces.map fun q => if sameFlit p.loc q.loc then { q with bad := true } else q }
  | _, _ => modAccess s a.id fun a => { a with poison := true }

/-- One flit of a copy comes poisoned: one of a packet that travels, or one of its next read, which stops it (R399, R400). -/
def spoilCopy (s : State) (r : CopyRun) : State :=
  match r.packets with
  | k :: _ =>
    let c := pickOf s k.parts.length
    let at' := (k.parts.getD c.1 (.dropped, [])).1
    c.2.modCopy r.id fun r => { r with packets := r.packets.map fun x =>
      if x.num = k.num then { x with bad := ((x.parts.map (·.1)).filter (sameFlit at')) ++ x.bad } else x }
  | [] => if r.readTo < cpSize r.cmd ∧ r.stopped.isNone then copyStop s r cPOISON (r.cmd.ptr 8 + BitVec.ofNat 64 r.readTo) else s

/-- A contribution that travels to its adder comes poisoned: its command is stopped, as by a read of poisoned data (R389, R400). -/
def spoilSum (s : State) (x : SumRun) : State :=
  match x.parts'.find? fun p => p.2.2.isSome && x.rows.contains (globalY p.1) with
  | some p =>
    notifyEngine (s.modSum x.id fun y => { y with
      parts' := y.parts'.map fun q => if q.1 = p.1 then (q.1, q.2.1, none) else q
      stops := (p.1, cPOISON, (p.2.1.ptr 8).toNat) :: y.stops.filter fun e => e.1 ≠ p.1 }) p.1 p.2.1 cPOISON (p.2.1.ptr 8)
  | none => s

/-- A flit is resent, at most 8 times on one hop, and then delivered poisoned; `acc` is the number of the access, copy or sum whose data it carries, and
with none it goes to the engine that reads next (R399). -/
def flitError (s : State) (die resends : Nat) (acc : Option Nat) : State :=
  let s1 := errAdd s die 0x30 (Nat.min resends 8)
  if resends < 8 then s1
  else
    let s2 := errAdd s1 die 0x38 1
    match acc with
    | none => { s2 with upsets := .flit :: s2.upsets }
    | some id =>
      match s2.accesses.find? fun a => a.id == id, s2.copy? id, s2.sum? id with
      | some a, _, _ => spoilAccess s2 a
      | none, some r, _ => spoilCopy s2 r
      | none, none, some x => spoilSum s2 x
      | none, none, none => s2

/-- Replays of a flit group; after 16 the link is retrained (R399). -/
def linkReplays (s : State) (l : Link) (n : Nat) : State :=
  let s1 := errAdd s (linkDie l) 0x40 (Nat.min n 16)
  if n < 16 then s1 else s1.later [.linkRetrain l]

/-- A link is retrained: traffic for it waits until the retraining succeeds or fails, which is open (R391; log entry 34, DESIGN CHOICE). -/
def retrain (s : State) (l : Link) : State :=
  if s.linksWait.contains l || s.linksDown.contains l then s
  else
    let r := randomBelow { s with linksWait := l :: s.linksWait } 2
    r.2.later [if r.1 = 0 then .linkRetrained l else .linkDown l]


/-- The blocks of a die are marked DOWN (R395). -/
def markDown (s : State) (die : Nat) : State :=
  (upTo 16).foldl (fun s i =>
    let a := 0x104011000 + 8 * (16 * die + i)
    { s with sys := s.sys.writeNat a 8 (setBits (sysQ s a) 6 1 1) }) s

/-- A link goes down: what it has carried and is not answered gets no answer, and a hem edge takes its dies' blocks down (R391, R395). -/
def linkFails (s : State) (l : Link) : State :=
  if s.linksDown.contains l then s
  else
    let lost := s.accesses.filter fun a => a.pieces.any fun p => (linksTo s (dieOf a.core) p.loc).contains l
    let s1 := errAdd { s with linksDown := l :: s.linksDown, linksWait := s.linksWait.filter (· != l) } (linkDie l) 0x48 1
    let s2 := lost.foldl unanswered s1
    match l with
    | .hem e => (hemDies e).foldl markDown s2
    | .stitch _ => s2

/-! ### Root ports (R403, R404) -/

/-- The identifier that a request is mapped to: none where the stream table or the context does not admit it. -/
def inboundPid (s : State) (rid pasid : BitVec 16) : Option (BitVec 16) :=
  let e := sysQ s (0x104100000 + 8 * rid.toNat)
  let pid : BitVec 16 := if bitAt e 62 then pasid else BitVec.ofNat 16 e
  if bitAt e 63 && cstate s pid == 1 then some pid else none

/-- A write of a device, by pages: the state, or the cause and address that refuse it. Bytes of a frame of a reset tenant are dropped
and counted (R210); the leaf takes A and D (R206, R207). -/
def inboundWrite (pid : BitVec 16) : Nat → Nat → List Byte → State → Except (Nat × Nat) State
  | 0, _, _, s => .ok s
  | f + 1, va, l, s =>
    if l.isEmpty then .ok s
    else
      let c := Nat.min l.length (4096 - va % 4096)
      match walk s pid va with
      | .page => .error (cPAGE, va)
      | .leaf e lvl pa =>
        if !bitAt e 10 then .error (cPROT, va)
        else
          let s := cacheLeaf s (Thread.make 0 ctlCore0 0 0 pid) va e lvl pa true
          let loc := if revoked s (stationOf 4 va) (bits e 56 8) then Loc.dropped else .mem (leafAddr s e lvl va)
          inboundWrite pid f (va + c) (l.drop c) (writeLoc s none loc (l.take c) 0 4)

/-- A read of a device, by pages: each leaf takes A (R206, R207), and one of a frame of a reset tenant is counted (R210). -/
def inboundRead (pid : BitVec 16) : Nat → Nat → Nat → State → Except (Nat × Nat) State
  | 0, _, _, s => .ok s
  | f + 1, va, n, s =>
    if n = 0 then .ok s
    else
      let c := Nat.min n (4096 - va % 4096)
      match walk s pid va with
      | .page => .error (cPAGE, va)
      | .leaf e lvl pa =>
        let s1 := cacheLeaf s (Thread.make 0 ctlCore0 0 0 pid) va e lvl pa false
        inboundRead pid f (va + c) (n - c) (if revoked s1 (stationOf 4 va) (bits e 56 8) then errCount s1 4 0x58 else s1)

/-- Are the root ports up: die K's operating software trains them (R403, R409, R412; log entry 111, DESIGN CHOICE). -/
def portsUp (s : State) : Bool := bootPast s 0x30

/-- An inbound request (R404). What a read returns leaves the package; one that cannot be translated is reported. -/
def inbound (s : State) (rid pasid : BitVec 16) (va : W64) (wr : Option (List Byte)) (len : Nat) : State :=
  if !portsUp s then s else
  match inboundPid s rid pasid with
  | none => s
  | some pid =>
    let r : Except (Nat × Nat) State := match wr with
      | some l => if 2 ^ 57 < va.toNat + l.length then .error (cPAGE, va.toNat) else inboundWrite pid (l.length / 4096 + 2) va.toNat l s
      | none => if 2 ^ 57 < va.toNat + len then .error (cPAGE, va.toNat) else inboundRead pid (len / 4096 + 2) va.toNat len s
    match r with
    | .ok s1 => s1
    | .error (c, p) =>
      s.later [.faultNotification pid 0 (stopWord c (if wr.isSome then 1 else 0) 0 0 0) (BitVec.ofNat 64 p) 0]

/-- An interrupt spawns an active message as its table entry says (log entry 31, DESIGN CHOICE). -/
def interrupt (s : State) (vec : Nat) (data : W32) : State :=
  if !portsUp s then s else
  let w (i : Nat) : W64 := Config.interruptEntry (s.sys.readBytes 0x104200000 4096) vec data i
  spawnControl s ((w 1).setWidth 16) (ctlCore0 + (w 0).toNat % 32) (w 2) [w 3, w 4, w 5, w 6]

/-- A root port reports to the fault service of die K's supervisor, which is taken to be identifier 0 (log entry 31, DESIGN CHOICE). -/
def portReport (s : State) (kind port : Nat) (code : W64) : State :=
  let pc := sysQ s (svcAt 0)
  if pc = 0 ∨ !portsUp s then s
  else spawnControl s 0 (ctlCore0 + sysQ s (svcAt 0 + 8) % 32) (BitVec.ofNat 64 pc)
    ((upTo 4).map fun i => Config.deviceMessage kind port code i)

/-! ### Bring-up (R408 to R412) -/

/-- What a reset keeps: memories, flash, the fused counter, and the model's own lists and counters; every register is as at reset
(R409, R411; log entry 35, DESIGN CHOICE). -/
def resetPackage (s : State) : State :=
  let ws := poolKey ctlCore0 0
  { State.reset with
    hbm := s.hbm, hbmPoison := s.hbmPoison, pool := newStatus (s.pool.clear ws (ws + 0x800)) ws
    poolPoison := unpoison s.poolPoison ws 0x800
    sys := ((sysReset.copyFrom 0 s.sys 0 0x4000000).copyFrom 0x300000000 s.sys 0x300000000 0x10000000).copyFrom (attBase + 0x4D0)
      s.sys (attBase + 0x4D0) 8
    skew := s.skew, agenda := [], sched := s.sched, upsets := s.upsets, choices := s.choices, drawn := s.drawn, freeNext := s.freeNext }

/-- Sixty-four bytes of a digest. -/
def digest64 (l : List Byte) : List Byte := (l ++ List.replicate 64 0).take 64

/-- Extend a measurement register (R410). -/
def extendMr (s : State) (i : Nat) (d : List Byte) : State :=
  let a := attBase + 0x40 * i
  { s with sys := s.sys.writeBytes a (sha3 (s.sys.readBytes a 64 ++ d)) }

/-- Flash address of a slot (R408). -/
def slotBase (slot : Nat) : Nat := 0x300000000 + 0x8000000 * slot
/-- The signed digest of the image in a slot. -/
def imageDigest (s : State) (slot : Nat) : List Byte :=
  sha3 (s.sys.readBytes (slotBase slot) 0xA40 ++ s.sys.readBytes (slotBase slot + 0x2000) (sysW s (slotBase slot + 0xC)))

/-- Does the boot ROM accept the image of a slot (R409). -/
def imageAccepted (s : State) (slot : Nat) : Bool :=
  let b := slotBase slot
  sysQ s b == 0x48524F5245494D47 &&
    sha3 (s.sys.readBytes (b + 0x20) 2592) == digest64 Config.fusedKeyHash &&
    decide (bits (sysQ s (attBase + 0x4D0)) 0 8 ≤ sysW s (b + 8)) &&
    Config.mldsaVerify (s.sys.readBytes (b + 0x20) 2592) (imageDigest s slot) (s.sys.readBytes (b + 0xA40) 4627) &&
    decide (sysQ s (b + 0x10) + sysW s (b + 0xC) ≤ 0x4000000)

/-- The ROM takes the image of a slot. -/
def takeImage (s : State) (slot : Nat) : State :=
  let b := slotBase slot
  let entry := BitVec.ofNat 64 (sysQ s (b + 0x18))
  let s1 := extendMr { s with sys := s.sys.copyFrom (sysQ s (b + 0x10)) s.sys (b + 0x2000) (sysW s (b + 0xC)) } 0 (imageDigest s slot)
  { s1 with
    sys := s1.sys.writeNat (attBase + 0x4C8) 8 (slot + 1), imageVer := sysW s (b + 8)
    cur := { s1.cur with pc := entry, npc := entry } }

/-- Reset and the boot ROM (R409): slot 0, then slot 1; with neither accepted the control core halts. -/
def bootRom (s0 : State) : State :=
  let s := resetPackage s0
  if imageAccepted s 0 then takeImage s 0
  else if imageAccepted s 1 then takeImage s 1
  else { s with sys := s.sys.writeNat (attBase + 0x4C8) 8 0xE0, cur := { s.cur with state := .free } }

/-- EXTI: extend MR i by EXTD (R410). -/
def extiStore (s : State) (i : Nat) : State := if 16 ≤ i then s else extendMr s i (s.sys.readBytes (attBase + 0x400) 64)

/-- The quote of the registers as they are now (R410). -/
def quoteOf (s : State) : List Byte :=
  let q := s.sys.readBytes (attBase + 0x480) 64 ++ s.sys.readBytes attBase 1024 ++ leBytes 8 (s.pkgId % 64) ++
    leBytes 8 (sysQ s (attBase + 0x4D0))
  let sig := (Config.mldsaSign (sha3 q) ++ List.replicate 4627 0).take 4627
  q ++ sig ++ List.replicate (0x2000 - 0x1663) 0

/-- QGO: a quote is begun, unless one is being made. -/
def qgoStore (s : State) : State :=
  if sysQ s (attBase + 0x4C0) = 1 then s
  else ({ s with sys := s.sys.writeNat (attBase + 0x4C0) 8 1, quote := quoteOf s } : State).later [.quoteComplete]

/-- The quote is in QOUT and QGO reads 0. -/
def quoteDone (s : State) : State :=
  if sysQ s (attBase + 0x4C0) ≠ 1 then s
  else { s with sys := (s.sys.writeBytes (attBase + 0x1000) s.quote).writeNat (attBase + 0x4C0) 8 0, quote := [] }

/-- FVADV: the fused counter rises (R411). -/
def fvadvStore (s : State) (v : Nat) : State :=
  if bits (sysQ s (attBase + 0x4D0)) 0 8 < v ∧ v ≤ 255 ∧ v ≤ s.imageVer then { s with sys := s.sys.writeNat (attBase + 0x4D0) 8 v } else s

/-- TADM: a tenant is admitted, and no station holds its revocation any more (R210, R396, R397). -/
def tadmStore (s : State) (t : Nat) : State :=
  if 64 ≤ t then s
  else
    putTenant { s with sys := s.sys.writeNat 0x104012000 8 t, revokedAt := s.revokedAt.filter fun r => r.2 ≠ t } t (epochOf s t) 1

/-! ### What befalls the hardware (R390, R395, R399, R402, R412) -/

/-- The steps of the bring-up that may follow a value of BOOTST (R412). -/
def bootNext (v : Nat) : List Nat :=
  if v = 1 ∨ v = 2 then [0x10, 0xE1] else if v = 0x10 then [0x20] else if v = 0x20 then [0x30] else if v = 0x30 then [0x40] else []

/-- A step of the bring-up ends, where it is the next: BOOTST holds it, with 0x20 the package id is set (R390), and with 0xE1 the package halts
(R412; log entry 111, DESIGN CHOICE). -/
def bootStep (s : State) (v id : Nat) : State :=
  if !(bootNext (bootst s)).contains v then s
  else
    let s1 : State := { s with sys := s.sys.writeNat (attBase + 0x4C8) 8 v, pkgId := if v = 0x20 then id % 64 else s.pkgId }
    if v = 0xE1 then { s1 with threads := [], agenda := [], cur := { s1.cur with state := .free } } else s1

/-- The die whose error block counts the errors of a memory at a key or an address (R402). -/
def memoryDie (place at' : Nat) : Nat := if place = 0 then dieOf (at' / 2 ^ 20) else Config.stackDie (stackOf at') % 4

/-- An error of a pool (0), the memory-side cache (1) or HBM (2) is counted, and where it cannot be corrected the 8 bytes are poisoned (R399, R402). -/
def memoryError (s : State) (place at' : Nat) (fixed : Bool) : State :=
  if 2 < place ∨ (place ≠ 0 ∧ isRemote at') then s
  else
    let s1 := errAdd s (memoryDie place at') (0x10 * place + (if fixed then 0 else 8)) 1
    if fixed then s1 else spoil s1 (if place = 0 then .pool at' else .mem at') 1

/-- What is next to befall the hardware, where it befalls no unit at work (log entries 106 and 111, DESIGN CHOICE). -/
def upsetStep (s : State) : State :=
  match s.upsets with
  | .memory place at' fixed :: rest => memoryError { s with upsets := rest } place at' fixed
  | .unit die :: rest => if die < 4 then markDown { s with upsets := rest } die else { s with upsets := rest }
  | .boot v id :: rest => bootStep { s with upsets := rest } v id
  | _ => s

/-! ### Power (R414, R415) -/

/-- The power block's word. -/
def powerWord (s : State) : Nat := sysQ s 0x104016000
/-- Set it. -/
def setPower (s : State) (w : Nat) : State := { s with sys := s.sys.writeNat 0x104016000 8 w }

/-- The end of a power window (R415). -/
def powerWindow (s : State) (watts : Nat) : State :=
  let w := powerWord s
  let cap := Nat.min (bits w 40 12) 2400
  let floor := bits w 28 6
  let n := bits w 16 6
  if cap < watts ∧ floor < n then setPower s (setBits w 16 6 (n - 1))
  else if watts * 100 < cap * 95 ∧ n < 32 then setPower s (setBits w 16 6 (n + 1))
  else if cap < watts then
    let m (i : Nat) : W64 := Config.deviceMessage 2 0 (BitVec.ofNat 64 watts) i
    let s1 := setPower s (setBits w 1 1 1)
    if halted s then s1 else spawnControl s1 ((m 0).setWidth 16) ctlCore0 (m 1) [m 2, m 3, m 4, m 5]
  else s

/-- The current limit lowers the step at once, by how much is open, and sets ILIM (R415; log entry 36, DESIGN CHOICE). -/
def currentLimit (s : State) : State :=
  let w := powerWord s
  let n := bits w 16 6
  let r := freshValue s 1
  setPower r.2 (setBits (setBits w 16 6 (if n ≤ 1 then n else 1 + r.1 % (n - 1))) 2 1 1)

/-! ### Stores to the system map (R407) -/

/-- A store to the power block: PCAP is taken, FLOOR where its value is one of 16 to 32, a zero clears ILIM and OVER (R414). -/
def powerStore (old v : Nat) : Nat :=
  let f := bits v 28 6
  let w1 := setBits old 40 12 (bits v 40 12)
  let w2 := if 16 ≤ f ∧ f ≤ 32 then setBits w1 28 6 f else w1
  setBits w2 1 2 (Nat.land (bits old 1 2) (bits v 1 2))

/-- A store to a block's dword of the partition map: PART and CLFENCE are taken, V only where the block is not DOWN (R395). -/
def partStore (old v : Nat) : Nat :=
  let w := setBits (setBits old 0 6 (bits v 0 6)) 32 16 (bits v 32 16)
  if bitAt old 6 && bitAt v 7 then w else setBits w 7 1 (bits v 7 1)

/-- CCGO with CCARG as it stands (R334). Their reserved bits are not looked at (log entry 104, DESIGN CHOICE). -/
def ccgoSteps (s : State) (rec : W64) : List Event :=
  let a := sysQ s 0x100800008
  let pid : BitVec 16 := BitVec.ofNat 16 (a / 2 ^ 16)
  let seq : W32 := BitVec.ofNat 32 (a / 2 ^ 32)
  let cause : BitVec 8 := BitVec.ofNat 8 (a / 2 ^ 8)
  match bits a 0 4 with
  | 0 => [.ccgoResume pid rec]
  | 1 => [.ccgoTrap pid rec cause]
  | 2 => [.ccgoRetire pid rec]
  | 3 => [.ccgoStop pid rec]
  | 4 => [.ccgoCresume pid rec seq]
  | 5 => [.ccgoCend pid rec seq cause]
  | _ => []

/-- DCMD of a core's debug port (R352). Its reserved bits are not looked at (log entry 104, DESIGN CHOICE). -/
def dcmdSteps (core v : Nat) : List Event :=
  let pid : BitVec 16 := BitVec.ofNat 16 (v / 2 ^ 48)
  let n := bits v 32 16
  let slot := bits v 24 4
  match bits v 0 4 with
  | 0 => [.dcmdHalt core pid]
  | 1 => [.dcmdStop core slot pid]
  | 2 => [.dcmdStep core slot pid n]
  | 3 => [.dcmdRstep core slot pid n]
  | 4 => [.dcmdGo core slot pid]
  | 5 => [.dcmdDlogOn core slot pid]
  | 6 => [.dcmdDlogOff core slot pid]
  | 7 => [.dcmdMark core slot pid]
  | 8 => [.dcmdTrim core slot pid]
  | _ => []

/-- A store that has been performed at the system map. `v` is the dword with the stored bytes in it, and `x` the stored bytes at
their place with zeros elsewhere, which is what a register that acts on a store takes (log entry 37, DEDUCED). Reserved bits of a register that
acts are not looked at (log entry 104, DESIGN CHOICE). -/
def sysStore (s : State) (a v x : Nat) (whole low : Bool) : State :=
  let put (w : Nat) : State := { s with sys := s.sys.writeNat a 8 w }
  let act (es : List Event) : State := if low then s.later es else s
  let o := a - attBase
  if a < 0x100400000 then
    let pid : BitVec 16 := BitVec.ofNat 16 ((a - 0x100000000) / 0x40)
    if a % 0x40 = 0x20 then s
    else if a % 0x40 = 0 ∧ v ≠ 0 ∧ cstate s pid = 0 then setCstate { put v with vcyc := s.vcyc.filter fun c => c.1 ≠ pid } pid 1
    else put v
  else if a < 0x100800000 then put v
  else if a = 0x100800000 then
    let r : W64 := BitVec.ofNat 64 (bits x 0 57)
    if low then (if (ccgoSteps s r).isEmpty then ccResult s 3 else s.later (ccgoSteps s r)) else s
  else if a = 0x100800008 then put v
  else if a < 0x102000000 then
    let core := (a - 0x101000000) / 0x40
    if a % 0x40 ≠ 0 ∨ !low then s
    else if (dcmdSteps core x).isEmpty then debugResult s core 4
    else s.later (dcmdSteps core x)
  else if a < 0x104010000 then put v
  else if a < 0x104011000 then put (Nat.min (bits v 0 11) 1250)
  else if a < 0x104012000 then put (partStore (sysQ s a) v)
  else if a = 0x104012000 then act [.tadm (BitVec.ofNat 64 x)]
  else if a < 0x104014000 then put v
  else if a < 0x104016000 then (if whole && x == 0 && (a - 0x104014000) % 0x100 < 0x60 then put 0 else s)
  else if a < 0x104020000 then (if a = 0x104016000 then put (powerStore (sysQ s a) v) else s)
  else if a < 0x104100000 then
    if (0x400 ≤ o ∧ o < 0x440) ∨ (0x480 ≤ o ∧ o < 0x4C0) then put v
    else if o = 0x440 then act [.exti (BitVec.ofNat 64 x)]
    else if o = 0x4C0 then act (if x = 1 then [.qgo] else [])
    else if o = 0x4D8 then act [.fvadv (BitVec.ofNat 64 x)]
    else s
  else if a < 0x200000000 then put v
  else s

/-- A store to the system map is performed (R201, R407). Control-die memory takes the bytes; what lies outside the package takes them
away. -/
def registerWrite (s : State) (addr : Nat) (bytes : List Byte) (level : Nat) : State :=
  if level < storeLevel addr bytes.length (leNat bytes) then s
  else if addr < 0x4000000 then { s with sys := s.sys.writeBytes addr bytes }
  else if addr < 0x100000000 then s
  else
    let k := addr % 8
    let bs := bytes.take (8 - k)
    sysStore s (addr - k) (setBits (sysQ s (addr - k)) (8 * k) (8 * bs.length) (leNat bs)) (leNat bs * 2 ^ (8 * k))
      (k == 0 && bs.length == 8) (k == 0)

/-- FLIT_CRC_ERROR (R399, R400, R402). -/
def execFlitCrcError (die : Nat) (resends : Nat) (acc : Option Nat) (s : State) : Result :=
  .next (flitError s die resends acc)

/-- LINK_REPLAY (R399, R402). -/
def execLinkReplay (link : Link) (replays : Nat) (s : State) : Result :=
  .next (linkReplays s link replays)

/-- LINK_RETRAIN (R391, R399). -/
def execLinkRetrain (link : Link) (s : State) : Result :=
  .next (retrain s link)

/-- LINK_DOWN (R391, R395, R402). -/
def execLinkDown (link : Link) (s : State) : Result :=
  .next (linkFails s link)

/-- LINK_RETRAINED (R391). -/
def execLinkRetrained (link : Link) (s : State) : Result :=
  .next ({ s with linksWait := s.linksWait.filter (· != link) })

/-- INBOUND_REQUEST (R210, R404). -/
def execInboundRequest (rid : BitVec 16) (pasid : BitVec 16) (va : W64) (wr : Option (List Byte)) (len : Nat) (s : State) : Result :=
  .next (inbound s rid pasid va wr len)

/-- MSI (R404). -/
def execMsi (vec : Nat) (data : W32) (s : State) : Result :=
  .next (interrupt s vec data)

/-- SURPRISE_DOWN (R403). -/
def execSurpriseDown (port : Nat) (s : State) : Result :=
  .next (portReport s 0 port 0)

/-- AER_ERROR (R403). -/
def execAerError (port : Nat) (code : W64) (s : State) : Result :=
  .next (portReport s 1 port code)

/-- RESET (R408, R409, R412). -/
def execReset (s : State) : Result :=
  .next (bootRom s)

/-- EXTI (R410). -/
def execExti (i : W64) (s : State) : Result :=
  .next (extiStore s i.toNat)

/-- QGO (R410). -/
def execQgo (s : State) : Result :=
  .next (qgoStore s)

/-- QUOTE_COMPLETE (R410). -/
def execQuoteComplete (s : State) : Result :=
  .next (quoteDone s)

/-- FVADV (R411). -/
def execFvadv (v : W64) (s : State) : Result :=
  .next (fvadvStore s v.toNat)

/-- TADM (R210, R396, R397). -/
def execTadm (t : W64) (s : State) : Result :=
  .next (tadmStore s t.toNat)

/-- POWER_WINDOW (R414, R415). -/
def execPowerWindow (watts : Nat) (s : State) : Result :=
  .next (powerWindow s watts)

/-- CURRENT_LIMIT (R414, R415). -/
def execCurrentLimit (s : State) : Result :=
  .next (currentLimit s)

/-- REGISTER_WRITE (R201, R209, R334, R352, R395, R402, R407, R410, R414). -/
def execRegisterWrite (addr : Nat) (bytes : List Byte) (level : Nat) (s : State) : Result :=
  .next (registerWrite s addr bytes level)

end Sys2Proof.Machine
end

