-- ==== Sys2Proof/Machine/Gang.lean ====
section
/-!
DEFINITION. Gang switches, the quantum tables, save and restore, leases (19 R341 to R349, R358, R359; 20 R375; 21 R379).
-/
namespace Sys2Proof.Machine

/-! ### The quantum table (R347) -/

/-- Address of an entry. -/
def quantumEntry (p e : Nat) : Nat := quantumAt p + 0x40 + 0x20 * e
/-- QCYC. -/
def qCyc (s : State) (p e : Nat) : Nat := s.sys.readNat (quantumEntry p e) 4
/-- TEN. -/
def qTen (s : State) (p e : Nat) : Nat := s.sys.readNat (quantumEntry p e + 4) 1
/-- SAVE. -/
def qSave (s : State) (p e : Nat) : Nat := s.sys.readNat (quantumEntry p e + 8) 8
/-- Is an entry valid. -/
def qValid (s : State) (p e : Nat) : Bool := bitAt (s.sys.readNat (quantumEntry p e + 5) 1) 0
/-- Is an entry leased (R358). -/
def qLease (s : State) (p e : Nat) : Bool := bitAt (s.sys.readNat (quantumEntry p e + 5) 1) 1

/-! ### GANG (R375) -/

/-- The result of a GANG with a control word and T_g. -/
def gangResult (s : State) (x tg : Nat) : Nat :=
  let kind := bits x 8 2
  let p := bits x 0 6
  let q := s.part p
  let noClass0 := !q.class0On && !q.class0.isSome
  if x / 2 ^ 20 ≠ 0 ∨ bits x 10 6 ≠ 0 ∨ bits x 6 2 ≠ 0 ∨ kind = 3 ∨ !partConfigured s p ∨ (kind = 0 ∧ !qValid s p (bits x 16 4))
      ∨ (kind = 2 ∧ noClass0) then 5
  else if kind = 1 ∧ c0slot s p = 0 then 4
  else if tg < tsOf s s.cur.core + 2500 then 1
  else if kind = 1 ∧ tsOf s s.cur.core + 4960 < tg then 2
  else if (kind = 0 ∧ (q.world.isSome ∨ !q.next.isEmpty)) ∨ (kind ≠ 0 ∧ q.class0.isSome) ∨ (kind = 1 ∧ q.class0On) then 3
  else 0

/-- GANG: record the switch, or say why not. A WORLD accepted while CLASS0 holds or is pending waits for RETURN. -/
def gang (s : State) (d : BitVec 5) (x tg : W64) : State :=
  needLevel 2 s fun s =>
    let r := gangResult s x.toNat tg.toNat
    let kind := bits x.toNat 8 2
    let s1 := if r ≠ 0 then s else s.modPart (bits x.toNat 0 6) fun p =>
      if kind = 0 then
        { p with world := some { ent := bits x.toNat 16 4, tg := tg.toNat, lease := none, afterReturn := p.class0On || p.class0.isSome } }
      else { p with class0 := some (kind == 2, tg.toNat) }
    wX s1 d (BitVec.ofNat 64 r)

/-! ### Stopping the threads of the outgoing context (R341, R342, R379) -/

/-- Does the thread wait in its slot in one of the instructions before whose bundle it stops (R342). -/
def waitStops (t : Thread) : Bool :=
  match t.wait with
  | some (.queueRoom _) => true
  | some (.record _) => true
  | some (.counts _ _ _ _) => true
  | some (.batches _) => true
  | some (.barrier _ _ _) => true
  | some (.group _) => true
  | some (.element _) => true
  | _ => false

/-- Stop the threads that wait so. -/
def stopWaiters (s : State) (part : Nat) : State :=
  (s.allThreads.filter fun t => worldThread s part t && t.state == .running && waitStops t).foldl (fun s t => leaveSlot s t .preempted) s

/-- Has a context stopped in a partition, and has what it had under way landed: no thread in a slot, no access in flight, no packet
on its way (R341, R344). -/
def worldStopped (s : State) (part : Nat) : Bool :=
  let ts := s.allThreads.filter (worldThread s part)
  ts.all (fun t => t.state != .running && (ownAccesses s t.tid).isEmpty) &&
    s.copies.all fun r => r.part != part || !frozen s r.core r.cmd || r.packets.isEmpty

/-! ### Save and restore (R342 to R344) -/

/-- Is a command a class-0 thread's. -/
def class0Cmd (s : State) (tid : Nat) : Bool := (s.thread? tid).any (isClass0 s)

/-- The pool ranges of a core that a WORLD switch takes: all but the class-0 range (R348). -/
def worldRanges (s : State) (part : Nat) : List (Nat × Nat) :=
  if c0slot s part = 0 then [(0, 0xC0000)]
  else [(0, Nat.min (c0off s part) 0xC0000), (Nat.min (c0off s part + c0len s part) 0xC0000, 0xC0000)]

/-- The scratchpad bytes of a core outside the extents of its stopped threads become undefined (R339, R342). -/
def dropScratch (s : State) (ts : List Thread) (core : Nat) : State :=
  let r := regionsOf (s.core core).pword.toNat 0 false
  let own := ts.filter fun t => t.core == core && t.home
  if own.any fun t => t.extents.isNone then s
  else
    let kept := own.flatMap fun t => t.extents.getD []
    (upTo ((r.spHi - r.spLo) / 64)).foldl (fun s i =>
      let a := r.spLo + 64 * i
      if kept.any fun e => shared a 64 e.1 e.2 != 0 then s
      else { s with pool := s.pool.forget (poolKey core a) (poolKey core a + 64) s.freeNext, freeNext := s.freeNext + 1 }) s

/-- What is saved of a core: all that is not class-0 work's, with the tenant's slot table. -/
def savedCore (s : State) (c : CoreSt) : CoreSt :=
  { c with
    table := c.tenantTable.getD c.table, tenantTable := none, cmds := c.cmds.filter fun x => !class0Cmd s x.tid
    records := c.records.filter fun r => !class0Cmd s r.tid, mxu := c.mxu.filter fun r => !class0Cmd s r.cmd.tid }
/-- What stays in a core. -/
def leftCore (s : State) (c : CoreSt) : CoreSt :=
  { CoreSt.reset with
    table := if c.tenantTable.isSome then c.table else rrTable, tenantTable := c.tenantTable.map fun _ => rrTable
    cmds := c.cmds.filter fun x => class0Cmd s x.tid, records := c.records.filter fun r => class0Cmd s r.tid
    mxu := c.mxu.filter fun r => class0Cmd s r.cmd.tid, slotSeq := c.slotSeq, dstat := c.dstat }
/-- A saved core comes back beside what class-0 work has in the core; the slots' SEQ is the core's own. -/
def restoredCore (saved now : CoreSt) : CoreSt :=
  { saved with
    table := if now.tenantTable.isSome then now.table else saved.table, tenantTable := now.tenantTable.map fun _ => saved.table
    cmds := saved.cmds ++ now.cmds, records := saved.records ++ now.records, mxu := saved.mxu ++ now.mxu, slotSeq := now.slotSeq
    dstat := now.dstat }

/-- Copy the ranges of a core's pool between the pools and a saved pool. -/
def copyRanges (rs : List (Nat × Nat)) (core : Nat) (dst src : Memory) : Memory :=
  rs.foldl (fun d r => d.copyFrom (poolKey core r.1) src (poolKey core r.1) (r.2 - r.1)) dst
/-- Does a pool granule lie in the ranges of a core of a list. -/
def inRanges (rs : List (Nat × Nat)) (cores : List Nat) (g : Nat) : Bool :=
  cores.contains (8 * g / 2 ^ 20) && rs.any fun r => decide (r.1 ≤ 8 * g % 2 ^ 20 ∧ 8 * g % 2 ^ 20 < r.2)

/-- Pool entries that a context's launches and waiters hold in a partition (R143). -/
def entriesOf (s : State) (part : Nat) (pid : BitVec 16) (ws : List PoolWait) : Nat :=
  let ls := s.launches.filter fun l => l.part == part && l.pid == pid && !(1 ≤ l.state && l.pclass == 0)
  (ls.map fun l => b2n l.first + l.resv + l.succ).sum + (ws.map fun w => w.ofParent + w.free).sum

/-- Is a waiter for entries one of a context. -/
def waiterOf (s : State) (pid : BitVec 16) (w : PoolWait) : Bool :=
  if w.isLaunch then (s.launch? w.id).any fun l => l.pid == pid else (s.thread? w.id).any fun t => t.pid == pid

/-- The quantum entry under whose SAVE a partition's tenant is saved: that of its slice, where its TEN is the tenant, else the first valid one
that names the tenant. -/
def saveEntry (s : State) (part ten : Nat) : Nat :=
  if qTen s part (s.part part).entry = ten then (s.part part).entry
  else ((upTo 16).find? fun e => qValid s part e && qTen s part e == ten).getD (s.part part).entry

/-- What is saved is also written to the SAVE address of the quantum entry: the layout there is not given, and its bytes are free values (R343, R347;
log entry 64, DESIGN CHOICE). -/
def writeSaveArea (s : State) (part ten : Nat) : State :=
  let a := qSave s part (saveEntry s part ten)
  let n := Config.saveSize s.freeNext
  { s with hbm := s.hbm.forget a (a + n) s.freeNext, hbmPoison := unpoison s.hbmPoison a n, freeNext := s.freeNext + 1 }

/-- Is a pending step a message of the outgoing context that still travels on the request channel: an active message or a Crown pass message
(R341, R383). -/
def travels (s : State) (part : Nat) : Event → Bool
  | .activeMessage _ tid => (s.thread? tid).any (worldThread s part)
  | .crownPassMessage core _ _ class0 => !class0 && partOfCore s core == some part && (s.part part).holder.isSome
  | _ => false

/-- The partition that stops its outgoing context and whose holding buffers take a pending step out of the mesh (R341). -/
def holdingPart (s : State) (e : Event) : Option Nat := (s.parts.find? fun p => p.worldPhase == 1 && travels s p.part e).map (·.part)

/-- The outgoing context is saved (R342, R343): resident workspaces become images, the pools' bytes, the cores and the holding buffers go to
the save area, and what stays in the pools is undefined. -/
def worldSave (s : State) (part : Nat) : State :=
  let q := s.part part
  let cores := coresOf s part
  let rs := worldRanges s part
  match q.holder with
  | none => s.modPart part fun p => { p with worldPhase := 2 }
  | some pid =>
    let ts := s.allThreads.filter (worldThread s part)
    let res := (ts.filter fun t => t.img.isNone).map (·.tid)
    let s1 := cores.foldl (fun s c => dropScratch s ts c) s
    let ws := q.waiters.filter (waiterOf s pid)
    let sv : SavedCtx :=
      { part := part, tenant := tenantOf pid, pid := some pid, cores := cores.map fun c => (c, savedCore s1 (s1.core c))
        pool := cores.foldl (fun d c => copyRanges rs c d s1.pool) Memory.empty
        poolPoison := s1.poolPoison.filter (inRanges rs cores), residents := res, waiters := ws
        held := q.held ++ s1.agenda.filter (travels s1 part) }
    let s2 := ts.foldl (fun s t => if t.img.isSome then s else s.modThread t.tid fun t =>
      { t with
        img := some (Memory.empty.copyFrom 0 s.pool (poolKey t.core t.ring) (frameRing s t * 0x800))
        imgPoison := movedPoison s.poolPoison (poolKey t.core t.ring) [] 0 (frameRing s t * 0x800) }) s1
    let s3 := cores.foldl (fun s c => s.modCore c (leftCore s)) s2
    let s4 := cores.foldl (fun s c => rs.foldl (fun s r =>
      { s with pool := s.pool.forget (poolKey c r.1) (poolKey c r.2) s.freeNext, freeNext := s.freeNext + 1 }) s) s3
    { writeSaveArea s4 part (tenantOf pid) with
      poolPoison := s4.poolPoison.filter fun g => !inRanges rs cores g
      agenda := s4.agenda.filter fun e => !travels s1 part e
      saved := sv :: s4.saved }.modPart part fun p =>
        { p with
          worldPhase := 2, holder := none, held := [], waiters := p.waiters.filter fun w => !waiterOf s pid w
          taken := p.taken - entriesOf s part pid ws }

/-- The saved contents of a context come back to the cores of its partition (R343). -/
def bringBack (s : State) (part : Nat) (sv : SavedCtx) : State :=
  let rs := worldRanges s part
  let s1 := sv.cores.foldl (fun s c => s.modCore c.1 fun now => restoredCore c.2 now) s
  let s2 := { s1 with
    pool := sv.cores.foldl (fun d c => copyRanges rs c.1 d sv.pool) s1.pool
    poolPoison := sv.poolPoison ++ s1.poolPoison
    saved := s1.saved.filter fun x => !(x.part == part && x.pid == sv.pid) }
  sv.residents.foldl (fun s tid =>
    match s.thread? tid with
    | some t => bringIn s tid t.core t.ring
    | none => s) s2

/-- The lease record of a restored lessee takes this device's event-set version, 1. Where it held another, the tenant's filters of classes that
this device lacks are not attached, and their bits are set in DET (R323, R358, R359). -/
def leaseVersion (s : State) (pid : BitVec 16) : State :=
  let a := sysQ s (svcAt pid + 0x20)
  if a = 0 then s
  else if s.hbm.readNat (a + 2) 2 = 1 then s
  else
    let gone (f : MFilter) : Bool := f.tenant == tenantOf pid && decide (10 ≤ f.cls)
    let det := ((s.measure.flatMap (·.filters)).filter gone).foldl (fun v f => v ||| 2 ^ (f.idx % 16)) (s.hbm.readNat (a + 4) 2)
    { s with
      hbm := (s.hbm.writeNat (a + 2) 2 1).writeNat (a + 4) 2 det
      measure := s.measure.map fun m => { m with filters := m.filters.filter fun f => !gone f } }

/-- A held message is re-injected: its thread arrives (R343). -/
def reinject (s : State) : Event → State
  | .activeMessage core tid =>
    match s.thread? tid with
    | some t => messageArrives s t core
    | none => s
  | e => s.later [e]

/-- The restore of a WORLD switch is complete: the context holds the partition, its slice begins, the held messages arrive, its stopped
threads are ready and its engines go on (R343, R344, R349). A switch that was recorded for later is recorded again. -/
def worldRestore (s : State) (part : Nat) : State :=
  let q := s.part part
  match q.world with
  | none => s
  | some g =>
    if q.worldPhase ≠ 2 then s
    else
      let tenant := match g.lease with
        | some l => l.1
        | none => qTen s part g.ent
      let cyc := match g.lease with
        | some l => l.2
        | none => qCyc s part g.ent
      let leased := g.lease.isSome || qLease s part g.ent
      let sv := s.saved.find? fun x => x.part == part && x.tenant == tenant
      let pid := sv.bind (·.pid)
      let s1 := match sv with
        | some x => bringBack s part x
        | none => s
      let ws := (sv.map (·.waiters)).getD []
      let s2 := s1.modPart part fun p =>
        { p with
          holder := pid, world := p.next.head?, next := p.next.tail, worldPhase := 0, entry := if g.lease.isSome then p.entry else g.ent, tenant := some tenant
          leased := leased, sliceEnd := if p.class0On then none else some (s.ts + cyc), sliceLeft := if p.class0On then cyc else 0
          waiters := ws ++ p.waiters
          taken := p.taken + (match pid with
            | some x => entriesOf s1 part x ws
            | none => 0) }
      let s2 := (coresOf s2 part).foldl slotTables s2
      let s3 := match pid with
        | some x => if leased then leaseVersion s2 x else s2
        | none => s2
      let s3 := ((sv.map (·.held)).getD []).foldl reinject s3
      let s4 := (s3.allThreads.filter fun t => worldThread s3 part t && t.state == .preempted).foldl (fun s t => makeReady s t.tid) s3
      let s5 := (coresOf s4 part).foldl engineRestart s4
      let s6 := (s5.copies.filter fun r => r.part == part).foldl (fun s r => copyAfter s r.id) s5
      serve ((s6.sums.filter fun x => x.part == part).foldl (fun s x => sumAfter s x.id) s6) part

/-! ### The switches -/

/-- A leased entry begins: every other partition switches to its tenant at once, or as soon as a switch that is under way there is over (R358); the
switches recorded there follow. -/
def leaseAll (s : State) (part ten cyc : Nat) : State :=
  ((upTo 64).filter fun p => p != part && partConfigured s p).foldl (fun s p =>
    let g (q : PartSt) : GangReq := { ent := q.entry, tg := s.ts, lease := some (ten, cyc), afterReturn := false }
    if (s.part p).worldPhase = 0 then
      (s.modPart p fun q => { q with world := some (g q), next := q.world.toList ++ q.next }).once (.worldSwitch p)
    else s.modPart p fun q => { q with next := g q :: q.next }) s

/-- WORLD_SWITCH: at T_g the context's threads and engines begin to stop, unless the switch waits for RETURN; once all has stopped, the
context is saved (R341 to R343, R375). -/
def worldSwitch (s : State) (part : Nat) : State :=
  let q := s.part part
  match q.world with
  | none => s
  | some g =>
    if q.worldPhase = 0 then
      if g.afterReturn || decide (s.ts < g.tg) then s
      else
        let s1 := if g.lease.isNone && qLease s part g.ent then leaseAll s part (qTen s part g.ent) (qCyc s part g.ent) else s
        let s2 := (s1.allThreads.filter fun t => worldThread s1 part t && t.state == .running).foldl (fun s t =>
          s.modThread t.tid fun t => { t with turnsLeft := some 512 }) s1
        stopWaiters (s2.modPart part fun p => { p with worldPhase := 1, sliceEnd := none }) part
    else if q.worldPhase = 1 ∧ worldStopped s part then (worldSave s part).once (.worldRestore part)
    else s

/-- PREEMPT_TURN_LIMIT: before the bundle of its 512th turn the thread stops with the full mask (R342). -/
def turnLimit (s : State) (t : Thread) : State :=
  if t.state = .running ∧ (s.part t.part).worldPhase = 1 ∧ worldThread s t.part t ∧ !midBundle t then
    let s1 := s.modThread t.tid fun t => { t with lmask := 0xFFFFFFFF }
    match s1.thread? t.tid with
    | some u => leaveSlot s1 u .preempted
    | none => s1
  else s

/-- CLASS0_SWITCH: every core takes the class-0 template, and the slice's timer stands still (R345, R349). -/
def class0Switch (s : State) (part : Nat) : State :=
  let q := s.part part
  match q.class0 with
  | some (false, tg) =>
    if s.ts < tg then s
    else
      let s1 := s.modPart part fun p =>
        { p with
          class0 := none, class0On := true, sliceEnd := none, sliceLeft := match p.sliceEnd with
            | some e => e - s.ts
            | none => p.sliceLeft }
      (coresOf s part).foldl (fun s c => s.modCore c fun x => { x with tenantTable := some x.table, table := c0tbl s part }) s1
  | _ => s

/-- A WORLD switch that waits for RETURN takes effect at RETURN's T_g (R375). -/
def atReturn (tg : Nat) (g : GangReq) : GangReq := if g.afterReturn then { g with tg := tg, afterReturn := false } else g

/-- RETURN_SWITCH: the tenant's tables are back and its slice goes on; a WORLD switch that waited follows (R345, R349, R375). -/
def returnSwitch (s : State) (part : Nat) : State :=
  let q := s.part part
  match q.class0 with
  | some (true, tg) =>
    if s.ts < tg then s
    else
      let s1 := s.modPart part fun p =>
        { p with
          class0 := none, class0On := false, sliceLeft := 0, world := p.world.map (atReturn tg), next := p.next.map (atReturn tg)
          sliceEnd := if p.tenant.isSome && p.worldPhase == 0 then some (s.ts + p.sliceLeft) else none }
      let s2 := (coresOf s part).foldl (fun s c => s.modCore c fun x => { x with table := x.tenantTable.getD x.table, tenantTable := none }) s1
      if (s1.part part).world.any fun g => decide (g.tg ≤ s.ts) then s2.once (.worldSwitch part) else s2
  | _ => s

/-- The next valid entry after one, in index order, wrapping at 16 (R349). -/
def nextEntry (s : State) (part e : Nat) : Option Nat := ((upFrom (e + 1) 16).map (· % 16)).find? (qValid s part)

/-- Does a slice's end come before the WORLD switch that is recorded: there is none, or its T_g is later, or it waits for RETURN. -/
def sliceFirst (q : PartSt) (e : Nat) : Bool := q.worldPhase == 0 && q.world.all fun g => g.afterReturn || decide (e < g.tg)

/-- QUANTUM_SLICE_END: the device switches to the next valid entry, with T_g the slice's end, unless a WORLD switch that is recorded comes
first; a later one follows the switch (R349). -/
def sliceEnds (s : State) (part : Nat) : State :=
  let q := s.part part
  match q.sliceEnd, nextEntry s part q.entry with
  | some e, some n =>
    if s.ts < e ∨ !sliceFirst q e then s
    else
      (s.modPart part fun p =>
        { p with
          world := some { ent := n, tg := e, lease := none, afterReturn := false }, next := p.world.toList ++ p.next
          sliceEnd := none }).once (.worldSwitch part)
  | _, _ => s

/-- GANG (R341, R349, R360, R375). -/
def execGang (d : BitVec 5) (b : BitVec 5) (g : BitVec 4) (s : State) : Result :=
  .next (guarded g s fun s => gang s d (rX s b) (getX s (b.toNat + 1)))

/-- WORLD_SWITCH (R341 to R344, R358, R375). -/
def execWorldSwitch (part : Nat) (s : State) : Result :=
  .next (worldSwitch s part)

/-- PREEMPT_TURN_LIMIT (R342). -/
def execPreemptTurnLimit (tid : Nat) (s : State) : Result :=
  match s.thread? tid with
  | none => .next s
  | some t => .next (turnLimit s t)

/-- WORLD_RESTORE (R343, R344, R349, R359). -/
def execWorldRestore (part : Nat) (s : State) : Result :=
  .next (worldRestore s part)

/-- CLASS0_SWITCH (R345, R346, R348, R349, R377). -/
def execClass0Switch (part : Nat) (s : State) : Result :=
  .next (class0Switch s part)

/-- RETURN_SWITCH (R345, R349, R360, R375). -/
def execReturnSwitch (part : Nat) (s : State) : Result :=
  .next (returnSwitch s part)

/-- QUANTUM_SLICE_END (R349, R358). -/
def execQuantumSliceEnd (part : Nat) (s : State) : Result :=
  .next (sliceEnds s part)

end Sys2Proof.Machine
end

