-- ==== Sys2Proof/Machine/Seam.lean ====
section
/-!
DEFINITION. Seam tables (06 R145 to R151; 07 R163, R164; 08 R193).
-/
namespace Sys2Proof.Machine

/-- State words of a MEET with a mask (R147), from before the bundle. -/
def seamWords (s : State) (mask : Nat) : List W64 :=
  (s.cur.pc + 8) :: BitVec.ofNat 64 ((rcur s).grps.toNat % 2 ^ 36 + bits (getSt s 0x180 4) 1 7 * 2 ^ 40) ::
    ((upTo 32).filter fun i => bitAt mask i).map (getX s)

/-- Hash of the state words (R147). -/
def seamHash (l : List W64) : Nat :=
  (l.foldl (fun h (w : W64) => mix (mix (h ^^^ w.setWidth 32) ^^^ (w >>> 32).setWidth 32)) (0 : W32)).toNat

/-- Is a place a frame of another package. -/
def remotePlace : Loc → Bool
  | .mem pa => isRemote pa
  | _ => false

/-- MEET at its issue (R163): the pointer's checks, the deadline from the timestamp of the issue; then the arrival travels. `n` is the
timeout. The bundle does not complete before the seam unit has answered. -/
def meet (s : State) (tbl : W64) (mask : Nat) (n : Option W64) : State :=
  notReserved s fun s =>
    if pathOf tbl ≠ 0 then trap s cADDR tbl
    else withPlaces s .load 8 [] [tbl] fun s ls =>
      if ls.any remotePlace then trap s cPROT tbl
      else
      let dln : Nat := match n with
        | none => 2 ^ 64 - 1
        | some v => Nat.min (2 ^ 64 - 1) (tsOf s s.cur.core + v.toNat)
      let k := wsKey s.cur
      let r : SeamReq :=
        { tbl := tbl, words := seamWords s mask, dln := BitVec.ofNat 64 dln, undo := Memory.empty.copyFrom k s.pool k 0x800
          undoPoison := s.poolPoison.filter fun g => decide (k ≤ 8 * g ∧ 8 * g < k + 0x800), draw := s.cur.draw }
      (s.later [.seamArrival s.cur.tid]).modCur fun t => { t with npc := t.pc, seam := some r }

/-! ### The seam unit -/

/-- The workspace of a MEET as before its bundle. -/
def undoMeet (s : State) (r : SeamReq) : State :=
  let k := wsKey s.cur
  { s with
    pool := s.pool.copyFrom k r.undo k 0x800
    poolPoison := (s.poolPoison.filter fun g => ¬ (k ≤ 8 * g ∧ 8 * g < k + 0x800)) ++
      r.undoPoison.filter fun g => decide (k ≤ 8 * g ∧ 8 * g < k + 0x800)
    cur := { s.cur with draw := r.draw, seam := none } }

/-- The MEET bundle traps at its arrival, with no effect (R148). -/
def meetTraps (s : State) (t : Thread) (r : SeamReq) (cause : Nat) : State :=
  onThread s t.tid fun s => trap (undoMeet s r) cause r.tbl

/-- A page of the table does not translate: the thread is suspended at its MEET bundle (R331). -/
def meetFaults (s : State) (t : Thread) (r : SeamReq) (f : Nat × Nat) : State :=
  onThread s t.tid fun s => suspendFault (undoMeet s r) f.1 2 0 (BitVec.ofNat 64 f.2) 0 s.cur.pc

/-- Add to a counter of the header (R146), mod 2^32. -/
def seamAdd (s : State) (pid : BitVec 16) (tbl off d : Nat) : State :=
  ctxPut s pid (tbl + off) 4 ((ctxNat s pid (tbl + off) 4 + d) % 2 ^ 32)

/-- The SW fields of a header as a round takes them (R146). The launch whose closing group closes the round is that of the arrival that opens it
(log entry 127, DESIGN CHOICE). -/
def roundOf (hdr : List Byte) (pid : BitVec 16) (tbl : W64) (launch : Nat) : SeamRound :=
  { pid := pid, tbl := tbl, base := BitVec.ofNat 64 (fieldOf hdr 0 8), cap := fieldOf hdr 8 4, k := fieldOf hdr 0xC 1
    flg := fieldOf hdr 0xD 1, grp := fieldOf hdr 0xE 1, launch := launch }

/-- Is a number a power of two from 1 to 2^20. -/
def powerOfTwo (n : Nat) : Bool := (upTo 21).any fun i => n == 2 ^ i

/-- Address of an entry. -/
def entryAddr (r : SeamRound) (i : Nat) : Nat := addrOf r.base + i * (32 + 8 * r.k)

/-- The entries of a list of indices, each with its bytes. -/
def readEntries (s : State) (r : SeamRound) : List Nat → Except (Nat × Nat) (List (Nat × List Byte))
  | [] => .ok []
  | i :: rest =>
    match ctxRead s r.pid (entryAddr r i) (32 + 8 * r.k) with
    | .error f => .error f
    | .ok b =>
      match readEntries s r rest with
      | .error f => .error f
      | .ok l => .ok ((i, b) :: l)

/-- The thread goes on after its MEET, not suspended: MPASS 1, NPAS counted, nothing else (R148). -/
def meetPasses (s : State) (t : Thread) (q : SeamReq) : State :=
  let (v, s0) := freshValue s 4
  let s1 := seamAdd (tapThread s0 t 2 [3, q.tbl.toNat, v, 0]) t.pid (addrOf q.tbl) 0x20 1
  let s2 := tput s1 t.tid 0x180 4 (setBits (tget s1 t 0x180 4) 10 1 1)
  s2.modThread t.tid fun t => { t with pc := t.pc + 8, npc := t.pc + 8, wait := none, seam := none }

/-- The thread leaves its slot in state SEAM, to go on at PC + 8 with MPASS 0 (R148). -/
def meetSuspends (s : State) (t : Thread) : State :=
  let s1 := tput s t.tid 0x180 4 (setBits (tget s t 0x180 4) 10 1 0)
  settle (s1.modThread t.tid fun t =>
    { t with state := .seam, pc := t.pc + 8, npc := t.pc + 8, wait := none, seam := none, idleTs := s.ts }) t.tid

/-- After an insertion: NARR counted, then C(g) falls for each group, and rounds may close (R145, R148, R149). -/
def meetCounted (s : State) (t : Thread) (q : SeamReq) : State :=
  let s1 := changeC (seamAdd s t.pid (addrOf q.tbl) 0x18 1) t (· - t.mcnt.toNat)
  closeRounds s1 t.lnch (groupsOf t)

/-- A MEET that allocates or merges is a release at `.dev` (R233): no party but the units of seams sees what its arrival writes before the accesses of
its thread that are still in flight have been performed. -/
def openMeet (s : State) (t : Thread) (spans : List (Nat × Nat)) : State :=
  let waits := unperformed s t.tid s.nextId
  if waits.isEmpty then s
  else
    { s with opens := (spans.flatMap fun x => (pageParts 3 x.1 x.2).filterMap fun q =>
        match deviceAddr s t.pid (q.1 % 2 ^ 57) false with
        | .ok pa => some { tid := t.tid, core := t.core, scope := 4, loc := .mem pa, n := q.2, waits := waits, meet := true : OpenRelease }
        | .error _ => none) ++ openReleases s }

/-- A merge into an entry (R148, R150). -/
def meetMerges (s : State) (t : Thread) (q : SeamReq) (rd : SeamRound) (i : Nat) (b : List Byte) : State :=
  let a := entryAddr rd i
  let m := fieldOf b 4 4 + t.mcnt.toNat
  let s1 := ctxPut (ctxPut s t.pid (a + 4) 4 m) t.pid (a + 0x18) 8 (Nat.min (fieldOf b 0x18 8) q.dln.toNat)
  let old := s.threadOfRecord? t.pid (BitVec.ofNat 64 (fieldOf b 0x10 8))
  let tapped (s : State) (gone : Nat) : State := tapThread s t 2 [1, q.tbl.toNat, m, gone]
  let s3 :=
    if t.unitid.toNat < fieldOf b 8 4 then
      let s2 := openMeet (ctxPut (ctxPut s1 t.pid (a + 8) 4 t.unitid.toNat) t.pid (a + 0x10) 8 t.recd.toNat) t
        [(a, 32 + 8 * rd.k), (addrOf q.tbl + 0x18, 8)]
      let s3 := meetSuspends (tapped s2 (fieldOf b 8 4)) t
      match old with
      | some u => removeThread s3 u.tid
      | none => s3
    else removeThread (tapped s1 t.unitid.toNat) t.tid
  meetCounted (seamAdd s3 t.pid (addrOf q.tbl) 0x1C 1) t q

/-- An entry taken (R147, R148). -/
def meetAllocates (s : State) (t : Thread) (q : SeamReq) (rd : SeamRound) (i h : Nat) (ws : List W64) : State :=
  let ent := leBytes 4 h ++ leBytes 4 t.mcnt.toNat ++ leBytes 4 t.unitid.toNat ++ leBytes 4 1 ++ leBytes 8 t.recd.toNat ++
    leBytes 8 q.dln.toNat ++ ws.flatMap fun w => leBytes 8 w.toNat
  match ctxWrite s t.pid (entryAddr rd i) ent with
  | .error f => meetFaults s t q f
  | .ok s1 =>
    let s2 := openMeet (seamAdd (tapThread s1 t 2 [0, q.tbl.toNat, t.mcnt.toNat, 0]) t.pid (addrOf q.tbl) 0x14 1) t
      [(entryAddr rd i, ent.length), (addrOf q.tbl + 0x14, 8)]
    meetCounted (meetSuspends s2 t) t q

/-- A MEET that allocates or merges is a release (R233), and a fence or an acquire of the thread holds it back as it holds a store (R247, R248);
one that passes is not. It waits for none of the accesses of its thread (`openMeet`). Where it merges, the survivor acquires what the freed thread did: while an access of that thread is not performed, the
arrival has not reached the seam unit (log entry 20, DEDUCED). The same while an access of the arriving thread waits for another release. -/
def releaseWaits (s : State) (t : Thread) (freed : Option Nat) : Bool :=
  heldBackOf s t true false || (s.accesses.any fun b => b.tid == t.tid && !b.early && heldByRelease s b.tid b.core b.todo) || freed.any fun u => !(unperformed s u s.nextId).isEmpty

/-- The thread that a merge into an entry frees (R148). -/
def mergeFrees (s : State) (t : Thread) (b : List Byte) : Option Nat :=
  if t.unitid.toNat < fieldOf b 8 4 then (s.threadOfRecord? t.pid (BitVec.ofNat 64 (fieldOf b 0x10 8))).map (·.tid) else some t.tid

/-- The seam unit compares an arrival with the entries of its probe set (R147, R148). A soft error in the comparators turns the outcome of
a comparison round (R401). -/
def meetCompares (s0 : State) (t : Thread) (q : SeamReq) (rd : SeamRound) : State :=
  let (upset, s) := takeUpset s0 fun u => if u = .seam then some true else none
  let ws := q.words ++ List.replicate (rd.k - q.words.length) 0
  let h := seamHash ws
  match readEntries s rd ((upTo (Nat.min 8 rd.cap)).map fun i => (h + i) % rd.cap) with
  | .error f => meetFaults s t q f
  | .ok es =>
    let equal (e : Nat × List Byte) : Bool :=
      fieldOf e.2 0xC 4 == 1 && (fieldOf e.2 0 4 == h && e.2.drop 0x20 == ws.flatMap fun w => leBytes 8 w.toNat) != upset.getD false
    let fits (e : Nat × List Byte) : Bool := decide (fieldOf e.2 4 4 + t.mcnt.toNat ≤ 2 ^ 32 - 1)
    let same := if bitAt rd.flg 0 then [] else es.filter equal
    match same.find? fits with
    | some e => if releaseWaits s t (mergeFrees s t e.2) then s0.later [.seamArrival t.tid] else meetMerges s t q rd e.1 e.2
    | none =>
      if !same.isEmpty then meetPasses s t q
      else
        match es.find? fun e => fieldOf e.2 0xC 4 == 0 with
        | some e => if releaseWaits s t none then s0.later [.seamArrival t.tid] else meetAllocates s t q rd e.1 h ws
        | none => meetPasses s t q

/-- The seam unit handles an arrival by the first row of R148 that applies, under the fields of the round it opens or joins. Reserved bits of the
header that are not zero change nothing (R5; log entry 110, DESIGN CHOICE). -/
def seamArrives (s : State) (t : Thread) (q : SeamReq) : State :=
  if nopenOf s t ≠ 0 then meetTraps s t q cMEETWIN
  else
    match ctxRead s t.pid (addrOf q.tbl) 64 with
    | .error f => meetFaults s t q f
    | .ok hdr =>
      let rest := s.seams.filter fun r => !(r.pid == t.pid && r.tbl == q.tbl)
      let fresh := roundOf hdr t.pid q.tbl t.lnch
      let rd := if fieldOf hdr 0x14 4 = 0 then fresh
        else (s.seams.find? fun r => r.pid == t.pid && r.tbl == q.tbl).getD fresh
      if !(groupsOf t).contains rd.grp || !powerOfTwo rd.cap || decide (rd.k < 2 ∨ 32 < rd.k) then meetTraps s t q cILLEG
      else
        let s1 := { s with seams := rest ++ [rd] }
        if isPinned s t || decide (rd.k < q.words.length) then meetPasses s1 t q else meetCompares s1 t q rd

/-- Release an entry (R149, R150, R193): C rises, the continuation takes the entry's MCNT and is ready at W0, the entry reads zero. The
event's bundle is the MEET, and the entry is free after it (R315). Where the entry's page cannot be written it keeps its bytes (log entry 115,
DESIGN CHOICE). -/
def releaseEntry (s : State) (r : SeamRound) (i : Nat) (b : List Byte) : State :=
  let m := fieldOf b 4 4
  let s1 :=
    match s.threadOfRecord? r.pid (BitVec.ofNat 64 (fieldOf b 0x10 8)) with
    | none => s
    | some t =>
      let s1 := changeC (tapThread s { t with pc := t.pc - 8 } 2 [2, r.tbl.toNat, 0, 0]) t (· + m)
      let w0 : W64 := BitVec.ofNat 64 (fieldOf b 0x20 8)
      let s2 := tput (s1.modThread t.tid fun t => { t with mcnt := BitVec.ofNat 32 m, pc := w0, npc := w0 }) t.tid 0x18C 4 m
      saveRecord (makeReady s2 t.tid) t.tid
  match ctxWrite s1 r.pid (entryAddr r i) (List.replicate (32 + 8 * r.k) 0) with
  | .ok s2 => s2
  | .error _ => s1

/-- The held entries of a round, by index. One whose page does not translate is passed over (log entry 115, DESIGN CHOICE). -/
def heldEntries (s : State) (r : SeamRound) : List (Nat × List Byte) :=
  (upTo r.cap).filterMap fun i =>
    match ctxRead s r.pid (entryAddr r i) (32 + 8 * r.k) with
    | .ok b => if fieldOf b 0xC 4 = 1 then some (i, b) else none
    | .error _ => none

/-- A round closes once its closing group has no member outside a seam and entries are held (R149, R151): the entries are released by
ascending REP, then index. Where two tables with one closing group are both due, the releases of the first raise C, and the other waits (R192; log
entry 114, DESIGN CHOICE). -/
def roundCloses (s : State) (r : SeamRound) : State :=
  if countC s r.launch r.grp ≠ 0 ∨ ctxNat s r.pid (addrOf r.tbl + 0x14) 4 = 0 then s
  else
    let before (a b : Nat × List Byte) : Bool :=
      if fieldOf a.2 8 4 = fieldOf b.2 8 4 then decide (a.1 ≤ b.1) else decide (fieldOf a.2 8 4 < fieldOf b.2 8 4)
    let s1 := ((heldEntries s r).mergeSort before).foldl (fun s e => releaseEntry s r e.1 e.2) s
    let s2 := ctxPut (seamAdd s1 r.pid (addrOf r.tbl) 0x10 1) r.pid (addrOf r.tbl + 0x14) 4 0
    { s2 with seams := s2.seams.filter fun x => !(x.pid == r.pid && x.tbl == r.tbl) }

/-- The timestamp that an entry's deadline is held to: the counter of its thread's die (R150, R385; log entry 98, DESIGN CHOICE). -/
def entryTs (s : State) (r : SeamRound) (b : List Byte) : Nat :=
  ((s.threadOfRecord? r.pid (BitVec.ofNat 64 (fieldOf b 0x10 8))).map fun t => tsOf s t.core).getD s.ts

/-- One entry is released at its deadline; a round without entries left ends with no close (R150). -/
def deadlineReleases (s : State) (r : SeamRound) (i : Nat) : State :=
  match ctxRead s r.pid (entryAddr r i) (32 + 8 * r.k) with
  | .error _ => s
  | .ok b =>
    if fieldOf b 0xC 4 ≠ 1 ∨ entryTs s r b < fieldOf b 0x18 8 ∨ fieldOf b 0x18 8 = 2 ^ 64 - 1 then s
    else
      let s1 := seamAdd (releaseEntry s r i b) r.pid (addrOf r.tbl) 0x14 (2 ^ 32 - 1)
      if ctxNat s1 r.pid (addrOf r.tbl + 0x14) 4 = 0 then
        { s1 with seams := s1.seams.filter fun x => !(x.pid == r.pid && x.tbl == r.tbl) }
      else s1

/-- The round of a table. -/
def roundAt (s : State) (pid : BitVec 16) (tbl : W64) : Option SeamRound :=
  s.seams.find? fun r => r.pid == pid && r.tbl == tbl

/-- MEET (R148, R163). -/
def execMeet (b : BitVec 5) (m : BitVec 10) (g : BitVec 4) (s : State) : Result :=
  .next (guarded g s fun s => meet s (rX s b) (2 * m.toNat) none)

/-- MEET_T (R148, R150, R163). -/
def execMeetT (a : BitVec 5) (b : BitVec 5) (m : BitVec 10) (g : BitVec 4) (s : State) : Result :=
  .next (guarded g s fun s => meet s (rX s b) (2 * m.toNat) (some (rX s a)))

/-- MEET_LONG (R148, R163). -/
def execMeetLong (a : BitVec 5) (b : BitVec 5) (ext : W32) (g : BitVec 4) (s : State) : Result :=
  .next (guarded g s fun s => meet s (rX s b) ext.toNat (if a = 0 then none else some (rX s a)))

/-- SEAM_ARRIVAL (R145 to R148). -/
def execSeamArrival (tid : Nat) (s : State) : Result :=
  match s.thread? tid with
  | none => .next s
  | some t =>
    match t.seam with
    | none => .next s
    | some q => .next (seamArrives s t q)

/-- SEAM_ROUND_CLOSE (R149, R151, R192). -/
def execSeamRoundClose (pid : BitVec 16) (tbl : W64) (s : State) : Result :=
  .next (match roundAt s pid tbl with
    | none => s
    | some r => roundCloses s r)

/-- SEAM_DEADLINE_RELEASE (R150). -/
def execSeamDeadlineRelease (pid : BitVec 16) (tbl : W64) (idx : Nat) (s : State) : Result :=
  .next (match roundAt s pid tbl with
    | none => s
    | some r => deadlineReleases s r idx)

end Sys2Proof.Machine
end

