-- ==== Sys2Proof/Machine/System.lean ====
section
/-!
DEFINITION. System instructions (20 R361 to R374) and the steps they begin.
-/
namespace Sys2Proof.Machine

/-! ### Special registers (R11, R365) -/

/-- A special register, zero-extended from its width. -/
def readSr (s : State) (n : Nat) : W64 :=
  let t := rcur s
  match n with
  | 0x00 => t.mcnt.setWidth 64
  | 0x01 => t.unitid.setWidth 64
  | 0x02 => t.unitidx
  | 0x03 => t.grps
  | 0x04 => BitVec.ofNat 64 (coreField t.core)
  | 0x05 => BitVec.ofNat 64 t.slot
  | 0x06 => t.pid.setWidth 64
  | 0x07 => locPtr t.wp
  | 0x08 => BitVec.ofNat 64 (getSt s 0x1D8 8)
  | 0x09 => BitVec.ofNat 64 (getSt s 0x198 8)
  | 0x0A => BitVec.ofNat 64 (getSt s 0x1A8 8)
  | 0x0B => BitVec.ofNat 64 (getSt s 0x1A0 8)
  | 0x0C => BitVec.ofNat 64 (getSt s 0x184 4)
  | 0x0D => BitVec.ofNat 64 (fmode s)
  | 0x0E => BitVec.ofNat 64 (getSt s 0x1D0 8)
  | 0x0F => t.wincur.setWidth 64
  | 0x10 => BitVec.ofNat 64 (countGet (s.core t.core).slotSeq t.slot)
  | _ => BitVec.ofNat 64 t.part

/-- RDSR: TVEC needs supervisor level. -/
def rdsr (s : State) (d : BitVec 5) (n : Nat) : State := needLevel (if n = 0x08 then 1 else 0) s fun s => wX s d (readSr s n)

/-- Does WRSR refuse a value (R10, R365). -/
def srRefuses (n : Nat) (v : W64) : Bool :=
  match n with
  | 0x08 => bits v.toNat 0 3 != 0 || bits v.toNat 57 7 != 0
  | 0x09 => bits v.toNat 10 54 != 0
  | 0x0C => bits v.toNat 5 59 != 0
  | 0x0D => bits v.toNat 10 54 != 0 || (rmOf (bits v.toNat 0 3)).isNone
  | _ => false

/-- Write a special register; a new SRSEED restarts the draws (R34). -/
def writeSr (s : State) (n : Nat) (v : W64) : State :=
  match n with
  | 0x08 => setSt s 0x1D8 8 v.toNat
  | 0x09 => setSt s 0x198 8 v.toNat
  | 0x0A => setSt s 0x1A8 8 v.toNat
  | 0x0B => setSt s 0x1A0 8 v.toNat
  | 0x0C => setSt s 0x184 4 v.toNat
  | 0x0D => setSt s 0x188 4 v.toNat
  | 0x0E => (setSt s 0x1D0 8 v.toNat).modCur fun t => { t with draw := 0 }
  | _ => s

/-- WRSR: PRIV before the value's ILLEG (R61, R365). -/
def wrsr (s : State) (n : Nat) (v : W64) : State :=
  needLevel (if n < 0x0C then 1 else 0) s fun s =>
    if srRefuses n v then trap s cILLEG (bundleNow s) else writeSr s n v

/-! ### SWAPWP (R366) -/

/-- SWAPWP. In the ring it enters the words of x0 read as zero (R7), and bit 0 of STAT as p0, which is true (R9). -/
def swapwp (s : State) (d : BitVec 5) (w : W64) : State :=
  needLevel 1 s fun s =>
    let a := w.toNat % 2 ^ 20
    let r := ownRegions s s.cur
    let last := a + (frameRing s s.cur - 1) * 0x800
    if bits w.toNat 60 4 ≠ 2 ∨ bits w.toNat 57 3 ≠ 0 ∨ bits w.toNat 20 37 ≠ 0 then trap s cADDR w
    else if a % 0x800 ≠ 0 then trap s cALIGN w
    else if r.wsHi ≤ last ∨ a < r.wsLo then trap s cPROT w
    else if s.cur.depth ≠ 0 ∨ nopen s ≠ 0 ∨ s.pool.readNat (poolKey s.cur.core a + 0x193) 1 ≠ 0 then trap s cILLEG (bundleNow s)
    else
      let s1 := s.modCur fun t => { t with wp := a, ring := a, spilled := 0 }
      let k := poolKey s.cur.core a
      let s2 := putPool (fixRing s1 k (frameRing s s.cur)) (k + 0x18C) 4 s.cur.mcnt.toNat
      if d = 0 then s2 else putPool s2 (k + 8 * d.toNat) 8 (locPtr s.cur.wp).toNat

/-! ### LIVE (R367, R368) -/

/-- A poisoned literal or descriptor takes POISON, as a poisoned bundle does (R331); so does one that a dead link does not let through, and one
behind a link that retrains waits (R391). -/
def livePoison (s : State) (ls : List Loc) (k : State → State) : State :=
  whenReachable s ls fun s =>
    if ls.any fun l => poisonedLoc s l 8 || cutOff s (dieOf s.cur.core) l then trap s cPOISON s.cur.pc else k s

/-- The new block mask, which the continuation's record shows from the next bundle on (R126, R367). -/
def declareMask (s : State) (m : Nat) : State :=
  let s1 := s.modCur fun t => { t with lmask := BitVec.ofNat 32 m ||| 0xC0 }
  match recordAddr s1 s1.cur with
  | none => s1
  | some pa => { s1 with hbm := s1.hbm.writeNat (pa + 0x10) 4 s1.cur.lmask.toNat }

/-- LIVE.P: the literal is read as an instruction fetch. -/
def liveP (s : State) (o : BitVec 11) : State :=
  let p := s.cur.pc + sextN o.toNat 11 * 8
  withPlaces s .fetch 8 [] [p] fun s ls => livePoison s ls fun s =>
    let v := leNat (readLoc s (ls.headD .dropped) 8)
    if 2 ^ 32 ≤ v then trap s cILLEG (BitVec.ofNat 64 v)
    else declareMask s v

/-- The first extent of a list that a LIVE.D refuses, with the cause and the value of its trap (R368). -/
def badExtent (s : State) : List Nat → Option (Nat × W64)
  | [] => none
  | e :: rest =>
    let off := bits e 0 20
    let len := bits e 32 32
    let r := ownRegions s s.cur
    if off % 64 ≠ 0 ∨ len % 64 ≠ 0 then some (cALIGN, locPtr off)
    else if len ≠ 0 ∧ !within off len r.spLo r.spHi then some (cPROT, locPtr off)
    else badExtent s rest

/-- Dwords of a LIVE.D descriptor: loads, each made once no earlier store of the thread is outstanding to its bytes. -/
def liveRead (s : State) (ptrs : List W64) (k : State → List Nat → State) : State :=
  withPlaces s .load 8 [] ptrs fun s ls =>
    if notYet s ((ptrs.zip ls).map fun p => { ptr := p.1, loc := p.2, n := 8, data := [] }) then retry s
    else livePoison s ls fun s => k s (ls.map fun l => leNat (readLoc s l 8))

/-- LIVE.D: the mask and NEXT are read, then the extents that NEXT counts, and no other (R368). -/
def liveD (s : State) (p : W64) : State :=
  if pathOf p ≠ 0 ∧ pathOf p ≠ 2 then trap s cADDR p
  else
    match rangeCause s s.cur .load p 40 8 with
    | some c => trap s c p
    | none =>
      unheld s false false fun s => liveRead s [p] fun s h =>
        let n := h.headD 0 / 2 ^ 32
        if 4 < n then trap s cILLEG (bundleNow s)
        else
          liveRead s ((upTo n).map fun i => p + BitVec.ofNat 64 (8 * (i + 1))) fun s es =>
            if es.any fun e => bits e 20 12 != 0 then trap s cILLEG (bundleNow s)
            else
              match badExtent s es with
              | some (c, v) => trap s c v
              | none => (declareMask s (h.headD 0 % 2 ^ 32)).modCur fun t => { t with
                extents := some ((es.map fun e => (bits e 0 20, bits e 32 32)).filter fun e => e.2 != 0) }

/-! ### SLOTW (R370) -/

/-- SLOTW: the table takes effect at the first multiple of 32 that is 32 cycles ahead or more. -/
def slotw (s : State) (a b : W64) : State :=
  needLevel 1 s fun s =>
    let c := (tsOf s s.cur.core + 63) / 32 * 32
    let tbl : BitVec 128 := BitVec.ofNat 128 (a.toNat + b.toNat * 2 ^ 64)
    s.modCore s.cur.core fun k => { k with newTables := k.newTables.filter (fun n => n.2 ≠ c) ++ [(tbl, c)] }

/-! ### Time and counters (R371, R372) -/

/-- A counter. -/
def counter (s : State) (n : Nat) : W64 :=
  match n with
  | 0 => BitVec.ofNat 64 (((s.vcyc.find? fun v => v.1 == s.cur.pid).map (·.2)).getD 0)
  | 1 => s.cur.ibnd
  | 2 => s.cur.forf
  | 3 => s.cur.memw
  | 4 => s.cur.msgw
  | _ => s.cur.qpsh

/-! ### STINV (R208, R373) -/

/-- Does a page of `n` bytes at `va` meet a range. -/
def inRange (va n lo hi : Nat) : Bool := decide (va < hi ∧ lo < va + n)

/-- The cached translations of an identifier that meet a range, as ranges of addresses. -/
def cachedSpans (s : State) (pid : BitVec 16) (lo hi : Nat) : List (Nat × Nat) :=
  ((s.tlb.filter fun e => e.pid == pid).map fun e => (e.vpn * 2 ^ (12 + 9 * e.level), (e.vpn + 1) * 2 ^ (12 + 9 * e.level))).filter fun r =>
    inRange r.1 (r.2 - r.1) lo hi

/-- The cached translations and read-only lines of a range are dropped at every station and buffer. -/
def dropCached (s : State) (pid : BitVec 16) (lo hi : Nat) : State :=
  { s with
    tlb := s.tlb.filter fun e => !(e.pid == pid && inRange (e.vpn * 2 ^ (12 + 9 * e.level)) (2 ^ (12 + 9 * e.level)) lo hi)
    ro := s.ro.filter fun l => !(l.pid == pid && inRange (128 * l.line) 128 lo hi) }

/-- The invalidation proper begins once the accesses of its thread that are older have been performed: the entries of the range are dropped. One
of a free identifier is complete at once (R373). -/
def invalBegins (s : State) (v : Inval) : State :=
  if v.begun.isSome ∨ unperformed s v.tid v.id ≠ [] then s
  else
    let put (s : State) (first : Nat) (spans : List (Nat × Nat)) : State :=
      { s with invals := s.invals.map fun x => if x.id = v.id then { x with begun := some first, spans := spans } else x }
    if cstate s v.pid = 0 then put s 0 []
    else dropCached (put s s.nextId ((v.lo, v.hi) :: cachedSpans s v.pid v.lo v.hi)) v.pid v.lo v.hi

/-- Have the accesses that a dropped entry may have translated been performed: those older than the drop to an address of such an entry, and the
packets of copies that are older. -/
def invalDone (s : State) (v : Inval) : Bool :=
  match v.begun with
  | none => false
  | some first =>
    (s.accesses.all fun a => decide (first ≤ a.id) || a.pid != v.pid ||
        !(a.todo.any fun p => !([2, 3, 5, 6, 7].contains (pathOf p.ptr)) && v.spans.any fun r => inRange (addrOf p.ptr) p.n r.1 r.2)) &&
      s.copies.all fun r => decide (first ≤ r.id) || r.cmd.pid != v.pid || r.packets.isEmpty

/-- STINV of a range: it begins at its first issue and the bundle waits for its completion (R361); earlier accesses of the thread are ordered
before the invalidation (R373). -/
def stinv (s : State) (x : W64) (lo hi : Nat) : State :=
  needLevel 1 s fun s =>
    if resumed s then s
    else if bits x.toNat 16 48 ≠ 0 then trap s cILLEG (bundleNow s)
    else
      let pid : BitVec 16 := x.setWidth 16
      if cstate s pid = 0 ∧ unperformed s s.cur.tid s.nextId = [] then s
      else
        let v : Inval := { id := s.nextId, tid := s.cur.tid, pid := pid, lo := lo, hi := hi, begun := none, spans := [] }
        stall (invalBegins { s with nextId := s.nextId + 1, invals := s.invals ++ [v] } v) (.stinv v.id)

/-- The invalidation is complete: what was cached meanwhile under an older walk is dropped, and the bundle completes (R208). -/
def stinvEnds (s0 : State) (v : Inval) : State :=
  let s := if v.spans.isEmpty then s0 else dropCached s0 v.pid v.lo v.hi
  wakeThread (({ s with invals := s.invals.filter fun x => x.id ≠ v.id } : State).modThread v.tid fun t =>
    { t with wait := if t.wait = some (.stinv v.id) then some .released else t.wait }) v.tid

/-! ### KILL (R374) -/

/-- The identifiers that a KILL or a KILL.T names. -/
def killNames (tenant : Bool) (x : W64) : List (BitVec 16) :=
  if tenant then (upTo 256).map fun i => BitVec.ofNat 16 (x.toNat % 2 ^ 16 + i) else [x.setWidth 16]

/-- KILL and KILL.T. One whose identifiers an earlier one is killing waits for that one (R374). -/
def kill (s : State) (d : BitVec 5) (x : W64) (tenant : Bool) : State :=
  needLevel (if tenant then 2 else 1) s fun s =>
    if resumed s then wX (s.modCur fun t => { t with answer := [] }) d (BitVec.ofNat 64 (s.cur.answer.headD 0))
    else if bits x.toNat 16 48 ≠ 0 ∨ (tenant ∧ bits x.toNat 0 8 ≠ 0) then trap s cILLEG (bundleNow s)
    else
      let names := killNames tenant x
      let busy (p : BitVec 16) : Bool := s.kills.any fun k => k.pids.contains p
      if names.contains s.cur.pid then wX s d 2
      else if names.all fun p => cstate s p == 0 && !busy p then wX s d 1
      else
        match s.kills.find? fun k => names.all fun p => k.pids.contains p with
        | some k => (stall s (.kill k.id)).modCur fun t => { t with answer := [1] }
        | none =>
          let r := startKill s names (if tenant then some (bits x.toNat 8 8) else none)
          (stall r.1 (.kill r.2)).modCur fun t => { t with answer := [0] }

/-- TRAP (R21, R22, R363). -/
def execTrap (i : BitVec 11) (g : BitVec 4) (s : State) : Result :=
  .next (guarded g s fun s => trap s cTRAP (BitVec.ofNat 64 i.toNat))

/-- BRK (R331, R352, R363). -/
def execBrk (i : BitVec 11) (g : BitVec 4) (s : State) : Result :=
  .next (guarded g s fun s => breakOr s cBRK 15 0 (BitVec.ofNat 64 i.toNat))

/-- RETT (R336, R364). -/
def execRett (g : BitVec 4) (s : State) : Result :=
  .next (guarded g s fun s => needLevel 1 s returnFromTrap)

/-- RDSR (R11, R365). -/
def execRdsr (d : BitVec 5) (s : BitVec 11) (g : BitVec 4) (st : State) : Result :=
  .next (guarded g st fun st => rdsr st d s.toNat)

/-- WRSR (R10, R11, R365). -/
def execWrsr (b : BitVec 5) (s : BitVec 11) (g : BitVec 4) (st : State) : Result :=
  .next (guarded g st fun st => wrsr st s.toNat (rX st b))

/-- SWAPWP (R366). -/
def execSwapwp (d : BitVec 5) (b : BitVec 5) (g : BitVec 4) (s : State) : Result :=
  .next (guarded g s fun s => swapwp s d (rX s b))

/-- LIVE_P (R339, R367). -/
def execLiveP (o : BitVec 11) (g : BitVec 4) (s : State) : Result :=
  .next (guarded g s fun s => liveP s o)

/-- LIVE_D (R339, R367, R368). -/
def execLiveD (b : BitVec 5) (g : BitVec 4) (s : State) : Result :=
  .next (guarded g s fun s => liveD s (rX s b))

/-- SLOTW (R122, R370). -/
def execSlotw (a : BitVec 5) (b : BitVec 5) (g : BitVec 4) (s : State) : Result :=
  .next (guarded g s fun s => slotw s (rX s a) (rX s b))

/-- SLOT_TABLE_UPDATE (R122, R370, R377). -/
def execSlotTableUpdate (core : Nat) (s : State) : Result :=
  .next (slotTables s core)

/-- STINV (R208, R361, R373). -/
def execStinv (a : BitVec 5) (b : BitVec 5) (k : BitVec 6) (g : BitVec 4) (s : State) : Result :=
  .next (guarded g s fun s =>
    let lo := bits (rX s b).toNat 12 45 / 2 ^ k.toNat * 2 ^ (k.toNat + 12)
    stinv s (rX s a) lo (lo + 2 ^ (k.toNat + 12)))

/-- STINV_ALL (R208, R361, R373). -/
def execStinvAll (a : BitVec 5) (g : BitVec 4) (s : State) : Result :=
  .next (guarded g s fun s => stinv s (rX s a) 0 (2 ^ 57))

/-- STINV_COMPLETION (R208, R231, R373). -/
def execStinvCompletion (id : Nat) (s : State) : Result :=
  match s.invals.find? fun v => v.id == id with
  | none => .next s
  | some v => .next (if invalDone s v then stinvEnds s v else s)

/-- STATION_REVOKE_ACK (R210, R397). -/
def execStationRevokeAck (station : Nat) (pid : BitVec 16) (s : State) : Result :=
  .next (stationAck s station pid)

/-- KILL (R351, R361, R374). -/
def execKill (d : BitVec 5) (b : BitVec 5) (g : BitVec 4) (s : State) : Result :=
  .next (guarded g s fun s => kill s d (rX s b) false)

/-- KILL_T (R351, R361, R374, R397). -/
def execKillT (d : BitVec 5) (b : BitVec 5) (g : BitVec 4) (s : State) : Result :=
  .next (guarded g s fun s => kill s d (rX s b) true)

/-- KILL_COMPLETION (R351, R374, R377, R397). -/
def execKillCompletion (id : Nat) (s : State) : Result :=
  match s.kills.find? fun k => k.id == id with
  | none => .next s
  | some k => .next (if killDone s k then killEnds s k else s)

/-- RDTS (R371). -/
def execRdts (d : BitVec 5) (g : BitVec 4) (s : State) : Result :=
  .next (guarded g s fun s => wX s d (BitVec.ofNat 64 (tsOf s s.cur.core)))

/-- RDCTR (R350, R372). -/
def execRdctr (d : BitVec 5) (n : BitVec 8) (g : BitVec 4) (s : State) : Result :=
  .next (guarded g s fun s => wX s d (counter s n.toNat))

/-- RDCTR_LO (R350, R372). -/
def execRdctrLo (d : BitVec 5) (n : BitVec 8) (g : BitVec 4) (s : State) : Result :=
  .next (guarded g s fun s =>
    let v := counter s n.toNat
    wX (s.modCur fun t => { t with latch := some (n.toNat, (v >>> 32).setWidth 32) }) d ((v.setWidth 32 : W32).setWidth 64))

/-- RDCTR_HI (R350, R372). -/
def execRdctrHi (d : BitVec 5) (n : BitVec 8) (g : BitVec 4) (s : State) : Result :=
  .next (guarded g s fun s =>
    wX s d (match s.cur.latch with
      | some (m, v) => if m = n.toNat then v.setWidth 64 else counter s n.toNat >>> 32
      | none => counter s n.toNat >>> 32))

/-- ILLEG (R50, R60, R331, R362). -/
def execIlleg (bundle : W64) (s : State) : Result :=
  .next (trap s cILLEG bundle)

end Sys2Proof.Machine
end

