-- ==== Sys2Proof/Machine/Cycle.lean ====
section
/-!
DEFINITION. The cycle of a core and of the package: a thread's turn (6 R122 to R128), running its bundle (1 R14, 3 R49), what falls due, and the order of steps.
-/
namespace Sys2Proof.Machine

/-! ### Waiting threads (R123, R127, R167, R270) -/

/-- Is a thread's bundle in the hands of another unit: it is not tried again before that unit answers. -/
def waitHeld : Option Wait → Bool
  | some .walk => true
  | some .seamAnswer => true
  | some (.append _) => true
  | some (.literal _) => true
  | some (.stinv _) => true
  | some (.kill _) => true
  | some (.crown _ _) => true
  | some (.pool _ _) => true
  | _ => false

/-- The class of R124 of a cycle whose thread does not issue: 1 on memory, 2 on a message. -/
def notReadyClass (s : State) (t : Thread) : Nat :=
  match t.wait with
  | none => 1
  | some .walk => 1
  | some (.append _) => 1
  | some (.literal _) => 1
  | some .released => 1
  | some (.counts _ _ cp tl) => if engineCountsMet s t cp tl then 1 else 2
  | _ => 2

/-! ### Counting a cycle (R124, R315, R353, R372) -/

/-- A cycle of a slot is counted in its class: in the core's histogram, in the thread's counters, and at the Measure tap. -/
def countCycle (s : State) (core slot cls : Nat) (t : Option Thread) : State :=
  let s1 := if (holderOf s core).isSome || isCtl core then
      s.modCore core fun c => { c with hist := countMod c.hist (4 * slot + cls) (· + 1) }
    else s
  match t with
  | some t =>
    let s2 := s1.modThread t.tid fun t =>
      { t with memw := if cls = 1 then t.memw + 1 else t.memw, msgw := if cls = 2 then t.msgw + 1 else t.msgw }
    tapThread s2 t 0 [cls, tsOf s core % 32, 0, 0]
  | none =>
    match holderOf s core with
    | some p => tapEvent s1 core slot (tenantOf p) 0 0 0 0 [cls, tsOf s core % 32, 0, 0]
    | none => s1

/-! ### A thread's turn -/

/-- Fetch the bundle at the PC (R14, R195, R331, R356, R391): it stands in `issue`, or the thread has trapped, stopped or waits. -/
def fetch (s : State) : State :=
  let pc := s.cur.pc
  if bits pc.toNat 57 7 ≠ 0 then trap s cADDR pc
  else
    withPlaces s .fetch 8 [] [pc] fun s ls =>
      whenReachable s ls fun s =>
      if poisonedLoc s (ls.headD .dropped) 8 || cutOff s (dieOf s.cur.core) (ls.headD .dropped) then trap s cPOISON pc
      else { s with issue := some (BitVec.ofNat 64 (leNat (readLoc s (ls.headD .dropped) 8))) }

/-- A bundle that has begun and waits is not fetched again. -/
def fetchAgain (s : State) : State :=
  match s.cur.fetched with
  | some (pc, w) => if pc = s.cur.pc ∧ midBundle s.cur then { s with issue := some w } else fetch s
  | none => fetch s

/-- The bundle of a word pair, none where it takes ILLEG (R50, R60, R164). -/
noncomputable def bundleOf (w : W64) : Option Bundle :=
  match decodeBundle w with
  | .ok b => if conflicts b then none else some b
  | .error _ => none

/-- Must a fetched bundle stand back: a register is pending or too new (R123). -/
noncomputable def standsBack (s : State) (w : W64) : Bool :=
  match bundleOf w with
  | some b => bundlePending s b || bundleSpaced s b
  | none => false

/-- The meaning of an instruction, as the runner is given it. -/
abbrev Meaning := Instr → State → Result

/-- Does an instruction only trap: it then starts nothing. -/
noncomputable def onlyTraps (ex : Meaning) (s : State) (i : Instr) : Bool :=
  match ex i { s with cur := { s.cur with npc := s.cur.pc + 8 }, pre := none, flow := .done } with
  | .next s1 => (match s1.flow with
    | .trapped .. => true
    | _ => false)
  | _ => false

/-- Would the fetched bundle start what a WORLD switch under way no longer lets start (R379). An instruction that only traps starts nothing. -/
noncomputable def startsLate (ex : Meaning) (s : State) (w : W64) : Bool :=
  (s.part s.cur.part).worldPhase == 1 && worldThread s s.cur.part s.cur && !resumed s &&
    (match bundleOf w with
      | some b => (bundleInstrs b).any fun i => guardTrue s i && startsWork s i && !onlyTraps ex s i
      | none => false)

/-- The element stores of a VAPPEND that the fault service has sent on (R254): they are made before the next bundle. -/
def resumeStores (s : State) : State :=
  let t := s.cur
  finishBundle (elementStores t.heldStores [] []
    { s with cur := { t with pc := t.pc - 8, npc := t.pc, heldStores := [] }, pre := none, flow := .done })

/-- The turn of the thread in a slot: what comes before its next bundle, then the bundle is fetched and stands in
`issue` for the step to run where it is ready. A turn that ends in a stop, a trap that was pending, an ASYNC or stores that wait too long counts as class
2, and one that ends in a fault or a trap of the fetch as class 1 (log entry 119, DESIGN CHOICE). -/
def threadTurn (s0 : State) (core slot : Nat) (t0 : Thread) : State :=
  let count (s : State) (cls : Nat) : State := countCycle s core slot cls (some t0)
  let s := switchTo s0 t0.tid
  let t := s.cur
  if t.state ≠ .running ∨ (isClass0 s t ∧ !(s.part t.part).class0On) then count s (notReadyClass s t)
  else if t.stopNext ∧ !midBundle t then stopThread (count s 2) t.tid
  else if t.turnsLeft.any (· ≤ 1) ∧ !midBundle t then (count s 2).once (.preemptTurnLimit t.tid)
  else
    let s1 := s.modCur fun t => { t with turnsLeft := t.turnsLeft.map (· - 1) }
    if t.forfeit ≠ 0 then
      (count s1 1).modThread t.tid fun t => { t with forfeit := t.forfeit - 1, forf := t.forf + 1 }
    else if waitHeld t.wait then count s1 (notReadyClass s t)
    else if t.trapNext.isSome then
      let v := t.trapNext.getD (0, 0)
      let s2 : State := { s1 with cur := { s1.cur with npc := t.pc, trapNext := none, heldStores := [] }, pre := none, flow := .done }
      count (finishBundle (if v.1 = cWATCHED then breakOr s2 cWATCH (kindCode .store) (pathOf v.2) v.2 else trap s2 v.1 v.2)) 2
    else if asyncDue s1 t then (count s1 2).once (.async t.tid)
    else if t.heldStores.any fun x => elementsLate s1 x.1 then leaveSlot (count s1 2) s1.cur .preempted
    else if !t.heldStores.isEmpty then count (resumeStores s1) 1
    else
      let f := fetchAgain { s1 with cur := { s1.cur with npc := t.pc }, pre := none, flow := .done, issue := none }
      if f.issue.isSome then f
      else count (finishBundle (if f.flow = .stalled then f else backOut f t)) 1

/-- ARITHMETIC_CYCLE of a core (R122, R124, R128): the entry of TS names a slot, whose thread has its turn; a vacant ordinary slot is
filled, if something waits for it. -/
def cycle (s : State) (core : Nat) : State :=
  let slot := tableSlot (s.core core).table (tsOf s core % 32)
  match slotThread s core slot with
  | some t => threadTurn s core slot t
  | none =>
    let s1 := countCycle s core slot 3 none
    let waits (t : Thread) : Bool := canRun s t && (match t.place with
      | .pinned c => c == core
      | .fifo c => c == core
      | .spool n => (partOfCore s core).any fun p => (spoolsOf s p).contains n
      | .nowhere => false)
    if slotVacant s core slot && s.allThreads.any waits then s1.once (.slotFill core slot) else s1

/-! ### Running the issued bundle -/


/-- Carry on with a next state. -/
def andThen (r : Result) (k : State → Result) : Result :=
  match r with
  | .next s => k s
  | r => r

/-- Is a word a WRSR to SRSEED that takes effect (R50). -/
def seeds (s : State) : Instr → Bool
  | .wrsr _ n g => n.toNat == 0x0E && guardOn s g
  | _ => false

/-- One word runs: POISON comes before what it would do, unless its bundle has begun (R61, R400). `orig` is the state before the bundle. -/
def runWord (ex : Meaning) (orig : State) (i : Instr) (s : State) : Result :=
  match (if midBundle orig.cur then none else poisonedRead orig i) with
  | some off => .next (trap s cPOISON (BitVec.ofNat 64 off))
  | none => ex i s

/-- The words of a bundle: word 1 reads what stood before the bundle (R49), and runs where word 0 has had its effect. Where word 0
waits in another unit or has arrived at a barrier, a trap of word 1 comes first, since the bundle then has no effect (R14). In a ring of one frame, CALL and RET
put another frame where word 1 writes, so that its effect comes before theirs, which read what stood before it (R17, R20, R50). -/
def runWords (ex : Meaning) (b : Bundle) (s : State) : Result :=
  match b with
  | .long c => runWord ex s c s
  | .pair c a =>
    let before : Pre := { pool := s.pool, poison := s.poolPoison, cur := s.cur, seeded := seeds s c }
    andThen (runWord ex s c s) fun s1 =>
      let second (s2 : State) : Result := runWord ex s a { s2 with pre := some before }
      if s1.flow = .done ∧ !(carriedRegs c).isEmpty ∧ frameRing s s.cur = 1 then
        andThen (second s) fun s2 => if s2.flow = .done then ex c s2 else .next s2
      else if s1.flow = .done then second s1
      else if s1.flow = .stalled ∧ (midBundle s1.cur ∨ waitsPast s1.cur) then
        andThen (second s) fun s2 =>
          match s2.flow with
          | .trapped c v f => .next { s2 with flow := .trapped c v f }
          | _ => .next s1
      else .next s1

/-- A trap of either word leaves no effect of the bundle (R14), and no forfeited turn of it (log entry 103, DESIGN CHOICE); a thread that
waited for pool entries gives them back, and one that waited in BARG has not arrived (R168, R170). -/
def preciseTrap (orig s1 : State) : State :=
  match s1.flow with
  | .trapped c v f => takeTrap (backOut { orig with pre := none } orig.cur) c v f
  | _ => s1

/-- One run of a bundle in the order of R61: ILLEG, PRIV of a word, or its words. -/
noncomputable def runOnce (ex : Meaning) (w : W64) (ob : Option Bundle) (s : State) : Result :=
  match ob with
  | none => andThen (ex (.illeg w) s) fun s1 => .next (preciseTrap s s1)
  | some b =>
    if (bundleInstrs b).any (abovePriv s) then .next (preciseTrap s (trap s cPRIV w))
    else andThen (runWords ex b s) fun s1 => .next (preciseTrap s s1)

/-- Has the run issued its bundle for good: it is done, or has trapped, or its effect has begun in another unit. -/
def commits (s1 : State) : Bool :=
  match s1.flow with
  | .done => true
  | .trapped c _ _ => c != cLOGFULL
  | .stalled => midBundle s1.cur
  | .suspended => false

/-- What a bundle comes to in debug-log mode, where it has been run from the state with its marker and registers appended: room is taken for all its
entries together, so that a shortage, or a fault of the log area, leaves none of them (R215). -/
def allOrNone (s s3 : State) : State :=
  match s3.flow with
  | .trapped c _ _ => if c = cLOGFULL then preciseTrap s s3 else s3
  | .suspended =>
    { s with
      agenda := s.agenda ++ s3.agenda.drop s.agenda.length, flow := .suspended
      cur := { s.cur with state := s3.cur.state, npc := s3.cur.npc, lastFault := s3.cur.lastFault, wait := s3.cur.wait } }
  | _ => s3

/-- In debug-log mode an issued bundle first appends its marker and registers (R214, R355): once it is known to issue, it is run from
the state with them appended. -/
noncomputable def runLogged (ex : Meaning) (w : W64) (ob : Option Bundle) (s : State) : Result :=
  andThen (runOnce ex w ob s) fun s1 =>
    if dlogOf s s.cur && !resumed s && commits s1 then
      let b := ob.getD (.long (.cNop 8))
      let s2 := logged s (fun s => debugEntries s b) fun s _ => s
      match s2.flow with
      | .done => andThen (runOnce ex w ob s2) fun s3 => .next (allOrNone s s3)
      | _ => .next s2
    else .next s1

/-- What an issued bundle leaves to do: the taps and counters of its cycle, the spacing of its results, a STEP that has run out
(R352), and the stop at a LIVE of a WORLD switch (R342). A bundle that suspends its thread counts as issued too (log entry 133, DESIGN CHOICE). -/
def afterBundle (s0 s1 : State) (w : W64) (ob : Option Bundle) : State :=
  let t0 := s0.cur
  let ran : Bool := match s1.flow with
    | .done => true
    | .trapped _ _ _ => true
    | _ => false
  let issued : Bool := ran || s1.flow = .suspended
  let cls := if issued then 0 else notReadyClass s1 s1.cur
  let s2 := if s1.flow = .done then noteWrites s1 (wsKey t0) (match ob with
      | some (.pair c a) => if guardTrue s0 c then (if guardTrue s0 a then .pair c a else .long c) else .long (if guardTrue s0 a then a else .cNop 8)
      | some (.long c) => .long (if guardTrue s0 c then c else .cNop 8)
      | none => .long (.cNop 8)) else s1
  let s3 := countCycle (finishBundle (s2.modCur fun t =>
    { t with ibnd := if issued then t.ibnd + 1 else t.ibnd, fetched := if ran then none else some (t0.pc, w) })) t0.core t0.slot cls (some t0)
  let s4 := if issued then tapThread s3 t0 1 [(word0 w).toNat, (word1 w).toNat, 0, 0] else s3
  let live : Bool := match ob with
    | some b => (bundleInstrs b).any fun i => isLive i && guardTrue s0 i
    | none => false
  match s4.thread? t0.tid with
  | none => s4
  | some t =>
    let s5 := if ran then s4.modThread t.tid fun t => { t with stepsLeft := t.stepsLeft.map (· - 1) } else s4
    if ran && t.stepsLeft.any (· ≤ 1) then stopThread (s5.modThread t.tid fun t => { t with stepsLeft := none }) t.tid
    else if s1.flow = .done ∧ live ∧ t.state = .running ∧ (s5.part t.part).worldPhase = 1 ∧ worldThread s5 t.part t then leaveSlot s5 t .preempted
    else s5

/-- Run the bundle that stands in `issue`, for the current thread. -/
noncomputable def runIssued (ex : Meaning) (w : W64) (s : State) : Result :=
  let s0 : State := { s with cur := { s.cur with npc := s.cur.pc + 8 }, pre := none, flow := .done }
  andThen (runLogged ex w (bundleOf w) s0) fun s1 => .next (afterBundle s0 s1 w (bundleOf w))

/-- Issue a fetched bundle, if it is ready: it stands back while a register is pending or too new (R123), and the thread stops where it
would start what the partition's switch no longer lets start (R379). -/
noncomputable def issueBundle (ex : Meaning) (w : W64) (s : State) : Result :=
  let t := s.cur
  if standsBack s w then .next (countCycle { s with issue := none } t.core t.slot 1 (some t))
  else if startsLate ex s w then .next (leaveSlot (countCycle { s with issue := none } t.core t.slot 2 (some t)) t .preempted)
  else runIssued ex w s

/-- A BARW or BARG that has waited 64 cycles in its slot has issued: the other word of its pair runs before the thread leaves the slot (R49,
R167, R168). A trap of that word takes the arrival back. -/
noncomputable def beforeTimeout (ex : Meaning) (e : Event) (s : State) : Result :=
  match e with
  | .slotWaitTimeout tid =>
    match s.thread? tid with
    | none => .next s
    | some t =>
      if t.state = .running ∧ waitsPast t ∧ !waitOver s t ∧ t.waitFrom + 64 ≤ s.ts then
        match t.fetched.bind fun f => bundleOf f.2 with
        | some b =>
          let s1 := switchTo s tid
          let s2 : State := { s1 with cur := { s1.cur with npc := t.pc + 8 }, pre := none, flow := .done, issue := t.fetched.map (·.2) }
          let s3 := if dlogOf s2 s2.cur then logged s2 (fun s => debugEntries s b) fun s _ => s else s2
          let ends (x : State) : State := match x.flow with
            | .trapped c v f => finishBundle (takeTrap (backOut s2 t) c v f)
            | _ => finishBundle (backOut x t)
          let goOn (x : State) : State := { x with cur := { x.cur with npc := t.pc }, pre := none, flow := .done, issue := none }
          match s3.flow, b with
          | .done, .pair _ a =>
            andThen (runWord ex s3 a { s3 with pre := some { pool := s3.pool, poison := s3.poolPoison, cur := s3.cur, seeded := false } }) fun s4 =>
              .next (if s4.flow = .done then goOn (if guardTrue s3 a then noteWrites s4 (wsKey t) (.long a) else s4) else ends s4)
          | .done, .long _ => .next (goOn s3)
          | _, _ => .next (ends s3)
        | none => .next s
      else .next s
  | _ => .next s

/-! ### What falls due with a cycle -/

/-- Steps of the cores' slot tables and of held seam entries that are due (R122, R150). -/
def dueTables (s : State) : List Event :=
  ((s.cores.filter fun c => c.2.newTables.any fun n => decide (n.2 ≤ tsOf s c.1)).map fun c => .slotTableUpdate c.1) ++
    s.seams.flatMap fun r => ((heldEntries s r).filter fun e => decide (fieldOf e.2 0x18 8 ≤ entryTs s r e.2)).map fun e =>
      .seamDeadlineRelease r.pid r.tbl e.1

/-- Steps of threads that are due: ageing in a spool (R140), the end of a wait in a slot (R167, R270), a recheck of CRTAKE (R393). -/
def dueThreads (s : State) : List Event :=
  s.allThreads.flatMap fun t =>
    (if spooled t.place ∧ t.enqTs < s.ts ∧ (s.ts - t.enqTs) % 2 ^ 16 = 0 then [Event.spoolKeyAging t.tid] else []) ++
    (if t.state = .running && waitSuspends s t && decide (t.waitFrom + 64 ≤ s.ts) then [.slotWaitTimeout t.tid] else []) ++
    (match t.wait with
      | some (.crown _ at') => if at' ≤ s.ts ∧ mayRun s t then [.crtakeRecheck t.tid] else []
      | _ => [])

/-- Steps of the partitions' switches that are due (R341, R345, R349). -/
def dueSwitches (s : State) : List Event :=
  s.parts.flatMap fun p =>
    (match p.world with
      | some g =>
        if (p.worldPhase = 0 ∧ g.tg ≤ s.ts ∧ !g.afterReturn) ∨ (p.worldPhase = 1 ∧ worldStopped s p.part)
          then [Event.worldSwitch p.part] else []
      | none => []) ++
    (match p.class0 with
      | some (false, tg) => if tg ≤ s.ts then [.class0Switch p.part] else []
      | some (true, tg) => if tg ≤ s.ts then [.returnSwitch p.part] else []
      | none => []) ++
    (match p.sliceEnd with
      | some e => if e ≤ s.ts ∧ sliceFirst p e ∧ (nextEntry s p.part p.entry).isSome then [.quantumSliceEnd p.part] else []
      | none => [])

/-- Steps of the Measure engines and of the power controller that are due (R315, R317, R415). -/
def dueWindows (s : State) : List Event :=
  (if s.ts % 1250 = 0 then (if s.measure.isEmpty then [Event.budgetWindow 0] else s.measure.map fun m => .budgetWindow m.cluster) else []) ++
    (if s.ts % 256 = 0 then s.measure.map fun m => .routerSample m.cluster else []) ++
    ((s.measure.filter fun m => (!m.fifo.isEmpty || m.now.isSome) && decide (m.busy ≤ s.ts)).map fun m => .filterRun m.cluster) ++
    (if s.ts % 2 ^ 16 = 0 then [.powerWindow (Config.averagePower (s.ts / 2 ^ 16))] else [])

/-- VCYC of each context that holds a partition (R372), and C0CY of a lease while class 0 runs in its slice (R358). -/
def countHolders (s : State) : State :=
  let held := (s.parts.filter fun p => p.worldPhase == 0).filterMap (·.holder)
  let pids := held.foldl (fun acc p => if acc.contains p then acc else acc ++ [p]) []
  let s1 := pids.foldl (fun s pid =>
    let n := ((s.vcyc.find? fun v => v.1 == pid).map (·.2)).getD 0
    { s with vcyc := (pid, (n + 1) % 2 ^ 64) :: s.vcyc.filter fun v => v.1 ≠ pid }) s
  (s.parts.filter fun p => p.leased && p.class0On).foldl (fun s p =>
    match p.holder with
    | some pid =>
      let a := sysQ s (svcAt pid + 0x20)
      if a = 0 then s
      else { s with hbm := s.hbm.writeNat (a + 8) 8 (s.hbm.readNat (a + 8) 8 + 1), hbmPoison := unpoison s.hbmPoison (a + 8) 8 }
    | none => s) s1

/-- Handlers that are ready go on in their reserved slots, once their earlier accesses have been performed (R223, R290). -/
def resumeHandlers (s : State) : State :=
  (s.allThreads.filter fun t => t.handler.isSome && canRun s t).foldl (fun s t =>
    saveRecord (s.modThread t.tid fun t => { t with state := .running, npc := t.pc, waitFrom := s.ts }) t.tid) s

/-- What threads and units look for at each cycle: waits that are over, handlers that go on, commands whose pushes are released, threads to
retire once drained, KILLs, and invalidations. A suspended thread whose context is switched out stays as it is (R342). -/
def lookAround (s : State) : State :=
  let s0 := (s.allThreads.filter fun t => t.state == .waiting && mayRun s t && waitOver s t).foldl (fun s t => makeReady s t.tid) s
  let s1 := kickReleased (resumeHandlers s0)
  let s2 := (s1.allThreads.filter fun t => t.retireNext && drained s1 t && !(s1.kills.any fun k => k.pids.contains t.pid)).foldl
    (fun s t => retireThread s t) s1
  let s3 := s2.kills.foldl killProgress s2
  let s4 := s3.invals.foldl invalBegins s3
  (s4.invals.filter (invalDone s4)).foldl (fun s v => s.once (.stinvCompletion v.id)) s4

/-- The cores that have a cycle: those of the partitions that are held or have threads, once the compute dies are released (R409, R412), and control
cores with threads. -/
def cyclingCores (s : State) : List Nat :=
  let ps := (upTo 64).filter fun p => (s.part p).holder.isSome || s.allThreads.any fun t => !isCtl t.core && t.part == p
  (if bootPast s 0x10 then ps.flatMap (coresOf s) else []) ++ (upFrom ctlCore0 32).filter fun c => s.allThreads.any fun t => t.core == c

/-- The next cycle begins (R1, R122): the timestamp rises, what is due is put among the pending steps, and each core has its turn. -/
def tick (s : State) : State :=
  let s1 := lookAround (countHolders (upsetStep { s with ts := s.ts + 1 }))
  let s2 := (dueTables s1 ++ dueThreads s1 ++ dueSwitches s1 ++ dueWindows s1 ++ dueMxu s1).foldl (fun s e => s.once e) s1
  { s2 with turns := cyclingCores s2 }

/-! ### The machine's choice of what happens next -/

/-- What keeps two pending steps in the order in which they were sent: a channel between two routers (R383, R384), the notifications of one
context (R333), the tap of one Measure engine (R316), the requests of one requester behind the root ports (R404), and the packets of a copy to one router: a core's, or those of the stacks whose bytes they hold
(R202, R384). -/
inductive Channel where
  | message (class0 : Bool) (src dst : Nat)
  | notice (pid : BitVec 16)
  | tap (cluster : Nat)
  | packets (copy dest : Nat) (homes : List Nat)
  | requester (rid : BitVec 16)
  deriving DecidableEq, Repr

/-- The stacks in whose granules the bytes lie that a packet has still to write (R202). -/
def packetStacks (k : Packet) : List Nat :=
  k.parts.foldl (fun l x => match x.1 with
    | .mem pa => if l.contains (stackOf pa) then l else l ++ [stackOf pa]
    | _ => l) []

/-- The channel of a pending step, if it has one. -/
def channelOf (s : State) : Event → Option Channel
  | .activeMessage core tid => (s.thread? tid).map fun t => .message (isClass0 s t) t.sender (routerOf core)
  | .crownPassMessage core _ src c0 => some (.message c0 src (clusterOf core))
  | .faultNotification pid _ _ _ _ => some (.notice pid)
  | .measureEvent cluster _ _ => some (.tap cluster)
  | .inboundRequest rid _ _ _ _ => some (.requester rid)
  | .copyPacket id num => (s.copy? id).bind fun r => (r.packets.find? fun k => k.num == num).map fun k => .packets id k.dest (packetStacks k)
  | _ => none

/-- Is a pending step one whose moment the spec fixes, so that nothing else happens before it: a round that closes with C at zero (R192), a slot
table, a switch, a window of a budget or of the power, a deadline of a held entry, an end of a wait or a fall of a key that is due in this cycle, and the
chunks that have become ready in order (R122, R140, R150, R167, R270, R288, R317, R341, R345, R349, R370, R415). -/
def urgent : Event → Bool
  | .seamRoundClose _ _ | .seamDeadlineRelease _ _ _ | .slotTableUpdate _ | .worldSwitch _ | .class0Switch _ | .returnSwitch _ | .quantumSliceEnd _ | .budgetWindow _
  | .slotWaitTimeout _ | .landingHandlerStart _ | .spoolKeyAging _ | .powerWindow _ => true
  | _ => false

/-- The engines that a pending step is one of: the least scope whose instance includes each, with a core of its cluster or its die; the units of die K
lie in no instance below `.dev` (R219). -/
def engineCores (s : State) : Event → List (Nat × Nat)
  | .mxuTile c | .mxuDrain c | .mxuCtx c | .mxuStep c | .mxuRowDrain c | .load c | .snap c => [(2, c)]
  | .colsum c => [(3, c)]
  | .copy c => (copyHead s c).toList.flatMap (streamerOf s c) ++ (unread s c).flatMap fun r => streamerOf s c r.cmd
  | .copyPacket id _ | .copyBarrierArrival id _ => (s.copy? id).toList.flatMap fun r => streamerOf s r.core r.cmd
  | .columnSumAdd id _ | .colsumLanding id => (s.sum? id).toList.flatMap fun x => x.parts'.map fun p => (3, p.1)
  | .pageWalk tid _ _ => (s.thread? tid).toList.map fun t => (if isCtl t.core then 4 else 3, t.core)
  | .seamArrival tid =>
    (s.thread? tid).toList.flatMap fun t => t.seam.toList.flatMap fun q => (unitCore s t.pid (addrOf q.tbl)).map fun k => (3, k)
  | .seamRoundClose pid tbl | .seamDeadlineRelease pid tbl _ => (unitCore s pid (addrOf tbl)).map fun k => (3, k)
  | _ => []

/-- The links that retrain and touch a die, or lead out of the package. -/
def dieLinks (s : State) (die : Nat) : List Link :=
  s.linksWait.filter fun l => match l with
    | .hem e => (hemDies e).contains die
    | .stitch _ => true

/-- Does a pending step wait for a link that retrains on its way. An engine that reads, a walk and a seam unit wait for every link of their die (R391; log
entry 34, DESIGN CHOICE). -/
def linkHeld (s : State) (e : Event) : Bool :=
  if s.linksWait.isEmpty then false
  else
    match e with
    | .activeMessage core tid => (s.thread? tid).any fun t => (messageRoute t core).any (s.linksWait.contains ·)
    | .crownPassMessage core _ src _ => (hemRoute (if ctlCore0 ≤ src then 4 else src / 256) (dieOf core)).any (s.linksWait.contains ·)
    | .copyPacket id num =>
      (s.copy? id).any fun r => r.packets.any fun k => k.num == num && k.parts.any fun x => linkBusy s (streamDie s r.core r.cmd) x.1
    | .columnSumAdd id _ | .colsumLanding id => (s.sum? id).any fun x => (sumRoute x).any (s.linksWait.contains ·)
    | e => (engineCores s e).any fun c => !(dieLinks s (dieOf c.2)).isEmpty

/-- Is a pending step one of a seam's unit. -/
def seamStep : Event → Bool
  | .seamArrival _ | .seamRoundClose _ _ | .seamDeadlineRelease _ _ _ => true
  | _ => false

/-- Does a pending step wait: for a link, or since a release whose scope's instance includes its engine has left, and it would see it before what the
release follows (R219, R233, R236). -/
def stepHeld (s : State) (e : Event) : Bool :=
  linkHeld s e || (engineCores s e).any fun c => (openReleases s).any fun o =>
    !(o.meet && seamStep e) && decide (c.1 ≤ o.scope) && inInstance o.scope o.core c.2

/-- What the machine does next: take a pending step, give a core its cycle, or begin the next cycle. A step whose moment is fixed comes first
(`urgent`), and steps of one channel keep their order. For the rest the order is open; the list `sched` holds the choices, 0 for a core or the next
cycle and k + 1 for the k-th pending step, and where it is used up the oldest pending step comes first (log entry 38, DESIGN CHOICE). -/
inductive Choice where
  | event (e : Event) (rest : List Event) (sched : List Nat)
  | core (c : Nat) (rest : List Nat) (sched : List Nat)
  | tick (sched : List Nat)
  deriving DecidableEq, Repr

/-- A list without the element at an index. -/
def dropAt {α : Type} : List α → Nat → List α
  | [], _ => []
  | _ :: rest, 0 => rest
  | x :: rest, n + 1 => x :: dropAt rest n

/-- The index of the pending step that is taken where that of index `i` is chosen: the oldest of its channel. -/
def inOrder (s : State) (es : List Event) (i : Nat) : Nat :=
  match es[i]? with
  | none => i
  | some e =>
    match channelOf s e with
    | none => i
    | some c => (es.findIdx? fun x => channelOf s x == some c).getD i

/-- The choice in a state. -/
def nextChoice (s : State) : Choice :=
  let taken (es : List Event) (e : Event) (i : Nat) (sched : List Nat) : Choice := .event (es.getD i e) (dropAt es i) sched
  let onCore (sched : List Nat) : Choice :=
    match s.turns with
    | c :: rest => .core c rest sched
    | [] => .tick sched
  match s.agenda, (s.agenda.findIdx? fun e => urgent e && !stepHeld s e), s.sched with
  | [], _, sc => onCore sc.tail
  | e :: rest, some i, sc => taken (e :: rest) e i sc
  | e :: rest, none, [] => .event e rest []
  | _ :: _, none, 0 :: sc => onCore sc
  | e :: rest, none, (k + 1) :: sc => taken (e :: rest) e (inOrder s (e :: rest) (k % (rest.length + 1))) sc

/-- A pending step that waits goes behind the others, with those of its channel after it. -/
def requeue (s : State) (e : Event) (rest : List Event) : List Event :=
  match channelOf s e with
  | none => rest ++ [e]
  | some c => rest.filter (fun x => channelOf s x != some c) ++ e :: rest.filter fun x => channelOf s x == some c

/-- One step, with the instructions' meanings and the rows of the pending steps given. -/
noncomputable def stepWith (ex : Meaning) (s : State) : Result :=
  match nextChoice s with
  | .event e rest sc =>
    if stepHeld s e then .next { s with agenda := requeue s e rest, sched := sc }
    else if let some p := holdingPart s e then .next ({ s with agenda := rest, sched := sc }.modPart p fun q => { q with held := q.held ++ [e] })
    else andThen (beforeTimeout ex e { s with agenda := rest, sched := sc }) fun s1 => ex (eventInstr e) s1
  | .core c rest sc =>
    andThen (ex (.arithmeticCycle c) { s with turns := rest, sched := sc, issue := none }) fun s1 =>
      match s1.issue with
      | some w => issueBundle ex w s1
      | none => .next s1
  | .tick sc => .next (tick { s with sched := sc })

/-! ### Placing a program from outside -/

/-- The bytes of a bundle stored at a place, whatever acts on a store there. -/
def storeRaw (s : State) (l : Loc) (b : W64) : State :=
  match l with
  | .mem pa => { s with hbm := s.hbm.writeNat pa 8 b.toNat }
  | .pool k => { s with pool := s.pool.writeNat k 8 b.toNat }
  | .sys a => { s with sys := s.sys.writeNat a 8 b.toNat }
  | _ => s

/-- The first entry of a core's slot table that names a slot, 0 if none does. -/
def entryOf (s : State) (core slot : Nat) : Nat := ((upTo 32).find? fun e => tableSlot (s.core core).table e == slot).getD 0

/-- A bundle loaded from outside where the current thread fetches next, its core's turn next: nothing else is pending, the
timestamp names the thread's slot, and the thread runs (log entry 39, DESIGN CHOICE). -/
def placeBundle (s : State) (b : W64) : State :=
  let ts := s.ts / 32 * 32 + (entryOf s s.cur.core s.cur.slot + 32 - (tsOf s s.cur.core - s.ts)) % 32
  let s1 : State := { s with agenda := [], sched := [], turns := [s.cur.core], ts := ts, issue := none, pre := none, flow := .done }
  match checkPtrs s1 s1.cur .fetch 8 [] [s1.cur.pc] with
  | .ok ls => storeRaw s1 (ls.headD .dropped) b
  | _ => s1

/-- ARITHMETIC_CYCLE (R14, R122 to R125, R128, R331, R342, R353, R379). -/
def execArithmeticCycle (core : Nat) (s : State) : Result :=
  .next (cycle s core)

end Sys2Proof.Machine
end

