-- ==== Sys2Proof/Machine/Fp.lean ====
section
/-!
DEFINITION. FP32 scalar instructions (R87 to R93).
-/
namespace Sys2Proof.Machine

/-- FCVT from the source `v` (R92): one draw where the destination takes one. Of its two sides the FP32 one alone can cost the turns of
a subnormal (log entry 101, DESIGN CHOICE). -/
def convertScalar (d : BitVec 5) (dst src v : Nat) (s : State) : State :=
  cvtMode dst src s fun md =>
    let r := convert dst src (md 0) v
    raiseFlags s r.2 fun s =>
      subnormalTurns ((src == 0 && subnormal32 (v % 2 ^ 32)) || (dst == 0 && subnormal32 (r.1.toNat % 2 ^ 32)))
        (advanceDraw (wX s d r.1) (b2n (cvtDraws dst)))

/-- FADD (R87). -/
def execFadd (d : BitVec 5) (a : BitVec 5) (b : BitVec 5) (g : BitVec 4) (s : State) : Result :=
  .next (formFFF fadd32 d a b g s)

/-- FSUB (R87). -/
def execFsub (d : BitVec 5) (a : BitVec 5) (b : BitVec 5) (g : BitVec 4) (s : State) : Result :=
  .next (formFFF fsub32 d a b g s)

/-- FMUL (R87). -/
def execFmul (d : BitVec 5) (a : BitVec 5) (b : BitVec 5) (g : BitVec 4) (s : State) : Result :=
  .next (formFFF fmul32 d a b g s)

/-- FDIV (R87, R70). -/
def execFdiv (d : BitVec 5) (a : BitVec 5) (b : BitVec 5) (g : BitVec 4) (s : State) : Result :=
  .next (forfeits 3 (formFFF fdiv32 d a b g s))

/-- FSQRT (R87, R70). -/
def execFsqrt (d : BitVec 5) (a : BitVec 5) (g : BitVec 4) (s : State) : Result :=
  .next (forfeits 3 (formFFF (fun rm x _ => fsqrt32 rm x) d a 0 g s))

/-- FMIN (R89). -/
def execFmin (d : BitVec 5) (a : BitVec 5) (b : BitVec 5) (g : BitVec 4) (s : State) : Result :=
  .next (formFMinMax true d a b g s)

/-- FMAX (R89). -/
def execFmax (d : BitVec 5) (a : BitVec 5) (b : BitVec 5) (g : BitVec 4) (s : State) : Result :=
  .next (formFMinMax false d a b g s)

/-- FSGN_J (R90). -/
def execFsgnJ (d : BitVec 5) (a : BitVec 5) (b : BitVec 5) (g : BitVec 4) (s : State) : Result :=
  .next (guarded g s fun s => let v := rF s a; let sg := bitAt (rF s b) 31; wF s d (b2n (sg) * 2 ^ 31 + v % 2 ^ 31))

/-- FSGN_JN (R90). -/
def execFsgnJn (d : BitVec 5) (a : BitVec 5) (b : BitVec 5) (g : BitVec 4) (s : State) : Result :=
  .next (guarded g s fun s => let v := rF s a; let sg := bitAt (rF s b) 31; wF s d (b2n (!sg) * 2 ^ 31 + v % 2 ^ 31))

/-- FSGN_JX (R90). -/
def execFsgnJx (d : BitVec 5) (a : BitVec 5) (b : BitVec 5) (g : BitVec 4) (s : State) : Result :=
  .next (guarded g s fun s => let v := rF s a; let sg := bitAt (rF s b) 31; wF s d (b2n (bitAt v 31 != sg) * 2 ^ 31 + v % 2 ^ 31))

/-- FSGN_J_PRED (R90). -/
def execFsgnJPred (d : BitVec 5) (a : BitVec 5) (p : BitVec 3) (g : BitVec 4) (s : State) : Result :=
  .next (guarded g s fun s => let v := rF s a; let sg := getP s p.toNat; wF s d (b2n (sg) * 2 ^ 31 + v % 2 ^ 31))

/-- FSGN_JN_PRED (R90). -/
def execFsgnJnPred (d : BitVec 5) (a : BitVec 5) (p : BitVec 3) (g : BitVec 4) (s : State) : Result :=
  .next (guarded g s fun s => let v := rF s a; let sg := getP s p.toNat; wF s d (b2n (!sg) * 2 ^ 31 + v % 2 ^ 31))

/-- FSGN_JX_PRED (R90). -/
def execFsgnJxPred (d : BitVec 5) (a : BitVec 5) (p : BitVec 3) (g : BitVec 4) (s : State) : Result :=
  .next (guarded g s fun s => let v := rF s a; let sg := getP s p.toNat; wF s d (b2n (bitAt v 31 != sg) * 2 ^ 31 + v % 2 ^ 31))

/-- FFMA (R88). -/
def execFfma (d : BitVec 5) (a : BitVec 5) (b : BitVec 5) (c : BitVec 5) (g : BitVec 4) (s : State) : Result :=
  .next (guarded g s fun s => roundingMode s fun rm =>
    let r := ffma32 rm (rF s a) (rF s b) (rF s c)
    raiseFlags s r.2 fun s =>
      subnormalTurns (anySubnormal [rF s a, rF s b, rF s c, r.1]) (wF s d r.1))

/-- FCMP (R91). -/
def execFcmp (p : BitVec 3) (a : BitVec 5) (b : BitVec 5) (c : BitVec 3) (g : BitVec 4) (s : State) : Result :=
  .next (guarded g s fun s =>
    let r := fcmp32 c.toNat (rF s a) (rF s b)
    raiseFlags s r.2 fun s => setP s p.toNat r.1)

/-- FCLASS (R91). -/
def execFclass (d : BitVec 5) (a : BitVec 5) (g : BitVec 4) (s : State) : Result :=
  .next (guarded g s fun s => wX s d (BitVec.ofNat 64 (fclass32 (rF s a))))

/-- FRND (R93). -/
def execFrnd (d : BitVec 5) (a : BitVec 5) (m : BitVec 3) (g : BitVec 4) (s : State) : Result :=
  .next (guarded g s fun s =>
    let go (rm : Rm) (s : State) : State :=
      let r := frnd32 rm (rF s a)
      raiseFlags s r.2 fun s => subnormalTurns (anySubnormal [rF s a, r.1]) (wF s d r.1)
    match rmOf (m.toNat - 1) with
    | some rm => if m = 0 then roundingMode s fun rm => go rm s else go rm s
    | none => s)

/-- FCVT (R92). -/
def execFcvt (d : BitVec 5) (a : BitVec 5) (t : BitVec 3) (s : BitVec 3) (g : BitVec 4) (st : State) : Result :=
  .next (guarded g st fun st => convertScalar d t.toNat s.toNat (rX st a).toNat st)

end Sys2Proof.Machine
end

