-- ==== Sys2Proof/Machine/Ival.lean ====
section
/-!
DEFINITION. Interval instructions (05_interval_instructions.md, R108 to R121).
-/
namespace Sys2Proof.Machine

/-- Interval operation of two operands that rounds: subnormal bounds cost turns (R27). -/
def roundIII (f : Ival → Ival → Ival) (d a b : BitVec 4) (g : BitVec 4) (s : State) : State :=
  guarded g s fun s =>
    let x := getIv s a.toNat
    let y := getIv s b.toNat
    let r := f x y
    subnormalTurns (anySubnormal [x.lo, x.hi, y.lo, y.hi, r.lo, r.hi]) (setIv s d.toNat r)

/-- Interval operation of one operand that rounds. -/
def roundII (f : Ival → Ival) (d a : BitVec 4) (g : BitVec 4) (s : State) : State :=
  guarded g s fun s =>
    let x := getIv s a.toNat
    let r := f x
    subnormalTurns (anySubnormal [x.lo, x.hi, r.lo, r.hi]) (setIv s d.toNat r)

/-- A contractor on registers (R120): the intervals, the predicate, NP and EM. -/
def contractRegs (r : Relation) (z x y : BitVec 4) (n : BitVec 3) (g : BitVec 4) (s : State) : State :=
  guarded g s fun s =>
    let zi := getIv s z.toNat
    let xi := getIv s x.toNat
    let yi := getIv s y.toNat
    let c := contract r zi xi yi
    let s1 := setIv (setIv s z.toNat c.z) x.toNat c.x
    let s2 := if r.binary then setIv s1 y.toNat c.y else s1
    let s3 := setP s2 n.toNat c.moved
    let s4 := if c.moved then setStat s3 8 true else s3
    let s5 := if c.emptied then setStat s4 9 true else s4
    let ys := if r.binary then [yi.lo, yi.hi, c.y.lo, c.y.hi] else []
    subnormalTurns (anySubnormal ([zi.lo, zi.hi, xi.lo, xi.hi, c.z.lo, c.z.hi, c.x.lo, c.x.hi] ++ ys)) s5

/-- IVMK (R111). -/
def execIvmk (d : BitVec 4) (a : BitVec 5) (b : BitVec 5) (g : BitVec 4) (s : State) : Result :=
  .next (guarded g s fun s => setIv s d.toNat (ivCanon { lo := rF s a, hi := rF s b }))

/-- IVMK_R (R111). -/
def execIvmkR (d : BitVec 4) (a : BitVec 5) (b : BitVec 5) (g : BitVec 4) (s : State) : Result :=
  .next (guarded g s fun s =>
    let r := ivMkR (rF s a) (rF s b)
    subnormalTurns (anySubnormal [rF s a, rF s b, r.lo, r.hi]) (setIv s d.toNat r))

/-- IVLO (R112). -/
def execIvlo (d : BitVec 5) (a : BitVec 4) (g : BitVec 4) (s : State) : Result :=
  .next (guarded g s fun s => wF s d (getIv s a.toNat).lo)

/-- IVHI (R112). -/
def execIvhi (d : BitVec 5) (a : BitVec 4) (g : BitVec 4) (s : State) : Result :=
  .next (guarded g s fun s => wF s d (getIv s a.toNat).hi)

/-- IWID (R112). -/
def execIwid (d : BitVec 5) (a : BitVec 4) (g : BitVec 4) (s : State) : Result :=
  .next (guarded g s fun s =>
    let x := getIv s a.toNat
    subnormalTurns (anySubnormal [x.lo, x.hi, ivWid x]) (wF s d (ivWid x)))

/-- IMID (R112). -/
def execImid (d : BitVec 5) (a : BitVec 4) (g : BitVec 4) (s : State) : Result :=
  .next (guarded g s fun s =>
    let x := getIv s a.toNat
    subnormalTurns (anySubnormal [x.lo, x.hi, ivMid x]) (wF s d (ivMid x)))

/-- IVLO_NS (R112). -/
def execIvloNs (d : BitVec 5) (g : BitVec 4) (s : State) : Result :=
  .next (guarded g s fun s => wX s d (BitVec.ofNat 64 (bits (getSt s 0x180 4) 8 2)))

/-- IVLO_NSC (R112). -/
def execIvloNsc (d : BitVec 5) (g : BitVec 4) (s : State) : Result :=
  .next (guarded g s fun s =>
    setStat (setStat (wX s d (BitVec.ofNat 64 (bits (getSt s 0x180 4) 8 2))) 8 false) 9 false)

/-- IADD (R114). -/
def execIadd (d : BitVec 4) (a : BitVec 4) (b : BitVec 4) (g : BitVec 4) (s : State) : Result :=
  .next (roundIII ivAdd d a b g s)

/-- ISUB (R114). -/
def execIsub (d : BitVec 4) (a : BitVec 4) (b : BitVec 4) (g : BitVec 4) (s : State) : Result :=
  .next (roundIII ivSub d a b g s)

/-- IMUL (R114). -/
def execImul (d : BitVec 4) (a : BitVec 4) (b : BitVec 4) (g : BitVec 4) (s : State) : Result :=
  .next (roundIII ivMul d a b g s)

/-- IDIV (R114, R115, R109). -/
def execIdiv (d : BitVec 4) (a : BitVec 4) (b : BitVec 4) (g : BitVec 4) (s : State) : Result :=
  .next (forfeits 3 (roundIII ivDiv d a b g s))

/-- ISQ (R116). -/
def execIsq (d : BitVec 4) (a : BitVec 4) (g : BitVec 4) (s : State) : Result :=
  .next (roundII ivSq d a g s)

/-- ISQRT (R116, R109). -/
def execIsqrt (d : BitVec 4) (a : BitVec 4) (g : BitVec 4) (s : State) : Result :=
  .next (forfeits 3 (roundII ivSqrt d a g s))

/-- IEXP2 (R116, R109). -/
def execIexp2 (d : BitVec 4) (a : BitVec 4) (g : BitVec 4) (s : State) : Result :=
  .next (forfeits 3 (roundII ivExp2 d a g s))

/-- IMAX (R117). -/
def execImax (d : BitVec 4) (a : BitVec 4) (b : BitVec 4) (g : BitVec 4) (s : State) : Result :=
  .next (formIII ivMax d a b g s)

/-- IMIN (R117). -/
def execImin (d : BitVec 4) (a : BitVec 4) (b : BitVec 4) (g : BitVec 4) (s : State) : Result :=
  .next (formIII ivMin d a b g s)

/-- IHULL (R117). -/
def execIhull (d : BitVec 4) (a : BitVec 4) (b : BitVec 4) (g : BitVec 4) (s : State) : Result :=
  .next (formIII ivHull d a b g s)

/-- IISECT (R117). -/
def execIisect (d : BitVec 4) (a : BitVec 4) (b : BitVec 4) (g : BitVec 4) (s : State) : Result :=
  .next (formIII ivIsect d a b g s)

/-- ICMP (R118). -/
def execIcmp (k : BitVec 4) (a : BitVec 4) (b : BitVec 4) (c : BitVec 2) (g : BitVec 4) (s : State) : Result :=
  .next (guarded g s fun s => setPPair s k.toNat (ivCmp c.toNat (getIv s a.toNat) (getIv s b.toNat)))

/-- ICONT (R119). -/
def execIcont (k : BitVec 4) (a : BitVec 4) (b : BitVec 4) (g : BitVec 4) (s : State) : Result :=
  .next (guarded g s fun s => setPPair s k.toNat (ivCont (getIv s a.toNat) (getIv s b.toNat)))

/-- IADDC (R120, R121). -/
def execIaddc (z : BitVec 4) (x : BitVec 4) (y : BitVec 4) (n : BitVec 3) (g : BitVec 4) (s : State) : Result :=
  .next (contractRegs .addR z x y n g s)

/-- IMULC (R120, R121, R109). -/
def execImulc (z : BitVec 4) (x : BitVec 4) (y : BitVec 4) (n : BitVec 3) (g : BitVec 4) (s : State) : Result :=
  .next (forfeits 3 (contractRegs .mulR z x y n g s))

/-- ISQC (R120, R121, R109). -/
def execIsqc (z : BitVec 4) (x : BitVec 4) (n : BitVec 3) (g : BitVec 4) (s : State) : Result :=
  .next (forfeits 3 (contractRegs .sqR z x 0 n g s))

/-- IMAXC (R120, R121). -/
def execImaxc (z : BitVec 4) (x : BitVec 4) (y : BitVec 4) (n : BitVec 3) (g : BitVec 4) (s : State) : Result :=
  .next (contractRegs .maxR z x y n g s)

/-- IEXP2C (R120, R121, R109). -/
def execIexp2c (z : BitVec 4) (x : BitVec 4) (n : BitVec 3) (g : BitVec 4) (s : State) : Result :=
  .next (forfeits 3 (contractRegs .exp2R z x 0 n g s))

end Sys2Proof.Machine
end

