-- ==== Sys2Proof/Machine/Scalar.lean ====
section
/-!
DEFINITION. Integer, predicate and counter-hash instructions (04_scalar_instructions.md, R74 to R86).
-/
namespace Sys2Proof.Machine

/-- A_NOP (R52, R100). -/
def execANop (_g : BitVec 4) (s : State) : Result :=
  .next (s)

/-- ADD (R74). -/
def execAdd (d : BitVec 5) (a : BitVec 5) (b : BitVec 5) (g : BitVec 4) (s : State) : Result :=
  .next (formRRR (fun x y => x + y) d a b g s)

/-- SUB (R74). -/
def execSub (d : BitVec 5) (a : BitVec 5) (b : BitVec 5) (g : BitVec 4) (s : State) : Result :=
  .next (formRRR (fun x y => x - y) d a b g s)

/-- MUL (R74). -/
def execMul (d : BitVec 5) (a : BitVec 5) (b : BitVec 5) (g : BitVec 4) (s : State) : Result :=
  .next (formRRR (fun x y => x * y) d a b g s)

/-- MULH (R74). -/
def execMulh (d : BitVec 5) (a : BitVec 5) (b : BitVec 5) (g : BitVec 4) (s : State) : Result :=
  .next (formRRR (fun x y => BitVec.ofInt 64 (x.toInt * y.toInt / 2 ^ 64)) d a b g s)

/-- MULHU (R74). -/
def execMulhu (d : BitVec 5) (a : BitVec 5) (b : BitVec 5) (g : BitVec 4) (s : State) : Result :=
  .next (formRRR (fun x y => BitVec.ofNat 64 (x.toNat * y.toNat / 2 ^ 64)) d a b g s)

/-- DIV (R75, R70). -/
def execDiv (d : BitVec 5) (a : BitVec 5) (b : BitVec 5) (g : BitVec 4) (s : State) : Result :=
  .next (forfeits 3 (formRRR divS d a b g s))

/-- DIVU (R75, R70). -/
def execDivu (d : BitVec 5) (a : BitVec 5) (b : BitVec 5) (g : BitVec 4) (s : State) : Result :=
  .next (forfeits 3 (formRRR divU d a b g s))

/-- REM (R75, R70). -/
def execRem (d : BitVec 5) (a : BitVec 5) (b : BitVec 5) (g : BitVec 4) (s : State) : Result :=
  .next (forfeits 3 (formRRR remS d a b g s))

/-- REMU (R75, R70). -/
def execRemu (d : BitVec 5) (a : BitVec 5) (b : BitVec 5) (g : BitVec 4) (s : State) : Result :=
  .next (forfeits 3 (formRRR remU d a b g s))

/-- AND (R76). -/
def execAnd (d : BitVec 5) (a : BitVec 5) (b : BitVec 5) (g : BitVec 4) (s : State) : Result :=
  .next (formRRR (fun x y => x &&& y) d a b g s)

/-- OR (R76). -/
def execOr (d : BitVec 5) (a : BitVec 5) (b : BitVec 5) (g : BitVec 4) (s : State) : Result :=
  .next (formRRR (fun x y => x ||| y) d a b g s)

/-- XOR (R76). -/
def execXor (d : BitVec 5) (a : BitVec 5) (b : BitVec 5) (g : BitVec 4) (s : State) : Result :=
  .next (formRRR (fun x y => x ^^^ y) d a b g s)

/-- ANDN (R76). -/
def execAndn (d : BitVec 5) (a : BitVec 5) (b : BitVec 5) (g : BitVec 4) (s : State) : Result :=
  .next (formRRR (fun x y => x &&& ~~~y) d a b g s)

/-- SHL (R77). -/
def execShl (d : BitVec 5) (a : BitVec 5) (b : BitVec 5) (g : BitVec 4) (s : State) : Result :=
  .next (formRRR (fun x y => x <<< shiftBy y) d a b g s)

/-- SHR (R77). -/
def execShr (d : BitVec 5) (a : BitVec 5) (b : BitVec 5) (g : BitVec 4) (s : State) : Result :=
  .next (formRRR (fun x y => x >>> shiftBy y) d a b g s)

/-- SAR (R77). -/
def execSar (d : BitVec 5) (a : BitVec 5) (b : BitVec 5) (g : BitVec 4) (s : State) : Result :=
  .next (formRRR (fun x y => x.sshiftRight (shiftBy y)) d a b g s)

/-- MIN (R78). -/
def execMin (d : BitVec 5) (a : BitVec 5) (b : BitVec 5) (g : BitVec 4) (s : State) : Result :=
  .next (formRRR (fun x y => if x.toInt ≤ y.toInt then x else y) d a b g s)

/-- MAX (R78). -/
def execMax (d : BitVec 5) (a : BitVec 5) (b : BitVec 5) (g : BitVec 4) (s : State) : Result :=
  .next (formRRR (fun x y => if x.toInt ≤ y.toInt then y else x) d a b g s)

/-- MINU (R78). -/
def execMinu (d : BitVec 5) (a : BitVec 5) (b : BitVec 5) (g : BitVec 4) (s : State) : Result :=
  .next (formRRR (fun x y => if x.toNat ≤ y.toNat then x else y) d a b g s)

/-- MAXU (R78). -/
def execMaxu (d : BitVec 5) (a : BitVec 5) (b : BitVec 5) (g : BitVec 4) (s : State) : Result :=
  .next (formRRR (fun x y => if x.toNat ≤ y.toNat then y else x) d a b g s)

/-- CLZ (R79). -/
def execClz (d : BitVec 5) (a : BitVec 5) (g : BitVec 4) (s : State) : Result :=
  .next (formRR (fun x => BitVec.ofNat 64 (leadingZeros 64 x.toNat)) d a g s)

/-- POPC (R79). -/
def execPopc (d : BitVec 5) (a : BitVec 5) (g : BitVec 4) (s : State) : Result :=
  .next (formRR (fun x => BitVec.ofNat 64 (popcount 64 x.toNat)) d a g s)

/-- BREV (R79). -/
def execBrev (d : BitVec 5) (a : BitVec 5) (g : BitVec 4) (s : State) : Result :=
  .next (formRR (fun x => BitVec.ofNat 64 (reverseBits 64 x.toNat)) d a g s)

/-- EXTR (R79). -/
def execExtr (d : BitVec 5) (a : BitVec 5) (b : BitVec 5) (g : BitVec 4) (s : State) : Result :=
  .next (formRRR (fun x y => BitVec.ofNat 64 (extract x y)) d a b g s)

/-- EXTR_S (R79). -/
def execExtrS (d : BitVec 5) (a : BitVec 5) (b : BitVec 5) (g : BitVec 4) (s : State) : Result :=
  .next (formRRR extractS d a b g s)

/-- INS (R79). -/
def execIns (d : BitVec 5) (a : BitVec 5) (b : BitVec 5) (g : BitVec 4) (s : State) : Result :=
  .next (guarded g s fun s => wX s d (insertField (rX s d) (rX s a) (rX s b)))

/-- SEL (R79). -/
def execSel (d : BitVec 5) (a : BitVec 5) (b : BitVec 5) (n : BitVec 3) (g : BitVec 4) (s : State) : Result :=
  .next (guarded g s fun s => wX s d (if getP s n.toNat then rX s a else rX s b))

/-- RNDC (R86). -/
def execRndc (d : BitVec 5) (a : BitVec 5) (b : BitVec 5) (g : BitVec 4) (s : State) : Result :=
  .next (formRRR (fun x y => (rndc x y).setWidth 64) d a b g s)

/-- RNDC_U (R86). -/
def execRndcU (d : BitVec 5) (a : BitVec 5) (b : BitVec 5) (g : BitVec 4) (s : State) : Result :=
  .next (formRRR (fun x y => BitVec.ofNat 64 (rnd32 .rne false ((rndc x y).toNat / 256) (-24) false).1) d a b g s)

/-- ADDI (R80). -/
def execAddi (d : BitVec 5) (a : BitVec 5) (i : BitVec 12) (g : BitVec 4) (s : State) : Result :=
  .next (formRI (fun x k => x + k) d a i g s)

/-- ANDI (R80). -/
def execAndi (d : BitVec 5) (a : BitVec 5) (i : BitVec 12) (g : BitVec 4) (s : State) : Result :=
  .next (formRI (fun x k => x &&& k) d a i g s)

/-- ORI (R80). -/
def execOri (d : BitVec 5) (a : BitVec 5) (i : BitVec 12) (g : BitVec 4) (s : State) : Result :=
  .next (formRI (fun x k => x ||| k) d a i g s)

/-- XORI (R80). -/
def execXori (d : BitVec 5) (a : BitVec 5) (i : BitVec 12) (g : BitVec 4) (s : State) : Result :=
  .next (formRI (fun x k => x ^^^ k) d a i g s)

/-- SHLI (R80). -/
def execShli (d : BitVec 5) (a : BitVec 5) (s : BitVec 6) (g : BitVec 4) (st : State) : Result :=
  .next (formRS (fun x n => x <<< n) d a s g st)

/-- SHRI (R80). -/
def execShri (d : BitVec 5) (a : BitVec 5) (s : BitVec 6) (g : BitVec 4) (st : State) : Result :=
  .next (formRS (fun x n => x >>> n) d a s g st)

/-- SARI (R80). -/
def execSari (d : BitVec 5) (a : BitVec 5) (s : BitVec 6) (g : BitVec 4) (st : State) : Result :=
  .next (formRS (fun x n => x.sshiftRight n) d a s g st)

/-- CMP (R83). -/
def execCmp (p : BitVec 3) (a : BitVec 5) (b : BitVec 5) (c : BitVec 4) (g : BitVec 4) (s : State) : Result :=
  .next (guarded g s fun s => setP s p.toNat (icond c.toNat (rX s a) (rX s b)))

/-- CMPI (R84). -/
def execCmpi (c : BitVec 2) (p : BitVec 3) (a : BitVec 5) (i : BitVec 12) (g : BitVec 4) (s : State) : Result :=
  .next (guarded g s fun s => setP s p.toNat (icond c.toNat (rX s a) (imm12 i)))

/-- CMPI_LE_GT_LTU_GEU (R84). -/
def execCmpiLeGtLtuGeu (c : BitVec 2) (p : BitVec 3) (a : BitVec 5) (i : BitVec 12) (g : BitVec 4) (s : State) : Result :=
  .next (guarded g s fun s => setP s p.toNat (icond (4 + c.toNat) (rX s a) (imm12 i)))

/-- PLOG (R85). -/
def execPlog (d : BitVec 3) (a : BitVec 3) (b : BitVec 3) (t : BitVec 4) (g : BitVec 4) (s : State) : Result :=
  .next (guarded g s fun s => setP s d.toNat (bitAt t.toNat (2 * b2n (getP s a.toNat) + b2n (getP s b.toNat))))

/-- LI (R81). -/
def execLi (d : BitVec 5) (ext : W32) (g : BitVec 4) (s : State) : Result :=
  .next (guarded g s fun s => wX s d (extS ext))

/-- LIH (R81). -/
def execLih (d : BitVec 5) (ext : W32) (g : BitVec 4) (s : State) : Result :=
  .next (guarded g s fun s => wX s d (BitVec.ofNat 64 (ext.toNat * 2 ^ 32 + (rX s d).toNat % 2 ^ 32)))

/-- ADDI_L (R82). -/
def execAddiL (d : BitVec 5) (a : BitVec 5) (ext : W32) (g : BitVec 4) (s : State) : Result :=
  .next (guarded g s fun s => wX s d (rX s a + extS ext))

/-- CMPI_L (R84). -/
def execCmpiL (p : BitVec 3) (a : BitVec 5) (c : BitVec 4) (ext : W32) (g : BitVec 4) (s : State) : Result :=
  .next (guarded g s fun s => setP s p.toNat (icond c.toNat (rX s a) (extS ext)))

end Sys2Proof.Machine
end

