-- ==== Sys2Proof/Machine/VecIval.lean ====
section
/-!
DEFINITION. Vector interval forms (R189 to R191).
-/
namespace Sys2Proof.Machine

/-- Vector interval operation that rounds, on two sources (R189). -/
def roundVI (f : Ival → Ival → Ival) (d a b : BitVec 3) (g : BitVec 4) (s : State) : State :=
  guarded g s fun s =>
    let x := getVI s a
    let y := getVI s b
    let r := List.zipWith f x y
    let ends (l : List Ival) : List Nat := l.map (·.lo) ++ l.map (·.hi)
    subnormalTurns (anySubnormal (ends x ++ ends y ++ ends r)) (setVI s d r)

/-- `a * b + c` on real sets, rounded once outward (R190). -/
def ivFma (a b c : Ival) : Ival :=
  if ivClass a = .nai ∨ ivClass b = .nai ∨ ivClass c = .nai then naiPair
  else if ivClass a = .empty ∨ ivClass b = .empty ∨ ivClass c = .empty then emptyPair
  else
    let ps := [mulB (fpv a.lo) (fpv b.lo), mulB (fpv a.lo) (fpv b.hi), mulB (fpv a.hi) (fpv b.lo), mulB (fpv a.hi) (fpv b.hi)]
    let lo := ps.foldl (fun m p => if ltV p m then p else m) (.inf false)
    let hi := ps.foldl (fun m p => if ltV m p then p else m) (.inf true)
    ivCanon { lo := outLo (addB lo (fpv c.lo)), hi := outHi (addB hi (fpv c.hi)) }

/-- VIADD (R189). -/
def execViadd (d : BitVec 3) (a : BitVec 3) (b : BitVec 3) (g : BitVec 4) (s : State) : Result :=
  .next (roundVI ivAdd d a b g s)

/-- VIMUL (R189). -/
def execVimul (d : BitVec 3) (a : BitVec 3) (b : BitVec 3) (g : BitVec 4) (s : State) : Result :=
  .next (roundVI ivMul d a b g s)

/-- VIFMA (R190). -/
def execVifma (d : BitVec 3) (a : BitVec 3) (b : BitVec 3) (c : BitVec 3) (g : BitVec 4) (s : State) : Result :=
  .next (guarded g s fun s =>
    let x := getVI s a
    let y := getVI s b
    let z := getVI s c
    let r := List.zipWith (fun p w => ivFma p.1 p.2 w) (x.zip y) z
    let ends (l : List Ival) : List Nat := l.map (·.lo) ++ l.map (·.hi)
    subnormalTurns (anySubnormal (ends x ++ ends y ++ ends z ++ ends r)) (setVI s d r))

/-- VIMAX (R189, R117). -/
def execVimax (d : BitVec 3) (a : BitVec 3) (b : BitVec 3) (g : BitVec 4) (s : State) : Result :=
  .next (guarded g s fun s => setVI s d (List.zipWith ivMax (getVI s a) (getVI s b)))

/-- VICMP (R191). -/
def execVicmp (d : BitVec 3) (a : BitVec 3) (b : BitVec 3) (c : BitVec 2) (g : BitVec 4) (s : State) : Result :=
  .next (guarded g s fun s =>
    let r := List.zipWith (ivCmp c.toNat) (getVI s a) (getVI s b)
    let m (b : Bool) : Nat := if b then 0xFFFFFFFF else 0
    setV (setV s (2 * d.toNat) (r.map fun x => m x.1)) (2 * d.toNat + 1) (r.map fun x => m x.2))

end Sys2Proof.Machine
end

