-- ==== Sys2Proof/Machine/Vector.lean ====
section
/-!
DEFINITION. The vector unit (07_parallel_and_vector_instructions.md, R173 to R187).
-/
namespace Sys2Proof.Machine

/-- Integer operation on 32-bit lanes, mod 2^32 (R175). -/
def laneInt (f : BitVec 32 → BitVec 32 → BitVec 32) (x y : Nat) : Nat := (f (BitVec.ofNat 32 x) (BitVec.ofNat 32 y)).toNat

/-- VADD, VSUB, VMUL: FP32 lanes with `f`, INT32 lanes with `h` (R175). -/
def formArith (f : Rm → Nat → Nat → Nat × Flags) (h : BitVec 32 → BitVec 32 → BitVec 32)
    (d a b : BitVec 4) (t : BitVec 1) (g : BitVec 4) (s : State) : State :=
  guarded g s fun s =>
    if t = 0 then formVFF f d a b s
    else setV s d.toNat (lanes2 (laneInt h) (getV s a.toNat) (getV s b.toNat))

/-- VMIN, VMAX (R175, R89). -/
def formMinMax (least : Bool) (h : BitVec 32 → BitVec 32 → BitVec 32) (d a b : BitVec 4) (t : BitVec 1) (g : BitVec 4)
    (s : State) : State :=
  guarded g s fun s =>
    if t = 0 then laneResult s d (List.zipWith (fminmax least) (getV s a.toNat) (getV s b.toNat)) false []
    else setV s d.toNat (lanes2 (laneInt h) (getV s a.toNat) (getV s b.toNat))

/-- Groups of `n` of a list's elements, `k` groups. -/
def groups {α : Type} (n : Nat) : Nat → List α → List (List α)
  | 0, _ => []
  | k + 1, l => l.take n :: groups n k (l.drop n)

/-- One lane of VFMA.LNS: four products summed by a tree and added to `c`, all under RNE (R176). -/
def lnsLane (a b : List Nat) (c : Nat) : Nat × Flags :=
  let t := treeSum .rne 2 (List.zipWith lnsMul a b)
  let r := fadd32 .rne c t.1
  (r.1, t.2 ||| r.2)

/-- `2^x` by the fixed algorithm of R181. -/
def vexp2Poly (f : Fv) : List Nat → Nat → Flags → Nat × Flags
  | [], t, fl => (t, fl)
  | c :: rest, t, fl =>
    match mulV (fpv t) f with
    | none => (nan32, fl)
    | some p => let r := addV .rne p (fpv c); vexp2Poly f rest r.1 (fl ||| r.2)

/-- VEXP2 of one lane (R181). C6 down to C1 and 1.0 are the FP32 patterns nearest the decimals the rule gives. -/
def vexp2Lane (x : Nat) : Nat × Flags :=
  match fpv x with
  | .nan s => (nan32, flagIf s fNV)
  | .inf n => if n then (0, 0) else (inf32 false, 0)
  | .fin neg m e =>
    let q := min e 0
    let whole : Int := signed neg (m * 2 ^ (e - q).toNat)
    let n := whole / 2 ^ (-q).toNat
    let f := whole % 2 ^ (-q).toNat
    let t := vexp2Poly (.fin false f.toNat q) [0x3AAEC3FF, 0x3C1D955B, 0x3D635847, 0x3E75FDF0, 0x3F317218, 0x3F800000]
      0x39218489 0
    match fpv t.1 with
    | .fin tn tm te =>
      let n' := max (-4096) (min n 4096)
      let r := rnd32 .rne tn tm (te + n') false
      (r.1, t.2 ||| r.2)
    | _ => t

/-- VLOG2 of one lane (R182). -/
def vlog2Lane (rm : Rm) (x : Nat) : Nat × Flags :=
  match fpv x with
  | .nan s => (nan32, flagIf s fNV)
  | .inf n => if n then (nan32, fNV) else (inf32 false, 0)
  | .fin neg m e => if m = 0 then (inf32 true, fDZ) else if neg then (nan32, fNV) else log2Round rm (.fin false m e)

/-- VRCP of one lane (R182). -/
def vrcpLane (rm : Rm) (x : Nat) : Nat × Flags := divV rm (.fin false 1 0) (fpv x)

/-- VRSQ of one lane (R182). -/
def vrsqLane (rm : Rm) (x : Nat) : Nat × Flags :=
  match fpv x with
  | .nan s => (nan32, flagIf s fNV)
  | .inf n => if n then (nan32, fNV) else (0, 0)
  | .fin neg m e =>
    if m = 0 then (inf32 neg, fDZ)
    else if neg then (nan32, fNV)
    else
      let sh : Nat := 160 + 2 * Nat.log2 m + ((160 + e) % 2).toNat
      let r := isqrt (2 ^ sh / m)
      rnd32 rm false r (-((sh : Int) + e) / 2) (r * r * m != 2 ^ sh)

/-- Prefix sums (R183). -/
def scanF (rm : Rm) : Nat → List Nat → List (Nat × Flags)
  | _, [] => []
  | acc, a :: rest => let r := fadd32 rm acc a; r :: scanF rm r.1 rest

/-- Prefix sums mod 2^32. -/
def scanI : Nat → List Nat → List Nat
  | _, [] => []
  | acc, a :: rest => (acc + a) % 2 ^ 32 :: scanI ((acc + a) % 2 ^ 32) rest

/-- Does key `a` of lane `i` come before key `b` of lane `j` (R186). -/
def sortBefore (asc : Bool) (a i b j : Nat) : Bool :=
  let x := fpv a
  let y := fpv b
  if x.isNan && y.isNan then decide (i < j)
  else if x.isNan then false
  else if y.isNan then true
  else if eqV x y then decide (i < j)
  else if asc then ltV x y else ltV y x

/-- Insert a keyed lane in order. -/
def sortInsert (asc : Bool) (e : Nat × Nat) : List (Nat × Nat) → List (Nat × Nat)
  | [] => [e]
  | h :: rest => if sortBefore asc e.1 e.2 h.1 h.2 then e :: h :: rest else h :: sortInsert asc e rest

/-- The keys of VSORTK with their lanes: the first k in order, then the rest by lane (R186). -/
def sortK (asc : Bool) (k : Nat) (keys : List Nat) : List (Nat × Nat) :=
  let keyed := keys.zip (upTo 16)
  let sorted := keyed.foldr (sortInsert asc) []
  let first := sorted.take k
  first ++ keyed.filter fun e => !(first.any fun h => h.2 == e.2)

/-- Element `j` of `w` bytes of a vector register's bytes. -/
def elemAt (l : List Byte) (w j : Nat) : Nat := leNat ((l.drop (w * j)).take w)

/-- Bytes an element of a conversion code takes in a vector register (R180). -/
def elemBytes (f : Nat) : Nat := if f = 0 ∨ f = 7 then 4 else if f = 1 ∨ f = 2 then 2 else 1

/-- VCVT (R180): sixteen elements, part `k`. Of its two sides the FP32 one alone can cost the turns of a subnormal (log entry 101, DESIGN
CHOICE). -/
def vcvtLanes (d a : BitVec 4) (k dst src : Nat) (s : State) : State :=
  let sw := elemBytes src
  let dw := elemBytes dst
  let from' := (upTo 16).map fun i => elemAt (getVBytes s a.toNat) sw (if sw = 4 then i else 16 * k + i)
  cvtMode dst src s fun md =>
    let r := (from'.zip (upTo 16)).map fun e => convert dst src (md e.2) e.1
    let fl := r.foldl (fun f x => f ||| x.2) (0 : Flags)
    let vals := r.map fun x => x.1.toNat % 2 ^ (8 * dw)
    let sub := (src == 0 && anySubnormal from') || (dst == 0 && anySubnormal vals)
    raiseFlags s fl fun s =>
      subnormalTurns sub (advanceDraw
        (putPoolBytes s (wsOf s + 0x400 + 0x40 * d.toNat + (if dw = 4 then 0 else 16 * k * dw)) (laneBytes dw vals))
        (if cvtDraws dst then 16 else 0))

/-- VADD (R175). -/
def execVadd (d : BitVec 4) (a : BitVec 4) (b : BitVec 4) (t : BitVec 1) (g : BitVec 4) (s : State) : Result :=
  .next (formArith fadd32 (fun x y => x + y) d a b t g s)

/-- VSUB (R175). -/
def execVsub (d : BitVec 4) (a : BitVec 4) (b : BitVec 4) (t : BitVec 1) (g : BitVec 4) (s : State) : Result :=
  .next (formArith fsub32 (fun x y => x - y) d a b t g s)

/-- VMUL (R175). -/
def execVmul (d : BitVec 4) (a : BitVec 4) (b : BitVec 4) (t : BitVec 1) (g : BitVec 4) (s : State) : Result :=
  .next (formArith fmul32 (fun x y => x * y) d a b t g s)

/-- VMIN (R175). -/
def execVmin (d : BitVec 4) (a : BitVec 4) (b : BitVec 4) (t : BitVec 1) (g : BitVec 4) (s : State) : Result :=
  .next (formMinMax true (fun x y => if x.toInt ≤ y.toInt then x else y) d a b t g s)

/-- VMAX (R175). -/
def execVmax (d : BitVec 4) (a : BitVec 4) (b : BitVec 4) (t : BitVec 1) (g : BitVec 4) (s : State) : Result :=
  .next (formMinMax false (fun x y => if x.toInt ≤ y.toInt then y else x) d a b t g s)

/-- VFMA (R176). -/
def execVfma (d : BitVec 4) (a : BitVec 4) (b : BitVec 4) (c : BitVec 4) (g : BitVec 4) (s : State) : Result :=
  .next (guarded g s fun s => roundingMode s fun rm =>
    let x := getV s a.toNat
    let y := getV s b.toNat
    let z := getV s c.toNat
    laneResult s d (List.zipWith (fun p w => ffma32 rm p.1 p.2 w) (x.zip y) z) true (x ++ y ++ z))

/-- VFMA_LNS (R176). -/
def execVfmaLns (d : BitVec 4) (a : BitVec 4) (b : BitVec 4) (c : BitVec 4) (g : BitVec 4) (s : State) : Result :=
  .next (guarded g s fun s =>
    let x := (getVBytes s a.toNat).map fun b => b.toNat
    let y := (getVBytes s b.toNat).map fun b => b.toNat
    let z := getV s c.toNat
    laneResult s d (List.zipWith (fun p w => lnsLane p.1 p.2 w) ((groups 4 16 x).zip (groups 4 16 y)) z) true z)

/-- VAND (R177). -/
def execVand (d : BitVec 4) (a : BitVec 4) (b : BitVec 4) (g : BitVec 4) (s : State) : Result :=
  .next (formVVV (laneInt fun x y => x &&& y) d a b g s)

/-- VOR (R177). -/
def execVor (d : BitVec 4) (a : BitVec 4) (b : BitVec 4) (g : BitVec 4) (s : State) : Result :=
  .next (formVVV (laneInt fun x y => x ||| y) d a b g s)

/-- VXOR (R177). -/
def execVxor (d : BitVec 4) (a : BitVec 4) (b : BitVec 4) (g : BitVec 4) (s : State) : Result :=
  .next (formVVV (laneInt fun x y => x ^^^ y) d a b g s)

/-- VSHL (R177). -/
def execVshl (d : BitVec 4) (a : BitVec 4) (b : BitVec 4) (g : BitVec 4) (s : State) : Result :=
  .next (formVVV (laneInt fun x y => x <<< (y.toNat % 32)) d a b g s)

/-- VSHR (R177). -/
def execVshr (d : BitVec 4) (a : BitVec 4) (b : BitVec 4) (g : BitVec 4) (s : State) : Result :=
  .next (formVVV (laneInt fun x y => x >>> (y.toNat % 32)) d a b g s)

/-- VSHR_A (R177). -/
def execVshrA (d : BitVec 4) (a : BitVec 4) (b : BitVec 4) (g : BitVec 4) (s : State) : Result :=
  .next (formVVV (laneInt fun x y => x.sshiftRight (y.toNat % 32)) d a b g s)

/-- VCMP (R178). -/
def execVcmp (d : BitVec 4) (a : BitVec 4) (b : BitVec 4) (t : BitVec 1) (c : BitVec 4) (g : BitVec 4) (s : State) : Result :=
  .next (guarded g s fun s =>
    let m (b : Bool) : Nat := if b then 0xFFFFFFFF else 0
    if t = 0 then
      let r := List.zipWith (fcmp32 c.toNat) (getV s a.toNat) (getV s b.toNat)
      laneResult s d (r.map fun x => (m x.1, x.2)) false []
    else
      -- unsigned and signed conditions of 32-bit lanes agree with those of their sign extensions
      setV s d.toNat (lanes2 (fun x y => m (icond c.toNat (sextN x 32) (sextN y 32))) (getV s a.toNat) (getV s b.toNat)))

/-- VSEL (R179). -/
def execVsel (d : BitVec 4) (a : BitVec 4) (b : BitVec 4) (c : BitVec 4) (g : BitVec 4) (s : State) : Result :=
  .next (guarded g s fun s =>
    setV s d.toNat (List.zipWith (fun p z => if bitAt z 31 then p.1 else p.2) ((getV s a.toNat).zip (getV s b.toNat))
      (getV s c.toNat)))

/-- VCVT (R180). -/
def execVcvt (d : BitVec 4) (a : BitVec 4) (c : BitVec 4) (x : BitVec 3) (y : BitVec 3) (g : BitVec 4) (s : State) : Result :=
  .next (guarded g s fun s => vcvtLanes d a c.toNat x.toNat y.toNat s)

/-- VEXP2 (R181). -/
def execVexp2 (d : BitVec 4) (a : BitVec 4) (g : BitVec 4) (s : State) : Result :=
  .next (guarded g s fun s =>
    let v := getV s a.toNat
    laneResult s d (v.map vexp2Lane) true v)

/-- VLOG2 (R182). -/
def execVlog2 (d : BitVec 4) (a : BitVec 4) (g : BitVec 4) (s : State) : Result :=
  .next (guarded g s fun s => formVF vlog2Lane d a s)

/-- VRCP (R182). -/
def execVrcp (d : BitVec 4) (a : BitVec 4) (g : BitVec 4) (s : State) : Result :=
  .next (guarded g s fun s => formVF vrcpLane d a s)

/-- VRSQ (R182). -/
def execVrsq (d : BitVec 4) (a : BitVec 4) (g : BitVec 4) (s : State) : Result :=
  .next (guarded g s fun s => formVF vrsqLane d a s)

/-- VREDSUM (R183). -/
def execVredsum (d : BitVec 4) (a : BitVec 4) (t : BitVec 1) (g : BitVec 4) (s : State) : Result :=
  .next (guarded g s fun s =>
    let v := getV s a.toNat
    if t = 0 then
      roundingMode s fun rm =>
        let r := treeSum rm 4 v
        raiseFlags s r.2 fun s => subnormalTurns (anySubnormal (r.1 :: v)) (setV s d.toNat (List.replicate 16 r.1))
    else setV s d.toNat (List.replicate 16 (v.foldl (· + ·) 0 % 2 ^ 32)))

/-- VREDMAX (R183). -/
def execVredmax (d : BitVec 4) (a : BitVec 4) (t : BitVec 1) (g : BitVec 4) (s : State) : Result :=
  .next (guarded g s fun s =>
    let v := getV s a.toNat
    if t = 0 then
      let r := v.tail.foldl (fun acc x => let q := fminmax false acc.1 x; (q.1, acc.2 ||| q.2)) (v.headD 0, (0 : Flags))
      raiseFlags s r.2 fun s => setV s d.toNat (List.replicate 16 r.1)
    else
      let top := v.tail.foldl (laneInt fun x y => if x.toInt ≤ y.toInt then y else x) (v.headD 0)
      setV s d.toNat (List.replicate 16 top))

/-- VSCAN (R183). -/
def execVscan (d : BitVec 4) (a : BitVec 4) (t : BitVec 1) (g : BitVec 4) (s : State) : Result :=
  .next (guarded g s fun s =>
    let v := getV s a.toNat
    if t = 0 then
      roundingMode s fun rm =>
        laneResult s d ((v.headD 0, 0) :: scanF rm (v.headD 0) v.tail) true v
    else setV s d.toNat (scanI 0 v))

/-- VPERM (R184). -/
def execVperm (d : BitVec 4) (a : BitVec 4) (b : BitVec 4) (c : BitVec 4) (g : BitVec 4) (s : State) : Result :=
  .next (guarded g s fun s =>
    let x := getV s a.toNat
    let z := getV s c.toNat
    setV s d.toNat ((getV s b.toNat).map fun j => (if bitAt j 4 then z else x).getD (j % 16) 0))

/-- VIDX (R184). -/
def execVidx (d : BitVec 4) (g : BitVec 4) (s : State) : Result :=
  .next (guarded g s fun s => setV s d.toNat (upTo 16))

/-- VIDX_F (R184). -/
def execVidxF (d : BitVec 4) (g : BitVec 4) (s : State) : Result :=
  .next (guarded g s fun s => setV s d.toNat ((upTo 16).map fun (i : Nat) => (ofInt32 .rne (Int.ofNat i)).1))

/-- VMOVX (R185). -/
def execVmovx (d : BitVec 5) (a : BitVec 4) (b : BitVec 5) (g : BitVec 4) (s : State) : Result :=
  .next (guarded g s fun s => wF s d ((getV s a.toNat).getD ((rX s b).toNat % 16) 0))

/-- VINS (R185). -/
def execVins (d : BitVec 4) (a : BitVec 5) (b : BitVec 5) (g : BitVec 4) (s : State) : Result :=
  .next (guarded g s fun s => setV s d.toNat (setAt (getV s d.toNat) ((rX s b).toNat % 16) (rF s a)))

/-- VBCAST (R185). -/
def execVbcast (d : BitVec 4) (a : BitVec 5) (g : BitVec 4) (s : State) : Result :=
  .next (guarded g s fun s => setV s d.toNat (List.replicate 16 (rF s a)))

/-- VSORTK (R186). -/
def execVsortk (d : BitVec 3) (a : BitVec 4) (r : BitVec 1) (k : BitVec 4) (g : BitVec 4) (s : State) : Result :=
  .next (guarded g s fun s =>
    let r := sortK (r == 1) (k.toNat + 1) (getV s a.toNat)
    setV (setV s (2 * d.toNat) (r.map (·.1))) (2 * d.toNat + 1) (r.map (·.2)))

/-- VMASKBM (R187). -/
def execVmaskbm (d : BitVec 4) (a : BitVec 4) (g : BitVec 4) (s : State) : Result :=
  .next (guarded g s fun s =>
    let m := (getV s a.toNat).map fun x => bitAt x 31
    setV s d.toNat ([bitsNat m, (m.filter id).length] ++ List.replicate 14 0))

/-- VMASKBM_X (R187). -/
def execVmaskbmX (d : BitVec 4) (a : BitVec 4) (g : BitVec 4) (s : State) : Result :=
  .next (guarded g s fun s =>
    let m := (getV s a.toNat).headD 0
    setV s d.toNat ((upTo 16).map fun i => if bitAt m i then 0xFFFFFFFF else 0))

end Sys2Proof.Machine
end

