-- ==== Sys2Proof/Machine/Dispatch.lean ====
section
/-!
DEFINITION. The meaning of every instruction, one arm per constructor.
-/
namespace Sys2Proof.Machine
open Sys2Proof

/-- What one instruction, or one step of the device, does in a state. -/
def exec (i : Instr) (s : State) : Host.Outcome State Fault Refusal :=
  match i with
  | .cNop g => Sys2Proof.Machine.execCNop g s
  | .br d g => Sys2Proof.Machine.execBr d g s
  | .call d g => Sys2Proof.Machine.execCall d g s
  | .jmpr b o g => Sys2Proof.Machine.execJmpr b o g s
  | .callr b o g => Sys2Proof.Machine.execCallr b o g s
  | .ret g => Sys2Proof.Machine.execRet g s
  | .loop d o g => Sys2Proof.Machine.execLoop d o g s
  | .ldB d b o g => Sys2Proof.Machine.execLdB d b o g s
  | .ldBu d b o g => Sys2Proof.Machine.execLdBu d b o g s
  | .ldH d b o g => Sys2Proof.Machine.execLdH d b o g s
  | .ldHu d b o g => Sys2Proof.Machine.execLdHu d b o g s
  | .ldW d b o g => Sys2Proof.Machine.execLdW d b o g s
  | .ldWu d b o g => Sys2Proof.Machine.execLdWu d b o g s
  | .ldD d b o g => Sys2Proof.Machine.execLdD d b o g s
  | .stB d b o g => Sys2Proof.Machine.execStB d b o g s
  | .stH d b o g => Sys2Proof.Machine.execStH d b o g s
  | .stW d b o g => Sys2Proof.Machine.execStW d b o g s
  | .stD d b o g => Sys2Proof.Machine.execStD d b o g s
  | .ldx d b c sc g => Sys2Proof.Machine.execLdx d b c sc g s
  | .ldxU d b c sc g => Sys2Proof.Machine.execLdxU d b c sc g s
  | .stx d b c sc g => Sys2Proof.Machine.execStx d b c sc g s
  | .ldOrdered d b o sc z g => Sys2Proof.Machine.execLdOrdered d b o sc z g s
  | .ldUOrdered d b o sc z g => Sys2Proof.Machine.execLdUOrdered d b o sc z g s
  | .stOrdered d b o sc z g => Sys2Proof.Machine.execStOrdered d b o sc z g s
  | .amadd d b w o sc g => Sys2Proof.Machine.execAmadd d b w o sc g s
  | .amfadd d b o sc g => Sys2Proof.Machine.execAmfadd d b o sc g s
  | .ammin d b w o sc g => Sys2Proof.Machine.execAmmin d b w o sc g s
  | .ammax d b w o sc g => Sys2Proof.Machine.execAmmax d b w o sc g s
  | .amand d b w o sc g => Sys2Proof.Machine.execAmand d b w o sc g s
  | .amor d b w o sc g => Sys2Proof.Machine.execAmor d b w o sc g s
  | .amxor d b w o sc g => Sys2Proof.Machine.execAmxor d b w o sc g s
  | .amxchg d b w o sc g => Sys2Proof.Machine.execAmxchg d b w o sc g s
  | .amcas d b w o sc g => Sys2Proof.Machine.execAmcas d b w o sc g s
  | .ldv d b c g => Sys2Proof.Machine.execLdv d b c g s
  | .stv d b c g => Sys2Proof.Machine.execStv d b c g s
  | .ldvs d b c g => Sys2Proof.Machine.execLdvs d b c g s
  | .stvs d b c g => Sys2Proof.Machine.execStvs d b c g s
  | .ldvg d b c g => Sys2Proof.Machine.execLdvg d b c g s
  | .stvg d b c g => Sys2Proof.Machine.execStvg d b c g s
  | .ivld d b o g => Sys2Proof.Machine.execIvld d b o g s
  | .ivst d b o g => Sys2Proof.Machine.execIvst d b o g s
  | .fence k sc g => Sys2Proof.Machine.execFence k sc g s
  | .pref h b g => Sys2Proof.Machine.execPref h b g s
  | .vappend d b c n g => Sys2Proof.Machine.execVappend d b c n g s
  | .vappendM d b c n g => Sys2Proof.Machine.execVappendM d b c n g s
  | .baste d g => Sys2Proof.Machine.execBaste d g s
  | .tack d b g => Sys2Proof.Machine.execTack d b g s
  | .unpick d b g => Sys2Proof.Machine.execUnpick d b g s
  | .bwin d b sc g => Sys2Proof.Machine.execBwin d b sc g s
  | .spawn a b g => Sys2Proof.Machine.execSpawn a b g s
  | .spawnC a b c g => Sys2Proof.Machine.execSpawnC a b c g s
  | .fork p g => Sys2Proof.Machine.execFork p g s
  | .forkC p c g => Sys2Proof.Machine.execForkC p c g s
  | .quit g => Sys2Proof.Machine.execQuit g s
  | .yield g => Sys2Proof.Machine.execYield g s
  | .yieldH g => Sys2Proof.Machine.execYieldH g s
  | .meet b m g => Sys2Proof.Machine.execMeet b m g s
  | .meetT a b m g => Sys2Proof.Machine.execMeetT a b m g s
  | .movm p b g => Sys2Proof.Machine.execMovm p b g s
  | .bara d b g => Sys2Proof.Machine.execBara d b g s
  | .barw a b g => Sys2Proof.Machine.execBarw a b g s
  | .barg e g => Sys2Proof.Machine.execBarg e g s
  | .launch p b o g => Sys2Proof.Machine.execLaunch p b o g s
  | .launchw b o g => Sys2Proof.Machine.execLaunchw b o g s
  | .taskArm a g => Sys2Proof.Machine.execTaskArm a g s
  | .taskDis a g => Sys2Proof.Machine.execTaskDis a g s
  | .qpush q k g => Sys2Proof.Machine.execQpush q k g s
  | .qpop q k g => Sys2Proof.Machine.execQpop q k g s
  | .qtry q k p g => Sys2Proof.Machine.execQtry q k p g s
  | .waitc l sc c t g => Sys2Proof.Machine.execWaitc l sc c t g s
  | .batch d g => Sys2Proof.Machine.execBatch d g s
  | .waitb n g => Sys2Proof.Machine.execWaitb n g s
  | .sbind sc z g => Sys2Proof.Machine.execSbind sc z g s
  | .sbindX sc g => Sys2Proof.Machine.execSbindX sc g s
  | .movs d sc g => Sys2Proof.Machine.execMovs d sc g s
  | .vmovs d sc g => Sys2Proof.Machine.execVmovs d sc g s
  | .gnext d b c p k g => Sys2Proof.Machine.execGnext d b c p k g s
  | .wakeon a p g => Sys2Proof.Machine.execWakeon a p g s
  | .wakeonX p g => Sys2Proof.Machine.execWakeonX p g s
  | .crpass d b g => Sys2Proof.Machine.execCrpass d b g s
  | .crtake d b g => Sys2Proof.Machine.execCrtake d b g s
  | .trap idx g => Sys2Proof.Machine.execTrap idx g s
  | .brk idx g => Sys2Proof.Machine.execBrk idx g s
  | .rett g => Sys2Proof.Machine.execRett g s
  | .rdsr d sc g => Sys2Proof.Machine.execRdsr d sc g s
  | .wrsr b sc g => Sys2Proof.Machine.execWrsr b sc g s
  | .swapwp d b g => Sys2Proof.Machine.execSwapwp d b g s
  | .liveP o g => Sys2Proof.Machine.execLiveP o g s
  | .liveD b g => Sys2Proof.Machine.execLiveD b g s
  | .slotw a b g => Sys2Proof.Machine.execSlotw a b g s
  | .stinv a b k g => Sys2Proof.Machine.execStinv a b k g s
  | .stinvAll a g => Sys2Proof.Machine.execStinvAll a g s
  | .kill d b g => Sys2Proof.Machine.execKill d b g s
  | .killT d b g => Sys2Proof.Machine.execKillT d b g s
  | .gang d b g => Sys2Proof.Machine.execGang d b g s
  | .mxrs d b g => Sys2Proof.Machine.execMxrs d b g s
  | .mxrsPage d b g => Sys2Proof.Machine.execMxrsPage d b g s
  | .mxrsPoison d b g => Sys2Proof.Machine.execMxrsPoison d b g s
  | .rdts d g => Sys2Proof.Machine.execRdts d g s
  | .rdctr d n g => Sys2Proof.Machine.execRdctr d n g s
  | .rdctrLo d n g => Sys2Proof.Machine.execRdctrLo d n g s
  | .rdctrHi d n g => Sys2Proof.Machine.execRdctrHi d n g s
  | .brLong ext g => Sys2Proof.Machine.execBrLong ext g s
  | .callLong ext g => Sys2Proof.Machine.execCallLong ext g s
  | .jmp ext g => Sys2Proof.Machine.execJmp ext g s
  | .li d ext g => Sys2Proof.Machine.execLi d ext g s
  | .lih d ext g => Sys2Proof.Machine.execLih d ext g s
  | .addiL d a ext g => Sys2Proof.Machine.execAddiL d a ext g s
  | .cmpiL p a c ext g => Sys2Proof.Machine.execCmpiL p a c ext g s
  | .ldBLong d b ext g => Sys2Proof.Machine.execLdBLong d b ext g s
  | .ldBuLong d b ext g => Sys2Proof.Machine.execLdBuLong d b ext g s
  | .ldHLong d b ext g => Sys2Proof.Machine.execLdHLong d b ext g s
  | .ldHuLong d b ext g => Sys2Proof.Machine.execLdHuLong d b ext g s
  | .ldWLong d b ext g => Sys2Proof.Machine.execLdWLong d b ext g s
  | .ldWuLong d b ext g => Sys2Proof.Machine.execLdWuLong d b ext g s
  | .ldDLong d b ext g => Sys2Proof.Machine.execLdDLong d b ext g s
  | .stBLong d b ext g => Sys2Proof.Machine.execStBLong d b ext g s
  | .stHLong d b ext g => Sys2Proof.Machine.execStHLong d b ext g s
  | .stWLong d b ext g => Sys2Proof.Machine.execStWLong d b ext g s
  | .stDLong d b ext g => Sys2Proof.Machine.execStDLong d b ext g s
  | .ldOrderedLong d b o sc z ext g => Sys2Proof.Machine.execLdOrderedLong d b o sc z ext g s
  | .ldUOrderedLong d b o sc z ext g => Sys2Proof.Machine.execLdUOrderedLong d b o sc z ext g s
  | .stOrderedLong d b o sc z ext g => Sys2Proof.Machine.execStOrderedLong d b o sc z ext g s
  | .ivldLong d b ext g => Sys2Proof.Machine.execIvldLong d b ext g s
  | .ivstLong d b ext g => Sys2Proof.Machine.execIvstLong d b ext g s
  | .meetLong a b ext g => Sys2Proof.Machine.execMeetLong a b ext g s
  | .launchLong p b ext g => Sys2Proof.Machine.execLaunchLong p b ext g s
  | .aNop g => Sys2Proof.Machine.execANop g s
  | .add d a b g => Sys2Proof.Machine.execAdd d a b g s
  | .sub d a b g => Sys2Proof.Machine.execSub d a b g s
  | .mul d a b g => Sys2Proof.Machine.execMul d a b g s
  | .mulh d a b g => Sys2Proof.Machine.execMulh d a b g s
  | .mulhu d a b g => Sys2Proof.Machine.execMulhu d a b g s
  | .div d a b g => Sys2Proof.Machine.execDiv d a b g s
  | .divu d a b g => Sys2Proof.Machine.execDivu d a b g s
  | .rem d a b g => Sys2Proof.Machine.execRem d a b g s
  | .remu d a b g => Sys2Proof.Machine.execRemu d a b g s
  | .and d a b g => Sys2Proof.Machine.execAnd d a b g s
  | .or d a b g => Sys2Proof.Machine.execOr d a b g s
  | .xor d a b g => Sys2Proof.Machine.execXor d a b g s
  | .andn d a b g => Sys2Proof.Machine.execAndn d a b g s
  | .shl d a b g => Sys2Proof.Machine.execShl d a b g s
  | .shr d a b g => Sys2Proof.Machine.execShr d a b g s
  | .sar d a b g => Sys2Proof.Machine.execSar d a b g s
  | .min d a b g => Sys2Proof.Machine.execMin d a b g s
  | .max d a b g => Sys2Proof.Machine.execMax d a b g s
  | .minu d a b g => Sys2Proof.Machine.execMinu d a b g s
  | .maxu d a b g => Sys2Proof.Machine.execMaxu d a b g s
  | .clz d a g => Sys2Proof.Machine.execClz d a g s
  | .popc d a g => Sys2Proof.Machine.execPopc d a g s
  | .brev d a g => Sys2Proof.Machine.execBrev d a g s
  | .extr d a b g => Sys2Proof.Machine.execExtr d a b g s
  | .extrS d a b g => Sys2Proof.Machine.execExtrS d a b g s
  | .ins d a b g => Sys2Proof.Machine.execIns d a b g s
  | .sel d a b n g => Sys2Proof.Machine.execSel d a b n g s
  | .rndc d a b g => Sys2Proof.Machine.execRndc d a b g s
  | .rndcU d a b g => Sys2Proof.Machine.execRndcU d a b g s
  | .addi d a idx g => Sys2Proof.Machine.execAddi d a idx g s
  | .andi d a idx g => Sys2Proof.Machine.execAndi d a idx g s
  | .ori d a idx g => Sys2Proof.Machine.execOri d a idx g s
  | .xori d a idx g => Sys2Proof.Machine.execXori d a idx g s
  | .shli d a sc g => Sys2Proof.Machine.execShli d a sc g s
  | .shri d a sc g => Sys2Proof.Machine.execShri d a sc g s
  | .sari d a sc g => Sys2Proof.Machine.execSari d a sc g s
  | .cmp p a b c g => Sys2Proof.Machine.execCmp p a b c g s
  | .cmpi c p a idx g => Sys2Proof.Machine.execCmpi c p a idx g s
  | .cmpiLeGtLtuGeu c p a idx g => Sys2Proof.Machine.execCmpiLeGtLtuGeu c p a idx g s
  | .plog d a b t g => Sys2Proof.Machine.execPlog d a b t g s
  | .fadd d a b g => Sys2Proof.Machine.execFadd d a b g s
  | .fsub d a b g => Sys2Proof.Machine.execFsub d a b g s
  | .fmul d a b g => Sys2Proof.Machine.execFmul d a b g s
  | .fdiv d a b g => Sys2Proof.Machine.execFdiv d a b g s
  | .fsqrt d a g => Sys2Proof.Machine.execFsqrt d a g s
  | .fmin d a b g => Sys2Proof.Machine.execFmin d a b g s
  | .fmax d a b g => Sys2Proof.Machine.execFmax d a b g s
  | .fsgnJ d a b g => Sys2Proof.Machine.execFsgnJ d a b g s
  | .fsgnJn d a b g => Sys2Proof.Machine.execFsgnJn d a b g s
  | .fsgnJx d a b g => Sys2Proof.Machine.execFsgnJx d a b g s
  | .fsgnJPred d a p g => Sys2Proof.Machine.execFsgnJPred d a p g s
  | .fsgnJnPred d a p g => Sys2Proof.Machine.execFsgnJnPred d a p g s
  | .fsgnJxPred d a p g => Sys2Proof.Machine.execFsgnJxPred d a p g s
  | .ffma d a b c g => Sys2Proof.Machine.execFfma d a b c g s
  | .fcmp p a b c g => Sys2Proof.Machine.execFcmp p a b c g s
  | .fclass d a g => Sys2Proof.Machine.execFclass d a g s
  | .fcvt d a t sc g => Sys2Proof.Machine.execFcvt d a t sc g s
  | .frnd d a m g => Sys2Proof.Machine.execFrnd d a m g s
  | .ivmk d a b g => Sys2Proof.Machine.execIvmk d a b g s
  | .ivmkR d a b g => Sys2Proof.Machine.execIvmkR d a b g s
  | .ivlo d a g => Sys2Proof.Machine.execIvlo d a g s
  | .ivhi d a g => Sys2Proof.Machine.execIvhi d a g s
  | .iwid d a g => Sys2Proof.Machine.execIwid d a g s
  | .imid d a g => Sys2Proof.Machine.execImid d a g s
  | .ivloNs d g => Sys2Proof.Machine.execIvloNs d g s
  | .ivloNsc d g => Sys2Proof.Machine.execIvloNsc d g s
  | .iadd d a b g => Sys2Proof.Machine.execIadd d a b g s
  | .isub d a b g => Sys2Proof.Machine.execIsub d a b g s
  | .imul d a b g => Sys2Proof.Machine.execImul d a b g s
  | .idiv d a b g => Sys2Proof.Machine.execIdiv d a b g s
  | .isq d a g => Sys2Proof.Machine.execIsq d a g s
  | .isqrt d a g => Sys2Proof.Machine.execIsqrt d a g s
  | .iexp2 d a g => Sys2Proof.Machine.execIexp2 d a g s
  | .imax d a b g => Sys2Proof.Machine.execImax d a b g s
  | .imin d a b g => Sys2Proof.Machine.execImin d a b g s
  | .ihull d a b g => Sys2Proof.Machine.execIhull d a b g s
  | .iisect d a b g => Sys2Proof.Machine.execIisect d a b g s
  | .icmp k a b c g => Sys2Proof.Machine.execIcmp k a b c g s
  | .icont k a b g => Sys2Proof.Machine.execIcont k a b g s
  | .iaddc z x y n g => Sys2Proof.Machine.execIaddc z x y n g s
  | .imulc z x y n g => Sys2Proof.Machine.execImulc z x y n g s
  | .isqc z x n g => Sys2Proof.Machine.execIsqc z x n g s
  | .imaxc z x y n g => Sys2Proof.Machine.execImaxc z x y n g s
  | .iexp2c z x n g => Sys2Proof.Machine.execIexp2c z x n g s
  | .vadd d a b t g => Sys2Proof.Machine.execVadd d a b t g s
  | .vsub d a b t g => Sys2Proof.Machine.execVsub d a b t g s
  | .vmul d a b t g => Sys2Proof.Machine.execVmul d a b t g s
  | .vmin d a b t g => Sys2Proof.Machine.execVmin d a b t g s
  | .vmax d a b t g => Sys2Proof.Machine.execVmax d a b t g s
  | .vfma d a b c g => Sys2Proof.Machine.execVfma d a b c g s
  | .vfmaLns d a b c g => Sys2Proof.Machine.execVfmaLns d a b c g s
  | .vand d a b g => Sys2Proof.Machine.execVand d a b g s
  | .vor d a b g => Sys2Proof.Machine.execVor d a b g s
  | .vxor d a b g => Sys2Proof.Machine.execVxor d a b g s
  | .vshl d a b g => Sys2Proof.Machine.execVshl d a b g s
  | .vshr d a b g => Sys2Proof.Machine.execVshr d a b g s
  | .vshrA d a b g => Sys2Proof.Machine.execVshrA d a b g s
  | .vcmp d a b t c g => Sys2Proof.Machine.execVcmp d a b t c g s
  | .vsel d a b c g => Sys2Proof.Machine.execVsel d a b c g s
  | .vcvt d a c x y g => Sys2Proof.Machine.execVcvt d a c x y g s
  | .vexp2 d a g => Sys2Proof.Machine.execVexp2 d a g s
  | .vlog2 d a g => Sys2Proof.Machine.execVlog2 d a g s
  | .vrcp d a g => Sys2Proof.Machine.execVrcp d a g s
  | .vrsq d a g => Sys2Proof.Machine.execVrsq d a g s
  | .vredsum d a t g => Sys2Proof.Machine.execVredsum d a t g s
  | .vredmax d a t g => Sys2Proof.Machine.execVredmax d a t g s
  | .vscan d a t g => Sys2Proof.Machine.execVscan d a t g s
  | .vperm d a b c g => Sys2Proof.Machine.execVperm d a b c g s
  | .vidx d g => Sys2Proof.Machine.execVidx d g s
  | .vidxF d g => Sys2Proof.Machine.execVidxF d g s
  | .vmovx d a b g => Sys2Proof.Machine.execVmovx d a b g s
  | .vins d a b g => Sys2Proof.Machine.execVins d a b g s
  | .vbcast d a g => Sys2Proof.Machine.execVbcast d a g s
  | .vsortk d a r k g => Sys2Proof.Machine.execVsortk d a r k g s
  | .vmaskbm d a g => Sys2Proof.Machine.execVmaskbm d a g s
  | .vmaskbmX d a g => Sys2Proof.Machine.execVmaskbmX d a g s
  | .viadd d a b g => Sys2Proof.Machine.execViadd d a b g s
  | .vimul d a b g => Sys2Proof.Machine.execVimul d a b g s
  | .vifma d a b c g => Sys2Proof.Machine.execVifma d a b c g s
  | .vimax d a b g => Sys2Proof.Machine.execVimax d a b g s
  | .vicmp d a b c g => Sys2Proof.Machine.execVicmp d a b c g s
  | .vappendReserve id => Sys2Proof.Machine.execVappendReserve id s
  | .slotTableUpdate core => Sys2Proof.Machine.execSlotTableUpdate core s
  | .loadDataLands id => Sys2Proof.Machine.execLoadDataLands id s
  | .storePerformed id => Sys2Proof.Machine.execStorePerformed id s
  | .pageWalk tid va kind => Sys2Proof.Machine.execPageWalk tid va kind s
  | .roBufferFill cluster pid va => Sys2Proof.Machine.execRoBufferFill cluster pid va s
  | .nbrAccess id => Sys2Proof.Machine.execNbrAccess id s
  | .activeMessage core tid => Sys2Proof.Machine.execActiveMessage core tid s
  | .slotFill core slot => Sys2Proof.Machine.execSlotFill core slot s
  | .spoolKeyAging tid => Sys2Proof.Machine.execSpoolKeyAging tid s
  | .launchCheck h => Sys2Proof.Machine.execLaunchCheck h s
  | .launchCompletion h => Sys2Proof.Machine.execLaunchCompletion h s
  | .launchwWake part => Sys2Proof.Machine.execLaunchwWake part s
  | .seamArrival tid => Sys2Proof.Machine.execSeamArrival tid s
  | .seamRoundClose pid tbl => Sys2Proof.Machine.execSeamRoundClose pid tbl s
  | .seamDeadlineRelease pid tbl idx => Sys2Proof.Machine.execSeamDeadlineRelease pid tbl idx s
  | .slotWaitTimeout tid => Sys2Proof.Machine.execSlotWaitTimeout tid s
  | .stinvCompletion id => Sys2Proof.Machine.execStinvCompletion id s
  | .stationRevokeAck station pid => Sys2Proof.Machine.execStationRevokeAck station pid s
  | .mxuTile core => Sys2Proof.Machine.execMxuTile core s
  | .mxuDrain core => Sys2Proof.Machine.execMxuDrain core s
  | .mxuCtx core => Sys2Proof.Machine.execMxuCtx core s
  | .mxuStep core => Sys2Proof.Machine.execMxuStep core s
  | .mxuRowDrain core => Sys2Proof.Machine.execMxuRowDrain core s
  | .copy core => Sys2Proof.Machine.execCopy core s
  | .copyPacket id dest => Sys2Proof.Machine.execCopyPacket id dest s
  | .landingHandlerStart core => Sys2Proof.Machine.execLandingHandlerStart core s
  | .copyBarrierArrival id core => Sys2Proof.Machine.execCopyBarrierArrival id core s
  | .copyCompletion id => Sys2Proof.Machine.execCopyCompletion id s
  | .colsum core => Sys2Proof.Machine.execColsum core s
  | .columnSumAdd id row => Sys2Proof.Machine.execColumnSumAdd id row s
  | .colsumLanding id => Sys2Proof.Machine.execColsumLanding id s
  | .obj core => Sys2Proof.Machine.execObj core s
  | .load core => Sys2Proof.Machine.execLoad core s
  | .detach core => Sys2Proof.Machine.execDetach core s
  | .arm core => Sys2Proof.Machine.execArm core s
  | .clear core => Sys2Proof.Machine.execClear core s
  | .snap core => Sys2Proof.Machine.execSnap core s
  | .free core => Sys2Proof.Machine.execFree core s
  | .measureEvent cluster tenant words => Sys2Proof.Machine.execMeasureEvent cluster tenant words s
  | .routerSample cluster => Sys2Proof.Machine.execRouterSample cluster s
  | .filterRun cluster => Sys2Proof.Machine.execFilterRun cluster s
  | .budgetWindow cluster => Sys2Proof.Machine.execBudgetWindow cluster s
  | .faultNotification pid x1 x2 x3 x4 => Sys2Proof.Machine.execFaultNotification pid x1 x2 x3 x4 s
  | .ccgoResume pid rec => Sys2Proof.Machine.execCcgoResume pid rec s
  | .ccgoTrap pid rec cause => Sys2Proof.Machine.execCcgoTrap pid rec cause s
  | .ccgoRetire pid rec => Sys2Proof.Machine.execCcgoRetire pid rec s
  | .ccgoStop pid rec => Sys2Proof.Machine.execCcgoStop pid rec s
  | .ccgoCresume pid rec seq => Sys2Proof.Machine.execCcgoCresume pid rec seq s
  | .ccgoCend pid rec seq cause => Sys2Proof.Machine.execCcgoCend pid rec seq cause s
  | .async tid => Sys2Proof.Machine.execAsync tid s
  | .worldSwitch part => Sys2Proof.Machine.execWorldSwitch part s
  | .preemptTurnLimit tid => Sys2Proof.Machine.execPreemptTurnLimit tid s
  | .worldRestore part => Sys2Proof.Machine.execWorldRestore part s
  | .class0Switch part => Sys2Proof.Machine.execClass0Switch part s
  | .returnSwitch part => Sys2Proof.Machine.execReturnSwitch part s
  | .quantumSliceEnd part => Sys2Proof.Machine.execQuantumSliceEnd part s
  | .killCompletion id => Sys2Proof.Machine.execKillCompletion id s
  | .dcmdHalt core pid => Sys2Proof.Machine.execDcmdHalt core pid s
  | .dcmdStop core slot pid => Sys2Proof.Machine.execDcmdStop core slot pid s
  | .dcmdStep core slot pid n => Sys2Proof.Machine.execDcmdStep core slot pid n s
  | .dcmdRstep core slot pid n => Sys2Proof.Machine.execDcmdRstep core slot pid n s
  | .dcmdGo core slot pid => Sys2Proof.Machine.execDcmdGo core slot pid s
  | .dcmdDlogOn core slot pid => Sys2Proof.Machine.execDcmdDlogOn core slot pid s
  | .dcmdDlogOff core slot pid => Sys2Proof.Machine.execDcmdDlogOff core slot pid s
  | .dcmdMark core slot pid => Sys2Proof.Machine.execDcmdMark core slot pid s
  | .dcmdTrim core slot pid => Sys2Proof.Machine.execDcmdTrim core slot pid s
  | .crownPassMessage core ring => Sys2Proof.Machine.execCrownPassMessage core ring s
  | .crtakeRecheck tid => Sys2Proof.Machine.execCrtakeRecheck tid s
  | .flitCrcError die resends acc => Sys2Proof.Machine.execFlitCrcError die resends acc s
  | .linkReplay link replays => Sys2Proof.Machine.execLinkReplay link replays s
  | .linkRetrain link => Sys2Proof.Machine.execLinkRetrain link s
  | .linkDown link => Sys2Proof.Machine.execLinkDown link s
  | .inboundRequest rid pasid va wr len => Sys2Proof.Machine.execInboundRequest rid pasid va wr len s
  | .msi vec data => Sys2Proof.Machine.execMsi vec data s
  | .surpriseDown port => Sys2Proof.Machine.execSurpriseDown port s
  | .reset => Sys2Proof.Machine.execReset s
  | .exti idx => Sys2Proof.Machine.execExti idx s
  | .qgo => Sys2Proof.Machine.execQgo s
  | .quoteComplete => Sys2Proof.Machine.execQuoteComplete s
  | .fvadv v => Sys2Proof.Machine.execFvadv v s
  | .tadm t => Sys2Proof.Machine.execTadm t s
  | .powerWindow watts => Sys2Proof.Machine.execPowerWindow watts s
  | .currentLimit => Sys2Proof.Machine.execCurrentLimit s
  | .registerWrite addr bytes level => Sys2Proof.Machine.execRegisterWrite addr bytes level s
  | .arithmeticCycle core => Sys2Proof.Machine.execArithmeticCycle core s
  | .illeg bundle => Sys2Proof.Machine.execIlleg bundle s
  | .linkRetrained link => Sys2Proof.Machine.execLinkRetrained link s
  | .aerError port code => Sys2Proof.Machine.execAerError port code s

end Sys2Proof.Machine
end

