-- ==== Sys2Proof/Machine/Step.lean ====
section
/-!
DEFINITION. One step of the package, and an instruction laid where the next step fetches.
-/
namespace Sys2Proof.Machine

/-- One step: a pending step of a unit, a core's turn with the bundle it issues, or the beginning of the next cycle (R1, R14,
R122). -/
noncomputable def step (s : State) : Host.Outcome State Fault Refusal := stepWith exec s

/-- The state with a table word where the next step fetches (log entry 39, DESIGN CHOICE). -/
noncomputable def State.withFetchWord (s : State) (_nbits w : Nat) : State := placeBundle s (tableBundle w)

end Sys2Proof.Machine
end

