-- ==== Sys2Proof/Safety.lean ====
section
/-!
DEFINITION. What counts as a safe run, and the terms in which the statements say what an instruction changes.
-/
namespace Sys2Proof.Safety
open Sys2Proof Sys2Proof.Machine

/-- The state that `n` steps lead to, if none of them stops. -/
noncomputable def runFor : Nat → State → Option State
  | 0, s => some s
  | n + 1, s =>
    match step s with
    | .next t => runFor n t
    | _ => none

/-- No number of steps from a state ends in a fault or a refusal. -/
def NeverStops (s : State) : Prop := ∀ n, (runFor n s).isSome

/-- The memories of the package are in their canonical form. -/
def MemoriesCanonical (s : State) : Prop := s.pool.wf = true ∧ s.hbm.wf = true ∧ s.sys.wf = true

/-! ### Frames -/

/-- `t` is `s` but for the bytes `l` written to the pools from the key `a`: they read as written, every other byte of the pools reads
as before, only granules that the write covers lose their poison mark, and no other part of the package has changed. -/
def PoolSet (s t : State) (a : Nat) (l : List Byte) : Prop :=
  t.pool.readBytes a l.length = l ∧
  (∀ b, b < a ∨ a + l.length ≤ b → t.pool.read b = s.pool.read b) ∧
  t.pool.wf = true ∧
  (∀ g, g ∈ t.poolPoison ↔ g ∈ s.poolPoison ∧ ¬ (a ≤ 8 * g ∧ 8 * g + 8 ≤ a + l.length)) ∧
  t = { s with pool := t.pool, poolPoison := t.poolPoison }

/-- `t` is `s` but for general register `d` of the workspace, which holds `v`; a write to x0 is discarded (R7). -/
def XSet (s t : State) (d : Nat) (v : W64) : Prop :=
  if d = 0 then t = s else PoolSet s t (wsOf s + 8 * d) (leBytes 8 v.toNat)

/-- `t` is `s` but for interval register `d`, which holds the two FP32 patterns of `i` (R110). -/
def IvSet (s t : State) (d : Nat) (i : Ival) : Prop :=
  PoolSet s t (wsOf s + 0x100 + 8 * d) (leBytes 8 (i.lo % 2 ^ 32 + 2 ^ 32 * (i.hi % 2 ^ 32)))

/-- `t` is `s` but for vector register `d`, whose lanes hold `l` (R173). -/
def VSet (s t : State) (d : Nat) (l : List Nat) : Prop :=
  PoolSet s t (wsOf s + 0x400 + 0x40 * d) (laneBytes 4 l)

/-- `t` is `s` but for the word of the status block at an offset (R9). -/
def StatSet (s t : State) (off v : Nat) : Prop := PoolSet s t (wsOf s + off) (leBytes 4 v)

/-- `t` is `s` but for predicate `n`, which is `b`: STAT's other bits stand, and a write to p0 is discarded (R9). -/
def PredSet (s t : State) (n : Nat) (b : Bool) : Prop :=
  if n = 0 then t = s else StatSet s t 0x180 (setBits (liveSt s 0x180 4) n 1 (b2n b))

/-- `t` is `s` but for FFLAGS, into which `f` is ORed; without a flag it is `s` (R26, R63). -/
def FlagsOr (s t : State) (f : Flags) : Prop :=
  if f = 0 then t = s else StatSet s t 0x184 (liveSt s 0x184 4 ||| f.toNat)

/-- No flag of `f` is enabled in FMODE, so that it raises no FPE (R23, R26). -/
def NoTrap (s : State) (f : Flags) : Prop := f &&& BitVec.ofNat 5 (bits (fmode s) 3 5) = 0

/-- FMODE holds a rounding mode and no reserved bit (R10). -/
def Rounds (s : State) (rm : Rm) : Prop := rmOf (bits (fmode s) 0 3) = some rm ∧ bits (fmode s) 10 22 = 0

/-- Only the current thread's own fields have changed, as `f` says. -/
def CurSet (s t : State) (f : Thread → Thread) : Prop := t = { s with cur := f s.cur }

/-! ### What an instruction answers -/

/-- The instruction completes and changes only general register `d`, which then holds `v`. -/
def GivesX (i : Instr) (s : State) (d : BitVec 5) (v : W64) : Prop := ∃ t, exec i s = .next t ∧ XSet s t d.toNat v

/-- The same for an instruction that also costs `n` further turns of its slot (R70). -/
def GivesXTurns (n : Nat) (i : Instr) (s : State) (d : BitVec 5) (v : W64) : Prop :=
  ∃ t, exec i s = .next t ∧ XSet (forfeits n s) t d.toNat v

/-- The instruction completes and changes only predicate `p`. -/
def GivesP (i : Instr) (s : State) (p : BitVec 3) (b : Bool) : Prop := ∃ t, exec i s = .next t ∧ PredSet s t p.toNat b

/-- The state with `n` further turns forfeited (R70, R109); without any it is the state itself. -/
def withTurns (n : Nat) (s : State) : State := if n = 0 then s else forfeits n s

/-- The instruction completes and changes only interval register `d`, apart from `n` further turns (R109) and the turns of subnormal
bounds (`sub`, R27). -/
def GivesIv (n : Nat) (sub : Bool) (i : Instr) (s : State) (d : BitVec 4) (v : Ival) : Prop :=
  ∃ t, exec i s = .next (subnormalTurns sub t) ∧ IvSet (withTurns n s) t d.toNat v

/-- The instruction completes and changes only the lanes of vector register `d`. -/
def GivesV (i : Instr) (s : State) (d : BitVec 4) (l : List Nat) : Prop := ∃ t, exec i s = .next t ∧ VSet s t d.toNat l

/-- The instruction completes with an FP32 result `r.1` in general register `d`, zero-extended (R69), ORs the flags `r.2` into FFLAGS,
and changes nothing else but the turns it costs: `n` by its opcode, and those of a subnormal operand or result (`sub`, R27). -/
def GivesF (n : Nat) (sub : Bool) (i : Instr) (s : State) (d : BitVec 5) (r : Nat × Flags) : Prop :=
  ∃ u t, FlagsOr (withTurns n s) u r.2 ∧ XSet u t d.toNat (BitVec.ofNat 64 (r.1 % 2 ^ 32)) ∧ exec i s = .next (subnormalTurns sub t)

/-- The instruction completes with the lanes `r`, whose flags together are ORed into FFLAGS (R174). -/
def GivesVF (sub : Bool) (i : Instr) (s : State) (d : BitVec 4) (r : List (Nat × Flags)) : Prop :=
  ∃ u t, FlagsOr s u (orFlags r) ∧ VSet u t d.toNat (r.map (·.1)) ∧ exec i s = .next (subnormalTurns sub t)

/-- The instruction completes and writes the pair of vector registers 2k and 2k+1. -/
def GivesVV (sub : Bool) (i : Instr) (s : State) (k : BitVec 3) (lo hi : List Nat) : Prop :=
  ∃ u t, VSet s u (2 * k.toNat) lo ∧ VSet u t (2 * k.toNat + 1) hi ∧ exec i s = .next (subnormalTurns sub t)

/-- STAT's bit is set, or the state stands. -/
def StatBitIf (c : Bool) (s t : State) (bit : Nat) : Prop :=
  if c then StatSet s t 0x180 (setBits (liveSt s 0x180 4) bit 1 1) else t = s

/-! ### Accesses -/

/-- A register of the workspace at `base` holds `v`, and no other byte of the package has changed; a write to x0 is discarded (R7). -/
def RegSet (s t : State) (base d : Nat) (v : W64) : Prop :=
  if d = 0 then t = s else PoolSet s t (base + 8 * d) (leBytes 8 v.toNat)

/-- `t` is `s` but for the bytes `l` written to main memory from the physical address `a`. -/
def HbmSet (s t : State) (a : Nat) (l : List Byte) : Prop :=
  t.hbm.readBytes a l.length = l ∧
  (∀ b, b < a ∨ a + l.length ≤ b → t.hbm.read b = s.hbm.read b) ∧
  t.hbm.wf = true ∧
  (∀ g, g ∈ t.hbmPoison ↔ g ∈ s.hbmPoison ∧ ¬ (a ≤ 8 * g ∧ 8 * g + 8 ≤ a + l.length)) ∧
  t = { s with hbm := t.hbm, hbmPoison := t.hbmPoison }

/-- `t` is `s` but for the bytes `l` that the thread `own` stores to the pools from the key `a`: the words of x0 and the read-only bytes
of its own status blocks keep their bits (R7, R8), every byte outside reads as before. -/
def PoolStored (own : Option Thread) (s t : State) (a : Nat) (l : List Byte) : Prop :=
  (∀ i, i < l.length →
    let m := storeMask s own (a + i)
    t.pool.read (a + i) = (l.getD i 0 &&& m) ||| (s.pool.read (a + i) &&& ~~~m)) ∧
  (∀ b, b < a ∨ a + l.length ≤ b → t.pool.read b = s.pool.read b) ∧
  t.pool.wf = true ∧
  (∀ g, g ∈ t.poolPoison ↔ g ∈ s.poolPoison ∧ ¬ (a ≤ 8 * g ∧ 8 * g + 8 ≤ a + l.length)) ∧
  t = { s with pool := t.pool, poolPoison := t.poolPoison }

/-- `t` is `s` with one more access in flight, whose step `ev` the device has still to take; the registers it will write are
pending (R71), and nothing else has changed. -/
def InFlight (s t : State) (a : Access) (ev : Nat → Event) : Prop :=
  t = { s with
    accesses := s.accesses ++ [{ a with id := s.nextId }]
    nextId := s.nextId + 1
    agenda := s.agenda ++ [ev s.nextId]
    cur := { s.cur with
      pend := s.cur.pend ++ (destRegs a.dst).map fun r => { base := a.base, reg := r, id := s.nextId } } }

/-- The access is over: it is no longer in flight, no register and no fence of its thread waits for it, and nothing else has changed. -/
def AccessOver (s t : State) (a : Access) : Prop :=
  t = ({ s with accesses := s.accesses.filter fun b => b.id ≠ a.id }).modThread a.tid fun h => h.afterAccess a.id s.roNext

/-- A MEET that waits for its answer keeps the workspace from before its bundle: an earlier access that writes register `d` meanwhile writes it
there too, unpoisoned, and nothing else has changed (R71, R148). -/
def MeetKeeps (s t : State) (a : Access) (d : Nat) (v : W64) : Prop :=
  t = s.modThread a.tid fun h =>
    { h with seam := h.seam.map fun r =>
        if d = 0 then r
        else { r with
          undo := r.undo.writeNat (a.base + 8 * d) 8 v.toNat
          undoPoison := unpoison r.undoPoison (a.base + 8 * d) 8 } }

/-- No link on the way to the undo entries of an access retrains (R391). -/
def LogsReachable (s : State) (a : Access) : Prop :=
  ∀ r ∈ a.logs, ∀ l, logPlace s a.pid r.off = some l → linkBusy s (dieOf a.core) l = false

/-- The answer of an access has arrived: its register holds `v`, and the access is over. -/
def Lands (s t : State) (a : Access) (d : Nat) (v : W64) : Prop := ∃ u w, RegSet s u a.base d v ∧ MeetKeeps u w a d v ∧ AccessOver w t a

/-- A place `d` bytes on. -/
def plusLoc : Loc → Nat → Loc
  | .mem a, d => .mem (a + d)
  | .pool a, d => .pool (a + d)
  | .sys a, d => .sys (a + d)
  | .log p a, d => .log p (a + d)
  | .meas n a, d => .meas n (a + d)
  | .dropped, _ => .dropped

/-- The pieces of `w` bytes that an access of `n` bytes at a pointer is made in. -/
def piecesAt (p : W64) (l : Loc) (n w : Nat) (data : Nat → List Byte) : List Piece :=
  (upTo (n / w)).map fun i => { ptr := p + BitVec.ofNat 64 (w * i), loc := plusLoc l (w * i), n := w, data := data i }

/-- A load of `n` bytes at `p` in pieces of `w`, which no fence or ordered access holds back and whose pointer passes every
check, completes: it is in flight. What is accessed at the bundle's issue is read at once, and the bundle issues again later where an
earlier access of the thread still reaches its bytes (R71, R198, R224); another core's pool is read by the core it names. -/
def GivesLoad (i : Instr) (s : State) (p : W64) (n w : Nat) (dst : Dest) (ord scope : Nat) : Prop :=
  ∀ l, heldBack s false (pathOf p == 1) = false → checkPtr s s.cur .load p n 0 = .ok l →
    let u := countDrops s [l]
    let raw := piecesAt p l n w fun _ => []
    let now := atIssue u raw
    let ps := piecesAt p l n w fun i => if now then readLoc u (plusLoc l (w * i)) w else []
    (now = true → notYet u raw = true → exec i s = .next (retry u)) ∧
    ((now = true → notYet u raw = false) → ∃ t, exec i s = .next t ∧
      InFlight u t { newAccess u (pathOf p) .load ps dst ord scope with
          early := now, poison := now && ps.any fun q => poisonedLoc u q.loc q.n }
        (if farPool u l then .nbrAccess else .loadDataLands))

/-- The state in which a store or atomic to a place goes on: an open window of its thread is fixed where the place cannot be
restored (R216). -/
def fixedFor (s : State) (l : Loc) : State := if fixesWindow l ∧ nopen s ≠ 0 then setSt s 0x192 1 (nopen s) else s

/-- What a store or an atomic of `n` bytes at `p` needs to go on: no fence or ordered access holds it back, its pointer passes every
check with the place `l`, its windows may be fixed, and the undo log has taken its entries, which leads to `u` (R211, R215, R216); a
dropped one has been counted (R210). The event of an AMCAS's entry comes later (R315). -/
def MayStore (s u : State) (kind : AccKind) (op : AccOp) (p : W64) (n v : Nat) (l : Loc) (offs : List Nat) : Prop :=
  let s0 := countDrops s [l]
  heldBack s true false = false ∧ checkPtr s s.cur kind p n v = .ok l ∧
  (fixesWindow l ∧ nopen s0 ≠ 0 → strictLog s0 s0.cur.pid = false) ∧
  appendPolicy s0.cur.tid s0.cur.core s0.cur.pid (opEntries op (entriesFor [(p, l, n)])) (openCount (fixedFor s0 l) s0.cur.pid) (fixedFor s0 l) = .ok u offs

/-- The undo entries of an access of the current thread of `u`, with the place that each records and their window. -/
def logRefs (u : State) (entry : List (W64 × Loc × Nat)) (offs : List Nat) : List LogRef :=
  (offs.zip (entry.filter fun e => loggedPlace e.1 e.2.1)).map fun r => { off := r.1, loc := r.2.2.1, n := r.2.2.2, win := entryWin u }

/-- The release of some pieces is behind no earlier access of its thread (R236, R247). -/
def NotBehind (s : State) (ord scope : Nat) (ps : List Piece) : Prop := releaseBehind s s.cur.tid s.nextId ord scope ps = false

/-- A store of the `n` low bytes of `v` at `p` completes. In the pool of the own core its bytes are written at once, after the bytes they
replace are in the thread's undo entries, unless it is a release behind earlier accesses; else the store is in flight (R71, R211,
R227, R247). -/
def GivesStore (i : Instr) (s : State) (p : W64) (n v ord scope : Nat) : Prop :=
  ∀ u l offs, MayStore s u .store .store p n (v % 2 ^ (8 * n)) l offs →
    let s0 := countDrops s [l]
    let piece : Piece := { ptr := p, loc := l, n := n, data := leBytes n v }
    let a : Access := { newAccess u (pathOf p) .store [piece] .none ord scope with logs := logRefs u [(p, l, n)] offs }
    (ownCore s0 l = true → NotBehind s0 ord scope [piece] ∨ ringPlace s0 l = true → notYet s0 [piece] = false →
      ∃ t k, l = .pool k ∧ exec i s = .next t ∧
        PoolStored (u.thread? u.cur.tid) (openRelease (patchLogs u a piece) a piece) t k (leBytes n v)) ∧
    ((ownCore s0 l = true → ¬ NotBehind s0 ord scope [piece] ∧ ringPlace s0 l = false) →
      ∃ t, exec i s = .next t ∧ InFlight u t a (if farPool s0 l then .nbrAccess else .storePerformed))

/-- An atomic with code `aop`, operand `k`, comparand `cmp` and count `mcnt` at `p` completes. In the pool of the own core it is performed
at once, and only its answer is in flight, unless it is a release behind earlier accesses; else the atomic is in flight (R104,
R198, R229, R247). -/
def GivesAtomic (i : Instr) (s : State) (d : BitVec 5) (p : W64) (n aop k cmp mcnt ord scope : Nat) : Prop :=
  ∀ u l offs, MayStore s u .atomic (.rmw aop k cmp mcnt) p n 0 l offs →
    let s0 := countDrops s [l]
    let piece : Piece := { ptr := p, loc := l, n := n, data := [] }
    let a : Access := { newAccess u (pathOf p) (.rmw aop k cmp mcnt) [piece] (rmwDest d aop n) ord scope with
      logs := logRefs u [(p, l, n)] offs }
    (ownCore s0 l = true → NotBehind s0 ord scope [piece] ∨ ringPlace s0 l = true → notYet s0 [piece] = false →
      let r := performRmw u a piece aop k cmp mcnt
      ∃ t, exec i s = .next t ∧
        InFlight r.1 t { a with op := .load, early := true, poison := r.2.2, pieces := [{ piece with data := leBytes n r.2.1 }] }
          .loadDataLands) ∧
    ((ownCore s0 l = true → ¬ NotBehind s0 ord scope [piece] ∧ ringPlace s0 l = false) →
      ∃ t, exec i s = .next t ∧ InFlight u t a (if farPool s0 l then .nbrAccess else .storePerformed))

/-- The pieces of 4 bytes of an access of 16 lanes. -/
def lanePieces (ptrs : List W64) (ls : List Loc) (data : Loc → List Byte) : List Piece :=
  (ptrs.zip ls).map fun q => { ptr := q.1, loc := q.2, n := 4, data := data q.2 }

/-- All lanes' pointers have the path and reserved bits of the base pointer (R250). -/
def SameTops (base : W64) (ptrs : List W64) : Prop := ∀ p ∈ ptrs, p.toNat / 2 ^ 57 = base.toNat / 2 ^ 57

/-- A load of 16 lanes from separate words completes, as `GivesLoad` (R249, R250). -/
def GivesLoadLanes (i : Instr) (s : State) (base : W64) (ptrs : List W64) (dst : Dest) : Prop :=
  ∀ ls, SameTops base ptrs → heldBack s false (pathOf (ptrs.headD 0) == 1) = false → checkPtrs s s.cur .load 4 [] ptrs = .ok ls →
    let u := countDrops s ls
    let raw := lanePieces ptrs ls fun _ => []
    let now := !(ls.any (farPool u)) && atIssue u raw
    let ps := lanePieces ptrs ls fun l => if now then readLoc u l 4 else []
    (now = true → notYet u raw = true → exec i s = .next (retry u)) ∧
    ((now = true → notYet u raw = false) → ∃ t, exec i s = .next t ∧
      InFlight u t { newAccess u (pathOf (ptrs.headD 0)) .load ps dst 0 0 with
          early := now, poison := now && ps.any fun q => poisonedLoc u q.loc 4 }
        (if ls.any (farPool u) then .nbrAccess else .loadDataLands))

/-- The state in which the stores of several pieces go on (R216). -/
def fixedForAll (s : State) (ls : List Loc) : State := if ls.any fixesWindow ∧ nopen s ≠ 0 then setSt s 0x192 1 (nopen s) else s

/-- No earlier access of the current thread is still to be performed to lines whose bytes a vector store's undo entries would hold (R211). -/
def LinesFree (s : State) (places : List (W64 × Loc × Nat)) : Prop :=
  (!(entriesFor places s).isEmpty && lineBusy s ((storeEntries places true).filter fun p => loggedPlace p.1 p.2.1)) = false

/-- A vector store of pointers, each of `n` bytes in pieces of 4, completes: every pointer is checked before any byte is stored, the lines it
touches are logged once each, and register words of the own thread are stored at once, in the order of the lanes; all else is in
flight (R188, R249 to R251). -/
def GivesStoreLanes (i : Instr) (s : State) (base : W64) (ptrs : List W64) (n : Nat) (data : Nat → List Byte) : Prop :=
  ∀ u ls offs, SameTops base ptrs → heldBack s true false = false →
    checkPtrs s s.cur .store n ((upTo ptrs.length).map fun i => leNat (data i)) ptrs = .ok ls →
    let s0 := countDrops s ls
    (ls.any fixesWindow ∧ nopen s0 ≠ 0 → strictLog s0 s0.cur.pid = false) →
    let places := (ptrs.zip ls).map fun q => (q.1, q.2, n)
    let s1 := fixedForAll s0 ls
    appendPolicy s0.cur.tid s0.cur.core s0.cur.pid (storeLog places true) (openCount s1 s0.cur.pid) s1 = .ok u offs →
    let ps := ((ptrs.zip ls).zip (upTo ptrs.length)).flatMap fun q =>
      piecesAt q.1.1 q.1.2 n 4 fun i => ((data q.2).drop (4 * i)).take 4
    let a : Access := { newAccess u (pathOf (ptrs.headD 0)) .store ps .none 0 0 with logs := logRefs u (storeEntries places true) offs }
    (LinesFree s0 places → atIssue s0 ps = true → notYet s0 ps = false → exec i s = .next (performAll u.cur.priv ps a u)) ∧
    (¬ LinesFree s0 places → exec i s = .next (retry s0)) ∧
    (LinesFree s0 places → atIssue s0 ps = false → ∃ t, exec i s = .next t ∧
      InFlight u t a (if ls.any (farPool s0) then .nbrAccess else .storePerformed))

/-! ### Threads -/

/-- No thread has yet the number that the next new thread takes. -/
def NumberFree (s : State) : Prop := s.cur.tid ≠ s.nextTid ∧ ∀ u ∈ s.threads, u.tid ≠ s.nextTid

/-- No other thread has the current thread's number, and the current thread is alive. -/
def CurAlone (s : State) : Prop := s.cur.state ≠ .free ∧ ∀ u ∈ s.threads, u.tid ≠ s.cur.tid

/-- The numbers that the state gives out next are above every number in use. -/
def NumbersBelow (s : State) : Prop := s.cur.tid < s.nextTid ∧ ∀ u ∈ s.threads, u.tid < s.nextTid

/-- Nothing holds back a counted operation of the current thread: no fence or ordered access, and no access still in flight (R221). -/
def Drained (s : State) : Prop := heldBack s true false = false ∧ ownAccesses s s.cur.tid = []

/-- An irreversible effect may go on (R216): no window is open, or the context is not STRICT. -/
def MayFix (s : State) : Prop := nopen s = 0 ∨ strictLog s s.cur.pid = false

/-- The state in which it goes on: every open window of the thread is fixed (R216). -/
def fixedWindows (s : State) : State := if nopen s = 0 then s else setSt s 0x192 1 (nopen s)

/-- The new thread that `t` has and `s` has not: what it inherits from the current thread (R138), and its workspace image. -/
def HasChild (s t : State) (pc : W64) (mcnt : W32) (img : Memory → Prop) : Prop :=
  ∃ c ∈ t.threads, c.tid = s.nextTid ∧ c.state = .ready ∧ c.pc = pc ∧ c.mcnt = mcnt ∧ c.pid = s.cur.pid ∧ c.priv = s.cur.priv ∧
    c.part = s.cur.part ∧ c.unitid = s.cur.unitid ∧ c.unitidx = s.cur.unitidx ∧ c.lnch = s.cur.lnch ∧ c.grps = s.cur.grps ∧
    c.draw = drawOut s 0 ∧ ∃ m, c.img = some m ∧ img m

/-- The image of a FORK's child: x1 to x31 and iv0 to iv15 are the parent's, p<n> reads 1, MCNT's mirror is `m`, and the sticky bits,
FFLAGS, the trap fields and the window state are clear (R138, R159). -/
def ForkImage (s : State) (n m : Nat) (i : Memory) : Prop :=
  i.readBytes 8 0x178 = s.pool.readBytes (wsKey s.cur + 8) 0x178 ∧
  i.readNat 0x180 4 = setBits (s.pool.readNat (wsKey s.cur + 0x180) 4 % 256) n 1 1 ∧
  i.readNat 0x184 4 = 0 ∧ i.readNat 0x188 4 = s.pool.readNat (wsKey s.cur + 0x188) 4 ∧ i.readNat 0x18C 4 = m ∧
  i.readNat 0x190 8 = 0 ∧ i.readNat 0x198 8 = 0 ∧ i.readNat 0x1B0 8 = 0 ∧
  i.readNat 0x1D0 8 = s.pool.readNat (wsKey s.cur + 0x1D0) 8 ∧ i.readNat 0x1D8 8 = s.pool.readNat (wsKey s.cur + 0x1D8) 8

/-- The bundle does not complete: it is at its own pc again with the wait `w`, and nothing else has changed. -/
def Waits (i : Instr) (s : State) (w : Wait) : Prop :=
  exec i s = .next { s with
    cur := { s.cur with npc := s.cur.pc, wait := some w, waitFrom := if s.cur.wait.isSome then s.cur.waitFrom else s.ts }
    flow := .stalled }

/-- The same, and the thread's fields are as `f` says. -/
def WaitsAs (i : Instr) (s : State) (w : Wait) (f : Thread → Thread) : Prop :=
  exec i s = .next { s with
    cur := { f s.cur with npc := s.cur.pc, wait := some w, waitFrom := if s.cur.wait.isSome then s.cur.waitFrom else s.ts }
    flow := .stalled }

/-- A thread other than the current one. -/
def OtherThread (s : State) (u : Thread) : Prop := s.cur.tid ≠ u.tid ∧ s.thread? u.tid = some u

/-- `i` writes the current thread's fields as `f` says and general register `d`, and nothing else. -/
def GivesCurX (i : Instr) (s : State) (f : Thread → Thread) (d : BitVec 5) (v : W64) : Prop :=
  ∃ u t, u = { s with cur := f s.cur } ∧ exec i s = .next t ∧ XSet u t d.toNat v

/-- The thread is in none of the slots 13 and 14, where QPUSH, QPOP and QTRY are refused (R290, R294). -/
def MayQueue (s : State) : Prop := s.cur.handler ≠ some .row ∧ ∀ c, s.cur.handler ≠ some (.landing c)

/-- A CRPASS or CRTAKE may use the ring descriptor `r` that `p` points to, at the physical address `pa` (R393): the link on its way is up (R391), and no
open release of another thread reaches it (R228). -/
def MayUseRing (s : State) (p : W64) (pa : Nat) (r : Ring) : Prop :=
  heldBack s true false = false ∧ p.toNat / 2 ^ 60 = 0 ∧ checkPtr s s.cur .atomic p 64 0 = .ok (.mem pa) ∧ MayFix s ∧
    linkBusy s (dieOf s.cur.core) (.mem pa) = false ∧ cutOff s (dieOf s.cur.core) (.mem pa) = false ∧
    heldByRelease s s.cur.tid s.cur.core [{ ptr := p, loc := .mem pa, n := 64, data := [] }] = false ∧
    readRing (fixedWindows s) p = .ok r

/-! ### Memory that the device walks and writes -/

/-- Writing bytes at which `P` holds leaves the translations of a context as they are: they lie outside its page tables. -/
def TablesApart (s : State) (pid : BitVec 16) (P : Nat → Prop) : Prop :=
  ∀ m : Memory, (∀ x, ¬ P x → m.read x = s.hbm.read x) → ∀ va wr, deviceAddr { s with hbm := m } pid va wr = deviceAddr s pid va wr

/-- `t` is `s` but for the bytes `l` written to main memory from the physical address `a`, and poison marks. -/
def HbmWritten (s t : State) (a : Nat) (l : List Byte) : Prop :=
  t.hbm.readBytes a l.length = l ∧ (∀ b, b < a ∨ a + l.length ≤ b → t.hbm.read b = s.hbm.read b) ∧ t.hbm.wf = true ∧
    t = { s with hbm := t.hbm, hbmPoison := t.hbmPoison }

/-- The next read of an engine is made whole (R220). -/
def ReadsWhole (s : State) : Prop := ∀ k rest, s.ahead ≠ .read k :: rest

/-- The next write of an engine is made whole (R220). -/
def WritesWhole (s : State) : Prop := ∀ k rest, s.ahead ≠ .write k :: rest

/-- One part of a write under way in the pools, no watched place among its parts: part `i`, its bytes from the key `a`, of which `u` tells (R220). -/
def OnePart (s u : State) (w : Writing) (i a : Nat) (l : List Byte) : Prop :=
  w.left[i]? = some (.pool a, l) ∧ (∀ x ∈ w.left, ∃ b, x.1 = .pool b ∧ (s.core (b / 2 ^ 20)).watch = none) ∧ PoolStored none s u a l

/-- A byte of one of `n` from an address on. -/
def InSpan (a n x : Nat) : Prop := a ≤ x ∧ x < a + n

/-- A byte of a record of a context: of one that its continuation area may give to the threads there are and the units of a block, which are fewer
than 2^48 (R129), or of one that a thread has (R126). -/
def InRecords (s : State) (pid : BitVec 16) (x : Nat) : Prop :=
  (∃ k pr, k ≤ s.allThreads.length + 2 ^ 48 ∧ deviceAddr s pid (addrOf (BitVec.ofNat 64 (sysQ s (descAt pid + 0x28) + 64 * k))) true = .ok pr ∧ InSpan pr 64 x) ∨
    ∃ t ∈ s.allThreads, ∃ pr, t.pid = pid ∧ recordAddr s t = some pr ∧ InSpan pr 64 x

/-! ### Engines -/

/-- The record of a command is the newest of its core: its queue, its thread, its status, flags, progress and fault address, and TS (R270,
R311). -/
def Recorded (s t : State) (core : Nat) (c : Cmd) (eng status : Nat) (flags : Flags) (prog : Nat) (faddr : W64) : Prop :=
  (t.core core).records = (s.core core).records ++
    [{ q := c.q + 1, tid := c.tid, words := recordWords c eng status flags prog (tsOf s core) faddr }]

/-- The oldest command of a queue has left it. -/
def Taken (s t : State) (core q : Nat) : Prop := (t.core core).cmds = eraseFirst (fun x => x.q == q) (s.core core).cmds

/-- A Measure command of a kind is refused with an MSTAT, or passes its checks and then has the effect `e` on its engine (R322, R323). -/
def GivesMeasure (i : Instr) (s : State) (core : Nat) (c : Cmd) (e : Measure → Measure → Prop) : Prop :=
  (∀ ms, msCheck (takeCmd s core 6) core c = some ms → ∃ t, exec i s = .next t ∧ Recorded s t core c 3 0 0 ms 0 ∧ Taken s t core 6) ∧
  (msCheck (takeCmd s core 6) core c = none →
    ∃ t, exec i s = .next t ∧ Recorded s t core c 3 0 0 0 0 ∧ Taken s t core 6 ∧
      e (s.measureOf (clusterOf core)) (t.measureOf (clusterOf core)) ∧ t.pool = s.pool ∧ t.hbm = s.hbm)

/-! ### Exceptions -/

/-- The vector of the current thread is one that a trap may go to, no trap is being handled, and its level is one there is (R11, R22). -/
def CanTrap (s : State) : Prop :=
  let k := wsKey s.cur
  s.pool.wf = true ∧ bitAt (s.pool.readNat (k + 0x180) 4) 12 = false ∧ s.pool.readNat (k + 0x1D8) 8 < 2 ^ 57 ∧
    s.pool.readNat (k + 0x1D8) 8 % 8 = 0 ∧ s.cur.priv < 4

/-- The fields of R21 stand in the workspace: TCAUSE with the level, TVAL, TPC and INTRAP, and no other byte of the pools has changed. -/
def TrapFields (s t : State) (cause : Nat) (val : W64) : Prop :=
  let k := wsKey s.cur
  t.pool.readNat (k + 0x198) 8 = cause + s.cur.priv * 2 ^ 8 ∧ t.pool.readNat (k + 0x1A0) 8 = val.toNat ∧
    t.pool.readNat (k + 0x1A8) 8 = s.cur.pc.toNat ∧ t.pool.readNat (k + 0x180) 4 = setBits (s.pool.readNat (k + 0x180) 4) 12 1 1 ∧
    ∀ x, (x < k + 0x180 ∨ k + 0x184 ≤ x) → (x < k + 0x198 ∨ k + 0x1B0 ≤ x) → t.pool.read x = s.pool.read x

/-- `t` is `s` after a trap without flags (R21): the fields, supervisor level, and the pc at TVEC; nothing else has changed. -/
def TrapTaken (s t : State) (cause : Nat) (val : W64) : Prop :=
  TrapFields s t cause val ∧
    t = { s with
      pool := t.pool, poolPoison := t.poolPoison, agenda := t.agenda, flow := .trapped cause val 0
      cur := { s.cur with priv := 1, npc := BitVec.ofNat 64 (s.pool.readNat (wsKey s.cur + 0x1D8) 8), wait := none } }

/-- `t` has the thread that the device spawns on a control core (R333, R404): its context, core, pc and x1 to x4. -/
def HasControl (s t : State) (pid : BitVec 16) (core : Nat) (pc : W64) (xs : List W64) : Prop :=
  ∃ c ∈ t.threads, c.tid = s.nextTid ∧ c.pid = pid ∧ c.core = core ∧ c.pc = pc ∧ c.priv = 1 ∧ c.state = .ready ∧
    .activeMessage core s.nextTid ∈ t.agenda ∧ ∃ m, c.img = some m ∧ ∀ i, i < xs.length → m.readNat (8 * (i + 1)) 8 = (xs.getD i 0).toNat

end Sys2Proof.Safety
end

