-- ==== Sys2Proof/Certificates/Slice0/Obligations.lean ====
section
/-!
DEFINITION. The statements for the provers.
-/
open Sys2Proof Sys2Proof.Machine Sys2Proof.Safety

/-! ### Integer, predicate and counter-hash instructions (R74 to R86) -/

/-- R74, R76: the five arithmetic and the four logical instructions give the value the rules state in xd, and change nothing else. -/
def Obligations.IntegerArithmeticAndLogic : Prop :=
  ∀ (s : State) (d a b : BitVec 5) (g : BitVec 4), s.pool.wf = true → guardOn s g = true →
    let x := rX s a
    let y := rX s b
    GivesX (.add d a b g) s d (BitVec.ofNat 64 (x.toNat + y.toNat)) ∧
    GivesX (.sub d a b g) s d (BitVec.ofInt 64 (x.toNat - y.toNat)) ∧
    GivesX (.mul d a b g) s d (BitVec.ofNat 64 (x.toNat * y.toNat)) ∧
    GivesX (.mulh d a b g) s d (BitVec.ofInt 64 (Int.fdiv (x.toInt * y.toInt) (2 ^ 64))) ∧
    GivesX (.mulhu d a b g) s d (BitVec.ofNat 64 (x.toNat * y.toNat / 2 ^ 64)) ∧
    GivesX (.and d a b g) s d (x &&& y) ∧
    GivesX (.or d a b g) s d (x ||| y) ∧
    GivesX (.xor d a b g) s d (x ^^^ y) ∧
    GivesX (.andn d a b g) s d (x &&& ~~~y)

/-- R75: quotient and remainder, with the saturated quotients of the table; three further turns are forfeited (R70). -/
def Obligations.DivideAndRemainder : Prop :=
  ∀ (s : State) (d a b : BitVec 5) (g : BitVec 4), s.pool.wf = true → guardOn s g = true →
    let x := rX s a
    let y := rX s b
    let top : W64 := 0x7FFFFFFFFFFFFFFF
    let low : W64 := 0x8000000000000000
    let ones : W64 := 0xFFFFFFFFFFFFFFFF
    GivesXTurns 3 (.div d a b g) s d
      (if y = 0 then (if 0 < x.toInt then top else if x.toInt < 0 then low else 0)
        else if x = low ∧ y = ones then top else BitVec.ofInt 64 (Int.tdiv x.toInt y.toInt)) ∧
    GivesXTurns 3 (.rem d a b g) s d
      (if y = 0 then x else if x = low ∧ y = ones then 0 else BitVec.ofInt 64 (Int.tmod x.toInt y.toInt)) ∧
    GivesXTurns 3 (.divu d a b g) s d
      (if y = 0 then (if x = 0 then 0 else ones) else BitVec.ofNat 64 (x.toNat / y.toNat)) ∧
    GivesXTurns 3 (.remu d a b g) s d (if y = 0 then x else BitVec.ofNat 64 (x.toNat % y.toNat))

/-- R77, R78: shifts by the low six bits of xb, and the smaller or larger operand. -/
def Obligations.ShiftsAndMinMax : Prop :=
  ∀ (s : State) (d a b : BitVec 5) (g : BitVec 4), s.pool.wf = true → guardOn s g = true →
    let x := rX s a
    let y := rX s b
    let n := y.toNat % 64
    GivesX (.shl d a b g) s d (BitVec.ofNat 64 (x.toNat * 2 ^ n)) ∧
    GivesX (.shr d a b g) s d (BitVec.ofNat 64 (x.toNat / 2 ^ n)) ∧
    GivesX (.sar d a b g) s d (BitVec.ofInt 64 (Int.fdiv x.toInt (2 ^ n))) ∧
    GivesX (.min d a b g) s d (if y.toInt < x.toInt then y else x) ∧
    GivesX (.max d a b g) s d (if x.toInt < y.toInt then y else x) ∧
    GivesX (.minu d a b g) s d (if y.toNat < x.toNat then y else x) ∧
    GivesX (.maxu d a b g) s d (if x.toNat < y.toNat then y else x)

/-- R79: bit fields, counts and selection. `pos` and `len` are the field descriptor's, and len 0 means 64. -/
def Obligations.BitFields : Prop :=
  ∀ (s : State) (d a b : BitVec 5) (n : BitVec 3) (g : BitVec 4), s.pool.wf = true → guardOn s g = true →
    let x := rX s a
    let y := rX s b
    let pos := y.toNat % 64
    let len := if y.toNat / 256 % 64 = 0 then 64 else y.toNat / 256 % 64
    let field := x.toNat / 2 ^ pos % 2 ^ len
    let mask : W64 := BitVec.ofNat 64 ((2 ^ len - 1) * 2 ^ pos)
    GivesX (.clz d a g) s d (BitVec.ofNat 64 (leadingZeros 64 x.toNat)) ∧
    GivesX (.popc d a g) s d (BitVec.ofNat 64 (popcount 64 x.toNat)) ∧
    GivesX (.brev d a g) s d (BitVec.ofNat 64 (reverseBits 64 x.toNat)) ∧
    GivesX (.extr d a b g) s d (BitVec.ofNat 64 field) ∧
    GivesX (.extrS d a b g) s d (sextN field (Nat.min len (64 - pos))) ∧
    GivesX (.ins d a b g) s d ((rX s d &&& ~~~mask) ||| ((x <<< pos) &&& mask)) ∧
    GivesX (.sel d a b n g) s d (if getP s n.toNat then x else y)

/-- R80 to R82, R86: the immediate forms, the long immediates and the counter hash. -/
def Obligations.ImmediatesAndHash : Prop :=
  ∀ (s : State) (d a b : BitVec 5) (i : BitVec 12) (n : BitVec 6) (ext : W32) (g : BitVec 4),
    s.pool.wf = true → guardOn s g = true →
    let x := rX s a
    let k : W64 := i.signExtend 64
    let key := rX s a
    let ctr := rX s b
    let out := mix (mix (ctr.truncate 32 ^^^ key.truncate 32) ^^^ (ctr >>> 32).truncate 32 ^^^ (key >>> 32).truncate 32)
    GivesX (.addi d a i g) s d (x + k) ∧ GivesX (.andi d a i g) s d (x &&& k) ∧
    GivesX (.ori d a i g) s d (x ||| k) ∧ GivesX (.xori d a i g) s d (x ^^^ k) ∧
    GivesX (.shli d a n g) s d (x <<< n.toNat) ∧ GivesX (.shri d a n g) s d (x >>> n.toNat) ∧
    GivesX (.sari d a n g) s d (x.sshiftRight n.toNat) ∧
    GivesX (.li d ext g) s d (ext.signExtend 64) ∧
    GivesX (.lih d ext g) s d (ext ++ (rX s d).truncate 32) ∧
    GivesX (.addiL d a ext g) s d (x + ext.signExtend 64) ∧
    GivesX (.rndc d a b g) s d (out.zeroExtend 64) ∧
    GivesX (.rndcU d a b g) s d (BitVec.ofNat 64 (rnd32 .rne false (out.toNat / 256) (-24) false).1)

/-- R83 to R85: a comparison or a logic table sets the predicate it names, and nothing else. -/
def Obligations.Comparisons : Prop :=
  ∀ (s : State) (p q r : BitVec 3) (a b : BitVec 5) (i : BitVec 12) (c t : BitVec 4) (c2 : BitVec 2) (ext : W32) (g : BitVec 4),
    s.pool.wf = true → guardOn s g = true → c.toNat ≤ 9 →
    let cond (cc : Nat) (x y : W64) : Bool := match cc with
      | 0 => x == y
      | 1 => x != y
      | 2 => x.slt y
      | 3 => y.sle x
      | 4 => x.sle y
      | 5 => y.slt x
      | 6 => x.ult y
      | 7 => y.ule x
      | 8 => x.ule y
      | _ => y.ult x
    GivesP (.cmp p a b c g) s p (cond c.toNat (rX s a) (rX s b)) ∧
    GivesP (.cmpi c2 p a i g) s p (cond c2.toNat (rX s a) (i.signExtend 64)) ∧
    GivesP (.cmpiLeGtLtuGeu c2 p a i g) s p (cond (4 + c2.toNat) (rX s a) (i.signExtend 64)) ∧
    GivesP (.cmpiL p a c ext g) s p (cond c.toNat (rX s a) (ext.signExtend 64)) ∧
    GivesP (.plog p q r t g) s p (t.getLsbD (2 * (getP s q.toNat).toNat + (getP s r.toNat).toNat))

/-! ### FP32 scalar instructions (R87 to R93) -/

/-- (a) R87, R88, R93: the rounding instructions, under a legal FMODE whose enabled flags are not raised. `fadd32` and the others give the
IEEE result rounded once, with its flags. (b) R89 to R91: minimum, maximum, comparison and class round nothing, and the sign instructions
change only the sign bit. The turns of a subnormal that add to the opcode's are log entry 100, the model's choice. -/
def Obligations.FloatInstructions : Prop :=
  (∀ (s : State) (d a b c : BitVec 5) (g : BitVec 4) (rm : Rm), s.pool.wf = true → guardOn s g = true → Rounds s rm →
     let x := rF s a
     let y := rF s b
     let z := rF s c
     let gives (n : Nat) (i : Instr) (ops : List Nat) (r : Nat × Flags) : Prop :=
       NoTrap s r.2 → GivesF n (anySubnormal (ops ++ [r.1])) i s d r
     gives 0 (.fadd d a b g) [x, y] (fadd32 rm x y) ∧
     gives 0 (.fsub d a b g) [x, y] (fsub32 rm x y) ∧
     gives 0 (.fmul d a b g) [x, y] (fmul32 rm x y) ∧
     gives 3 (.fdiv d a b g) [x, y] (fdiv32 rm x y) ∧
     gives 3 (.fsqrt d a g) [x] (fsqrt32 rm x) ∧
     gives 0 (.ffma d a b c g) [x, y, z] (ffma32 rm x y z) ∧
     gives 0 (.frnd d a 0 g) [x] (frnd32 rm x)) ∧
  (∀ (s : State) (d a b : BitVec 5) (p : BitVec 3) (c : BitVec 3) (g : BitVec 4), s.pool.wf = true → guardOn s g = true →
     let x := rF s a
     let y := rF s b
     let signed (sg : Bool) : W64 := BitVec.ofNat 64 (sg.toNat * 2 ^ 31 + x % 2 ^ 31)
     let sy := bitAt y 31
     let sp := getP s p.toNat
     (NoTrap s (fminmax true x y).2 → GivesF 0 false (.fmin d a b g) s d (fminmax true x y)) ∧
     (NoTrap s (fminmax false x y).2 → GivesF 0 false (.fmax d a b g) s d (fminmax false x y)) ∧
     GivesX (.fsgnJ d a b g) s d (signed sy) ∧
     GivesX (.fsgnJn d a b g) s d (signed !sy) ∧
     GivesX (.fsgnJx d a b g) s d (signed (bitAt x 31 != sy)) ∧
     GivesX (.fsgnJPred d a p g) s d (signed sp) ∧
     GivesX (.fsgnJnPred d a p g) s d (signed !sp) ∧
     GivesX (.fsgnJxPred d a p g) s d (signed (bitAt x 31 != sp)) ∧
     GivesX (.fclass d a g) s d (BitVec.ofNat 64 (fclass32 x)) ∧
     (NoTrap s (fcmp32 c.toNat x y).2 → ∃ u t, FlagsOr s u (fcmp32 c.toNat x y).2 ∧ PredSet u t p.toNat (fcmp32 c.toNat x y).1 ∧
       exec (.fcmp p a b c g) s = .next t))

/-- (a) R93: FRND under a mode of its own, 1 to 5, whatever FMODE.RM holds. (b) R92, R33, R34: FCVT writes the converted value, ORs its
flags into FFLAGS, and takes one draw where the destination takes one. Stochastic rounding above the greatest finite value is log entry
10, the model's reading; the turns of a subnormal are log entries 100 and 101, the model's choice. -/
def Obligations.RoundingAndConversion : Prop :=
  (∀ (s : State) (d a : BitVec 5) (m : BitVec 3) (g : BitVec 4) (rm : Rm), s.pool.wf = true → guardOn s g = true →
     m ≠ 0 → rmOf (m.toNat - 1) = some rm → NoTrap s (frnd32 rm (rF s a)).2 →
     GivesF 0 (anySubnormal [rF s a, (frnd32 rm (rF s a)).1]) (.frnd d a m g) s d (frnd32 rm (rF s a))) ∧
  (∀ (s : State) (d a : BitVec 5) (x y : BitVec 3) (g : BitVec 4) (rm : Rm), s.pool.wf = true → guardOn s g = true →
     (Instr.fcvt d a x y g).wf = true → (cvtRounds x.toNat y.toNat = true → Rounds s rm) →
     let v := (rX s a).toNat
     let mode : CvtMode := { rm := if cvtRounds x.toNat y.toNat then rm else .rne, srnd := bitAt (fmode s) 8, sat8 := bitAt (fmode s) 9, draw := drawU s 0 }
     let r := convert x.toNat y.toNat mode v
     NoTrap s r.2 →
       ∃ u t, FlagsOr s u r.2 ∧ XSet u t d.toNat r.1 ∧
         exec (.fcvt d a x y g) s = .next (subnormalTurns
           ((y == 0 && anySubnormal [v % 2 ^ 32]) || (x == 0 && anySubnormal [r.1.toNat % 2 ^ 32]))
           (advanceDraw t (b2n (cvtDraws x.toNat)))))

/-- (a) R23, R26, R63, R87 to R93, R174 to R176, R178 to R183: a scalar or vector FP instruction or conversion that raises an enabled flag
takes one precise FPE trap with the flags of all lanes, and writes no register of its own; the turns that FDIV and FSQRT would forfeit go
with the bundle's other effects. (b) R10: each instruction that rounds under FMODE takes ILLEG with FMODE in TVAL when FMODE holds a
reserved mode or bit. That the turns of the trapping bundle are not forfeited is log entry 103, the model's choice. -/
def Obligations.FlagAndModeTraps : Prop :=
  (∀ (s : State) (d a b c : BitVec 5) (p m cc : BitVec 3) (x y : BitVec 3) (e f h k : BitVec 4) (vc g : BitVec 4) (rm : Rm), guardOn s g = true →
     let u := rF s a
     let v := rF s b
     let w := rF s c
     let vu := getV s f.toNat
     let vv := getV s h.toNat
     let vw := getV s k.toNat
     let codes (n : BitVec 4) : List (List Nat) := groups 4 16 ((getVBytes s n.toNat).map fun e => e.toNat)
     let traps (n : Nat) (i : Instr) (fl : Flags) : Prop := ¬ NoTrap s fl → exec i s = .next (withTurns n (takeTrap s cFPE 0 fl))
     let lanes (i : Instr) (r : List (Nat × Flags)) : Prop := traps 0 i (orFlags r)
     let mask (r : Bool × Flags) : Nat × Flags := (if r.1 then 0xFFFFFFFF else 0, r.2)
     let mode (n : Nat) : CvtMode := { rm := if cvtRounds x.toNat y.toNat then rm else .rne, srnd := bitAt (fmode s) 8, sat8 := bitAt (fmode s) 9
                                       draw := drawU s n }
     let elems := (upTo 16).map fun i => elemAt (getVBytes s f.toNat) (elemBytes y.toNat) (if elemBytes y.toNat = 4 then i else 16 * vc.toNat + i)
     (Rounds s rm →
       traps 0 (.fadd d a b g) (fadd32 rm u v).2 ∧ traps 0 (.fsub d a b g) (fsub32 rm u v).2 ∧ traps 0 (.fmul d a b g) (fmul32 rm u v).2 ∧
       traps 3 (.fdiv d a b g) (fdiv32 rm u v).2 ∧ traps 3 (.fsqrt d a g) (fsqrt32 rm u).2 ∧ traps 0 (.ffma d a b c g) (ffma32 rm u v w).2 ∧
       traps 0 (.frnd d a 0 g) (frnd32 rm u).2 ∧
       lanes (.vadd e f h 0 g) (List.zipWith (fadd32 rm) vu vv) ∧ lanes (.vsub e f h 0 g) (List.zipWith (fsub32 rm) vu vv) ∧
       lanes (.vmul e f h 0 g) (List.zipWith (fmul32 rm) vu vv) ∧
       lanes (.vfma e f h k g) (List.zipWith (fun q w => ffma32 rm q.1 q.2 w) (vu.zip vv) vw) ∧
       lanes (.vlog2 e f g) (vu.map (vlog2Lane rm)) ∧ lanes (.vrcp e f g) (vu.map (vrcpLane rm)) ∧ lanes (.vrsq e f g) (vu.map (vrsqLane rm)) ∧
       lanes (.vscan e f 0 g) ((vu.headD 0, 0) :: scanF rm (vu.headD 0) vu.tail) ∧ traps 0 (.vredsum e f 0 g) (treeSum rm 4 vu).2) ∧
     (m ≠ 0 → rmOf (m.toNat - 1) = some rm → traps 0 (.frnd d a m g) (frnd32 rm u).2) ∧
     traps 0 (.fmin d a b g) (fminmax true u v).2 ∧ traps 0 (.fmax d a b g) (fminmax false u v).2 ∧
     traps 0 (.fcmp p a b cc g) (fcmp32 cc.toNat u v).2 ∧
     lanes (.vmin e f h 0 g) (List.zipWith (fminmax true) vu vv) ∧ lanes (.vmax e f h 0 g) (List.zipWith (fminmax false) vu vv) ∧
     lanes (.vcmp e f h 0 vc g) ((List.zipWith (fcmp32 vc.toNat) vu vv).map mask) ∧ lanes (.vexp2 e f g) (vu.map vexp2Lane) ∧
     lanes (.vfmaLns e f h k g) (List.zipWith (fun q w => lnsLane q.1 q.2 w) ((codes f).zip (codes h)) vw) ∧
     traps 0 (.vredmax e f 0 g)
       (vu.tail.foldl (fun acc y => ((fminmax false acc.1 y).1, acc.2 ||| (fminmax false acc.1 y).2)) (vu.headD 0, (0 : Flags))).2 ∧
     ((cvtRounds x.toNat y.toNat = true → Rounds s rm) →
       ((Instr.fcvt d a x y g).wf = true → traps 0 (.fcvt d a x y g) (convert x.toNat y.toNat (mode 0) (rX s a).toNat).2) ∧
       ((Instr.vcvt e f vc x y g).wf = true → traps 0 (.vcvt e f vc x y g)
         (((elems.zip (upTo 16)).map fun q => convert x.toNat y.toNat (mode q.2) q.1).foldl (fun fl r => fl ||| r.2) (0 : Flags))))) ∧
  (∀ (s : State) (d a b c : BitVec 5) (x y : BitVec 3) (e f h k : BitVec 4) (vc g : BitVec 4), guardOn s g = true →
     (rmOf (bits (fmode s) 0 3) = none ∨ bits (fmode s) 10 22 ≠ 0) →
     let ill := trap s cILLEG (BitVec.ofNat 64 (fmode s))
     (∀ i ∈ [Instr.fadd d a b g, .fsub d a b g, .fmul d a b g, .ffma d a b c g, .frnd d a 0 g, .vadd e f h 0 g, .vsub e f h 0 g, .vmul e f h 0 g,
       .vredsum e f 0 g, .vscan e f 0 g, .vfma e f h k g, .vlog2 e f g, .vrcp e f g, .vrsq e f g], exec i s = .next ill) ∧
     (∀ i ∈ [Instr.fdiv d a b g, .fsqrt d a g], exec i s = .next (forfeits 3 ill)) ∧
     (cvtRounds x.toNat y.toNat = true → exec (.fcvt d a x y g) s = .next ill ∧ exec (.vcvt e f vc x y g) s = .next ill))

/-! ### Interval instructions (R110 to R121) -/

/-- (a) R111, R114 to R117: interval results, the further turns of R109, and the turns of subnormal bounds. (b) R112, R118, R119: reading
an interval's parts, the comparison pair of predicates, and NP and EM of STAT. The precision of the base-two functions is log entry 11. -/
def Obligations.IntervalResultsAndReads : Prop :=
  (∀ (s : State) (d a b : BitVec 4) (m n : BitVec 5) (g : BitVec 4), s.pool.wf = true → guardOn s g = true →
     let x := getIv s a.toNat
     let y := getIv s b.toNat
     let ends (l : List Ival) : Bool := anySubnormal (l.flatMap fun i => [i.lo, i.hi])
     let mk := ivMkR (rF s m) (rF s n)
     GivesIv 0 (ends [x, y, ivAdd x y]) (.iadd d a b g) s d (ivAdd x y) ∧
     GivesIv 0 (ends [x, y, ivSub x y]) (.isub d a b g) s d (ivSub x y) ∧
     GivesIv 0 (ends [x, y, ivMul x y]) (.imul d a b g) s d (ivMul x y) ∧
     GivesIv 3 (ends [x, y, ivDiv x y]) (.idiv d a b g) s d (ivDiv x y) ∧
     GivesIv 0 (ends [x, ivSq x]) (.isq d a g) s d (ivSq x) ∧
     GivesIv 3 (ends [x, ivSqrt x]) (.isqrt d a g) s d (ivSqrt x) ∧
     GivesIv 3 (ends [x, ivExp2 x]) (.iexp2 d a g) s d (ivExp2 x) ∧
     GivesIv 0 false (.imax d a b g) s d (ivMax x y) ∧
     GivesIv 0 false (.imin d a b g) s d (ivMin x y) ∧
     GivesIv 0 false (.ihull d a b g) s d (ivHull x y) ∧
     GivesIv 0 false (.iisect d a b g) s d (ivIsect x y) ∧
     GivesIv 0 false (.ivmk d m n g) s d (ivCanon { lo := rF s m, hi := rF s n }) ∧
     GivesIv 0 (ends [{ lo := rF s m, hi := rF s n }, mk]) (.ivmkR d m n g) s d mk) ∧
  (∀ (s : State) (d : BitVec 5) (k a b : BitVec 4) (c : BitVec 2) (g : BitVec 4), s.pool.wf = true → guardOn s g = true →
     let x := getIv s a.toNat
     let y := getIv s b.toNat
     let pair (i : Instr) (r : Bool × Bool) : Prop :=
       ∃ u t, PredSet s u k.toNat r.1 ∧ PredSet u t (k.toNat + 1) r.2 ∧ exec i s = .next t
     GivesX (.ivlo d a g) s d (BitVec.ofNat 64 (x.lo % 2 ^ 32)) ∧
     GivesX (.ivhi d a g) s d (BitVec.ofNat 64 (x.hi % 2 ^ 32)) ∧
     GivesF 0 (anySubnormal [x.lo, x.hi, ivWid x]) (.iwid d a g) s d (ivWid x, 0) ∧
     GivesF 0 (anySubnormal [x.lo, x.hi, ivMid x]) (.imid d a g) s d (ivMid x, 0) ∧
     GivesX (.ivloNs d g) s d (BitVec.ofNat 64 (bits (getSt s 0x180 4) 8 2)) ∧
     (∃ u v t, XSet s u d.toNat (BitVec.ofNat 64 (bits (getSt s 0x180 4) 8 2)) ∧
       StatSet u v 0x180 (setBits (liveSt u 0x180 4) 8 1 0) ∧ StatSet v t 0x180 (setBits (liveSt v 0x180 4) 9 1 0) ∧
       exec (.ivloNsc d g) s = .next t) ∧
     pair (.icmp k a b c g) (ivCmp c.toNat x y) ∧
     pair (.icont k a b g) (ivCont x y))

/-- R120, R121: a contractor writes its intervals, then the predicate, NP and EM. -/
def Obligations.Contractors : Prop :=
  ∀ (s : State) (z x y : BitVec 4) (n : BitVec 3) (g : BitVec 4), s.pool.wf = true → guardOn s g = true →
    let gives (turns : Nat) (i : Instr) (r : Relation) (yi : Ival) : Prop :=
      let c := contract r (getIv s z.toNat) (getIv s x.toNat) yi
      ∃ t1 t2 t3 t4 t5 t6 sub, IvSet (withTurns turns s) t1 z.toNat c.z ∧ IvSet t1 t2 x.toNat c.x ∧
        (if r.binary then IvSet t2 t3 y.toNat c.y else t3 = t2) ∧ PredSet t3 t4 n.toNat c.moved ∧
        StatBitIf c.moved t4 t5 8 ∧ StatBitIf c.emptied t5 t6 9 ∧ exec i s = .next (subnormalTurns sub t6)
    gives 0 (.iaddc z x y n g) .addR (getIv s y.toNat) ∧
    gives 3 (.imulc z x y n g) .mulR (getIv s y.toNat) ∧
    gives 0 (.imaxc z x y n g) .maxR (getIv s y.toNat) ∧
    gives 3 (.isqc z x n g) .sqR (getIv s 0) ∧
    gives 3 (.iexp2c z x n g) .exp2R (getIv s 0)

/-! ### Vector instructions (R173 to R191) -/

/-- R175, R177 to R179: on 32-bit integer lanes each lane of vd is the operation on the lanes of va and vb, and nothing else changes. -/
def Obligations.VectorIntegerLanes : Prop :=
  ∀ (s : State) (d a b c : BitVec 4) (cc : BitVec 4) (g : BitVec 4), s.pool.wf = true → guardOn s g = true → cc.toNat ≤ 9 →
    let gives (i : Instr) (f : BitVec 32 → BitVec 32 → BitVec 32) : Prop :=
      GivesV i s d (List.zipWith (fun x y => (f (BitVec.ofNat 32 x) (BitVec.ofNat 32 y)).toNat) (getV s a.toNat) (getV s b.toNat))
    let holds (x y : BitVec 32) : Bool := match cc.toNat with
      | 0 => x == y
      | 1 => x != y
      | 2 => x.slt y
      | 3 => y.sle x
      | 4 => x.sle y
      | 5 => y.slt x
      | 6 => x.ult y
      | 7 => y.ule x
      | 8 => x.ule y
      | _ => y.ult x
    gives (.vadd d a b 1 g) (fun x y => x + y) ∧
    gives (.vsub d a b 1 g) (fun x y => x - y) ∧
    gives (.vmul d a b 1 g) (fun x y => x * y) ∧
    gives (.vmin d a b 1 g) (fun x y => if y.slt x then y else x) ∧
    gives (.vmax d a b 1 g) (fun x y => if x.slt y then y else x) ∧
    gives (.vand d a b g) (fun x y => x &&& y) ∧
    gives (.vor d a b g) (fun x y => x ||| y) ∧
    gives (.vxor d a b g) (fun x y => x ^^^ y) ∧
    gives (.vshl d a b g) (fun x y => x <<< (y.toNat % 32)) ∧
    gives (.vshr d a b g) (fun x y => x >>> (y.toNat % 32)) ∧
    gives (.vshrA d a b g) (fun x y => x.sshiftRight (y.toNat % 32)) ∧
    gives (.vcmp d a b 1 cc g) (fun x y => if holds x y then 0xFFFFFFFF else 0) ∧
    GivesV (.vsel d a b c g) s d
      (List.zipWith (fun p z => if z.testBit 31 then p.1 else p.2) ((getV s a.toNat).zip (getV s b.toNat)) (getV s c.toNat))

/-- (a) R174 to R176, R178, R181 to R183: the FP32 lanes, each rounded once, and the OR of the flags of all lanes; under a legal FMODE no
enabled flag of which is raised. (b) R176, R181: VFMA.LNS and VEXP2 round by RNE whatever FMODE holds. -/
def Obligations.VectorFloatLanes : Prop :=
  (∀ (s : State) (d a b c : BitVec 4) (cc : BitVec 4) (g : BitVec 4) (rm : Rm), s.pool.wf = true → guardOn s g = true → Rounds s rm →
     let x := getV s a.toNat
     let y := getV s b.toNat
     let z := getV s c.toNat
     let gives (i : Instr) (ops : List Nat) (r : List (Nat × Flags)) : Prop :=
       NoTrap s (orFlags r) → GivesVF (anySubnormal (ops ++ r.map (·.1))) i s d r
     let noTurns (i : Instr) (r : List (Nat × Flags)) : Prop := NoTrap s (orFlags r) → GivesVF false i s d r
     let mask (r : Bool × Flags) : Nat × Flags := (if r.1 then 0xFFFFFFFF else 0, r.2)
     gives (.vadd d a b 0 g) (x ++ y) (List.zipWith (fadd32 rm) x y) ∧
     gives (.vsub d a b 0 g) (x ++ y) (List.zipWith (fsub32 rm) x y) ∧
     gives (.vmul d a b 0 g) (x ++ y) (List.zipWith (fmul32 rm) x y) ∧
     noTurns (.vmin d a b 0 g) (List.zipWith (fminmax true) x y) ∧
     noTurns (.vmax d a b 0 g) (List.zipWith (fminmax false) x y) ∧
     noTurns (.vcmp d a b 0 cc g) ((List.zipWith (fcmp32 cc.toNat) x y).map mask) ∧
     gives (.vfma d a b c g) (x ++ y ++ z) (List.zipWith (fun p w => ffma32 rm p.1 p.2 w) (x.zip y) z) ∧
     gives (.vlog2 d a g) x (x.map (vlog2Lane rm)) ∧
     gives (.vrcp d a g) x (x.map (vrcpLane rm)) ∧
     gives (.vrsq d a g) x (x.map (vrsqLane rm)) ∧
     gives (.vscan d a 0 g) x ((x.headD 0, 0) :: scanF rm (x.headD 0) x.tail)) ∧
  (∀ (s : State) (d a b c : BitVec 4) (g : BitVec 4), s.pool.wf = true → guardOn s g = true →
     let codes (n : BitVec 4) : List (List Nat) := groups 4 16 ((getVBytes s n.toNat).map fun e => e.toNat)
     let z := getV s c.toNat
     let l := List.zipWith (fun p w => lnsLane p.1 p.2 w) ((codes a).zip (codes b)) z
     let e := (getV s a.toNat).map vexp2Lane
     (NoTrap s (orFlags l) → GivesVF (anySubnormal (z ++ l.map (·.1))) (.vfmaLns d a b c g) s d l) ∧
     (NoTrap s (orFlags e) → GivesVF (anySubnormal (getV s a.toNat ++ e.map (·.1))) (.vexp2 d a g) s d e))

/-- (a) R183: the reductions. Sums go by the fixed tree; INT32 sums are mod 2^32; the maximum goes from lane 0 upward. (b) R184 to R187:
permutation, indexes, moves between a lane and a general register, sorting by keys, and masks. -/
def Obligations.VectorReductionsAndMoves : Prop :=
  (∀ (s : State) (d a : BitVec 4) (g : BitVec 4) (rm : Rm), s.pool.wf = true → guardOn s g = true →
     let x := getV s a.toNat
     let all (i : Instr) (sub : Bool) (r : Nat × Flags) : Prop := NoTrap s r.2 →
       ∃ u t, FlagsOr s u r.2 ∧ VSet u t d.toNat (List.replicate 16 r.1) ∧ exec i s = .next (subnormalTurns sub t)
     (Rounds s rm → all (.vredsum d a 0 g) (anySubnormal ((treeSum rm 4 x).1 :: x)) (treeSum rm 4 x)) ∧
     GivesV (.vredsum d a 1 g) s d (List.replicate 16 (x.sum % 2 ^ 32)) ∧
     all (.vredmax d a 0 g) false
       (x.tail.foldl (fun acc y => ((fminmax false acc.1 y).1, acc.2 ||| (fminmax false acc.1 y).2)) (x.headD 0, (0 : Flags))) ∧
     GivesV (.vredmax d a 1 g) s d
       (List.replicate 16 (x.tail.foldl (fun m y => if (BitVec.ofNat 32 m).slt (BitVec.ofNat 32 y) then y else m) (x.headD 0))) ∧
     GivesV (.vscan d a 1 g) s d ((upTo 16).map fun i => (x.take (i + 1)).sum % 2 ^ 32)) ∧
  (∀ (s : State) (d a b c : BitVec 4) (p : BitVec 3) (x y : BitVec 5) (r : BitVec 1) (k : BitVec 4) (g : BitVec 4),
     s.pool.wf = true → guardOn s g = true →
     let va := getV s a.toNat
     let vc := getV s c.toNat
     let lane := (rX s y).toNat % 16
     let bit (l : List Nat) (i : Nat) : Bool := (l.getD i 0).testBit 31
     let sorted := sortK (r == 1) (k.toNat + 1) va
     let bm := ((upTo 16).map fun i => if bit va i then 2 ^ i else 0).sum
     GivesV (.vperm d a b c g) s d ((getV s b.toNat).map fun j => (if j.testBit 4 then vc else va).getD (j % 16) 0) ∧
     GivesV (.vidx d g) s d (upTo 16) ∧
     GivesV (.vidxF d g) s d ((upTo 16).map fun (i : Nat) => (ofInt32 .rne (Int.ofNat i)).1) ∧
     GivesX (.vmovx x a y g) s x (BitVec.ofNat 64 (va.getD lane 0)) ∧
     GivesV (.vins d x y g) s d ((upTo 16).map fun i => if i = lane then rF s x else (getV s d.toNat).getD i 0) ∧
     GivesV (.vbcast d x g) s d (List.replicate 16 (rF s x)) ∧
     GivesVV false (.vsortk p a r k g) s p (sorted.map (·.1)) (sorted.map (·.2)) ∧
     GivesV (.vmaskbm d a g) s d ([bm, ((upTo 16).filter (bit va)).length] ++ List.replicate 14 0) ∧
     GivesV (.vmaskbmX d a g) s d ((upTo 16).map fun i => if (va.headD 0).testBit i then 0xFFFFFFFF else 0))

/-- R180, R34: VCVT converts sixteen elements of part k, ORs their flags, and takes sixteen draws where the destination takes any.
Stochastic rounding above the greatest finite value is log entry 10, the model's reading; the turns of a subnormal are log entries 100 and
101, the model's choice. -/
def Obligations.VectorConversion : Prop :=
  ∀ (s : State) (d a k : BitVec 4) (x y : BitVec 3) (g : BitVec 4) (rm : Rm), s.pool.wf = true → guardOn s g = true →
    (Instr.vcvt d a k x y g).wf = true → (cvtRounds x.toNat y.toNat = true → Rounds s rm) →
    let sw := elemBytes y.toNat
    let dw := elemBytes x.toNat
    let src := (upTo 16).map fun i => elemAt (getVBytes s a.toNat) sw (if sw = 4 then i else 16 * k.toNat + i)
    let mode (i : Nat) : CvtMode :=
      { rm := if cvtRounds x.toNat y.toNat then rm else .rne, srnd := bitAt (fmode s) 8, sat8 := bitAt (fmode s) 9, draw := drawU s i }
    let r := (upTo 16).map fun i => convert x.toNat y.toNat (mode i) (src.getD i 0)
    let vals := r.map fun e => e.1.toNat % 2 ^ (8 * dw)
    let fl := r.foldl (fun f e => f ||| e.2) (0 : Flags)
    NoTrap s fl →
      ∃ u t, FlagsOr s u fl ∧
        PoolSet u t (wsOf s + 0x400 + 0x40 * d.toNat + (if dw = 4 then 0 else 16 * k.toNat * dw)) (laneBytes dw vals) ∧
        exec (.vcvt d a k x y g) s = .next (subnormalTurns
          ((y == 0 && anySubnormal src) || (x == 0 && anySubnormal vals)) (advanceDraw t (if cvtDraws x.toNat then 16 else 0)))

/-- R189 to R191: each vector interval instruction applies its scalar counterpart to each lane; NP and EM stand. -/
def Obligations.VectorIntervals : Prop :=
  ∀ (s : State) (d a b c : BitVec 3) (cc : BitVec 2) (g : BitVec 4), s.pool.wf = true → guardOn s g = true →
    let x := getVI s a
    let y := getVI s b
    let z := getVI s c
    let ends (l : List Ival) : List Nat := l.map (·.lo) ++ l.map (·.hi)
    let gives (i : Instr) (sub : Bool) (r : List Ival) : Prop := GivesVV sub i s d (r.map (·.lo)) (r.map (·.hi))
    let add := List.zipWith ivAdd x y
    let mul := List.zipWith ivMul x y
    let fma := List.zipWith (fun p w => ivFma p.1 p.2 w) (x.zip y) z
    let cmp := List.zipWith (ivCmp cc.toNat) x y
    let mask (b : Bool) : Nat := if b then 0xFFFFFFFF else 0
    gives (.viadd d a b g) (anySubnormal (ends x ++ ends y ++ ends add)) add ∧
    gives (.vimul d a b g) (anySubnormal (ends x ++ ends y ++ ends mul)) mul ∧
    gives (.vifma d a b c g) (anySubnormal (ends x ++ ends y ++ ends z ++ ends fma)) fma ∧
    gives (.vimax d a b g) false (List.zipWith ivMax x y) ∧
    GivesVV false (.vicmp d a b cc g) s d (cmp.map fun r => mask r.1) (cmp.map fun r => mask r.2)

/-! ### Control flow, calls and frames (R17 to R20, R94 to R100) -/

/-- (a) R94 to R97, R99, R100, R52: where a branch, jump or loop goes when its target is in range and aligned; the two no-operations. (b)
R94, R14: a target out of range takes ADDR, and one that is not a multiple of 8 takes ALIGN, in this order, with the target in TVAL;
nothing of the instruction's own effect stands. -/
def Obligations.BranchesAndJumps : Prop :=
  (∀ (s : State) (b : BitVec 5) (d : BitVec 21) (o : BitVec 11) (ext : W32) (g h : BitVec 4), s.pool.wf = true → guardOn s g = true →
     let good (t : W64) : Prop := t.toNat / 2 ^ 57 = 0 ∧ t.toNat % 8 = 0
     let goes (i : Instr) (t : W64) : Prop := good t → exec i s = .next { s with cur := { s.cur with npc := t } }
     let count := rX s b - 1
     let back := s.cur.pc + o.signExtend 64 * 8
     goes (.br d g) (s.cur.pc + d.signExtend 64 * 8) ∧
     goes (.brLong ext g) (s.cur.pc + ext.signExtend 64 * 8) ∧
     goes (.jmpr b o g) (rX s b + o.signExtend 64 * 8) ∧
     goes (.jmp ext g) (BitVec.ofNat 64 (s.cur.pc.toNat % 2 ^ 57 / 2 ^ 35 * 2 ^ 35 + ext.toNat * 8)) ∧
     (count = 0 → GivesX (.loop b o g) s b 0) ∧
     (count ≠ 0 → good back → ∃ u, XSet s u b.toNat count ∧
       exec (.loop b o g) s = .next { u with cur := { u.cur with npc := back } }) ∧
     exec (.cNop h) s = .next s ∧ exec (.aNop h) s = .next s) ∧
  (∀ (s : State) (b : BitVec 5) (d : BitVec 21) (o : BitVec 11) (ext : W32) (g : BitVec 4), guardOn s g = true →
     let traps (i : Instr) (t : W64) : Prop :=
       (t.toNat / 2 ^ 57 ≠ 0 → exec i s = .next (trap s 0x04 t)) ∧
       (t.toNat / 2 ^ 57 = 0 → t.toNat % 8 ≠ 0 → exec i s = .next (trap s 0x03 t))
     traps (.br d g) (s.cur.pc + d.signExtend 64 * 8) ∧
     traps (.brLong ext g) (s.cur.pc + ext.signExtend 64 * 8) ∧
     traps (.call d g) (s.cur.pc + d.signExtend 64 * 8) ∧
     traps (.callLong ext g) (s.cur.pc + ext.signExtend 64 * 8) ∧
     traps (.jmpr b o g) (rX s b + o.signExtend 64 * 8) ∧
     traps (.callr b o g) (rX s b + o.signExtend 64 * 8) ∧
     (rX s b ≠ 1 → traps (.loop b o g) (s.cur.pc + o.signExtend 64 * 8)))

/-- (a) R17, R97, R98: a call with room in the frame ring. x1 to x7, the status block, SRSEED and TVEC, as they stood before the bundle,
move to the new frame, LINK is the return address, SBASE points to the caller's frame, DEPTH rises by 1, and memory outside the new
workspace stands. (b) R20, R97: RET with DEPTH 0 takes ILLEG; else it goes to LINK and returns to the caller's frame, which is resident
here: x1 to x7, the status block, SRSEED and TVEC come back, and every other byte stands. (c) R18 to R20: a CALL that finds all frames of
the ring in use writes the oldest frame, whole, to the backing store at the spill pointer, which rises by 0x800, and then takes its frame;
one whose spill would pass the limit takes STACKOVF, with the spill pointer in TVAL, and changes nothing else. A RET to a frame that was
spilled reads it back from the spill pointer less 0x800, which is then the spill pointer: the caller's other registers are as it left
them, but for the word of x0, which is zero (R7). That a spill in a reserved slot (R290) or with no room in the backing store is STACKOVF
with TVAL 0, and which TVAL a first spill's area that is too small gives, are log entries 18 and 131, the model's. The undefined words of
the fresh frame are free values (log entry 3); the place of a spill area, DEPTH at 255, the order of a bad target and a refill, and TVAL
of a first spill that has no room are the model's choices (log entries 18, 102, 124 and 131), and that poison marks travel is its reading
(log entry 89). -/
def Obligations.CallAndReturn : Prop :=
  (∀ (s : State) (b : BitVec 5) (d : BitVec 21) (o : BitVec 11) (ext : W32) (g : BitVec 4), s.pool.wf = true → guardOn s g = true →
     s.cur.depth.toNat - s.cur.spilled + 1 < frameRing s s.cur →
     let new := frameNext s s.cur
     let old := wsKey s.cur
     let k := poolKey s.cur.core new
     (old + 0x800 ≤ k ∨ k + 0x800 ≤ old) →
     let calls (i : Instr) (t : W64) : Prop := t.toNat / 2 ^ 57 = 0 → t.toNat % 8 = 0 →
       ∃ u, exec i s = .next u ∧
         u.pool.readBytes (k + 8) 56 = (rpool s).readBytes (old + 8) 56 ∧
         u.pool.readBytes (k + 0x180) 0x40 = (rpool s).readBytes (old + 0x180) 0x40 ∧
         u.pool.readBytes (k + 0x1D0) 0x10 = (rpool s).readBytes (old + 0x1D0) 0x10 ∧
         u.pool.readNat (k + 0x1C0) 8 = (s.cur.pc + 8).toNat ∧
         u.pool.readNat (k + 0x1C8) 8 = (0x2 * 2 ^ 60 + s.cur.wp) % 2 ^ 64 ∧
         u.pool.readNat k 8 = 0 ∧ u.pool.wf = true ∧
         (∀ a, a < k ∨ k + 0x800 ≤ a → u.pool.read a = s.pool.read a) ∧
         u = { s with
           pool := u.pool, poolPoison := u.poolPoison, freeNext := s.freeNext + 1
           cur := { s.cur with wp := new, npc := t, depth := s.cur.depth + 1 } }
     calls (.call d g) (s.cur.pc + d.signExtend 64 * 8) ∧
     calls (.callLong ext g) (s.cur.pc + ext.signExtend 64 * 8) ∧
     calls (.callr b o g) (rX s b + o.signExtend 64 * 8)) ∧
  (∀ (s : State) (g : BitVec 4), s.pool.wf = true → guardOn s g = true →
     (s.cur.depth = 0 → exec (.ret g) s = .next (trap s 0x01 (bundleNow s))) ∧
     (s.cur.depth ≠ 0 → s.cur.spilled < s.cur.depth.toNat → s.pre = none →
       let t : W64 := BitVec.ofNat 64 (s.pool.readNat (wsKey s.cur + 0x1C0) 8)
       let prev := framePrev s s.cur
       let old := wsKey s.cur
       let k := poolKey s.cur.core prev
       t.toNat / 2 ^ 57 = 0 → t.toNat % 8 = 0 → (old + 0x800 ≤ k ∨ k + 0x800 ≤ old) →
       let moved (a : Nat) : Prop := (k + 8 ≤ a ∧ a < k + 0x40) ∨ (k + 0x180 ≤ a ∧ a < k + 0x1C0) ∨ (k + 0x1D0 ≤ a ∧ a < k + 0x1E0)
       ∃ u, exec (.ret g) s = .next u ∧
         (∀ a, moved a → u.pool.read a = s.pool.read (a - k + old)) ∧
         (∀ a, ¬ moved a → u.pool.read a = s.pool.read a) ∧ u.pool.wf = true ∧
         u = { s with
           pool := u.pool, poolPoison := u.poolPoison
           cur := { s.cur with wp := prev, npc := t, depth := s.cur.depth - 1 } })) ∧
  (∀ (s s1 : State) (pa : Nat) (b : BitVec 5) (d : BitVec 21) (o : BitVec 11) (ext : W32) (g : BitVec 4), s.pool.wf = true → guardOn s g = true →
     let old := wsKey s.cur
     let free (k : Nat) : Prop := ∀ p ∈ s.cur.pend, p.base ≠ k
     let apart (k : Nat) : Prop := k = old ∨ old + 0x800 ≤ k ∨ k + 0x800 ≤ old
     let reached : Prop := s1.cur = s.cur ∧ s1.pool = s.pool ∧ s1.pre = s.pre ∧ s1.hbm.wf = true ∧
       linkBusy s1 (dieOf s.cur.core) (.mem pa) = false ∧ cutOff s1 (dieOf s.cur.core) (.mem pa) = false
     let calls (q : Instr → W64 → Prop) : Prop :=
       q (.call d g) (s.cur.pc + d.signExtend 64 * 8) ∧ q (.callLong ext g) (s.cur.pc + ext.signExtend 64 * 8) ∧
         q (.callr b o g) (rX s b + o.signExtend 64 * 8)
     let good (t : W64) : Prop := t.toNat / 2 ^ 57 = 0 ∧ t.toNat % 8 = 0
     let new := frameNext s s.cur
     let k := poolKey s.cur.core new
     let full : Prop := frameRing s s.cur ≤ s.cur.depth.toNat - s.cur.spilled + 1 ∧ free k
     let passes (v : W64) : Prop := calls fun i t => good t → exec i s = .next (trap s 0x0B v)
     (full → s.cur.spill = 0 → s.cur.handler.isSome ∨ freeSpill s s.cur = none → passes 0) ∧
     (full → s.cur.spill ≠ 0 → s.cur.slim.toNat < s.cur.spill.toNat + 0x800 → passes s.cur.spill) ∧
     (full → s.cur.spill ≠ 0 → s.cur.spill.toNat + 0x800 ≤ s.cur.slim.toNat → apart k →
       threadPlaces s.cur .store 0 (pageParts 3 (addrOf s.cur.spill) 0x800) s = (s1, .ok [(.mem pa, 0x800)]) → reached →
       calls fun i t => good t → ∃ u, exec i s = .next u ∧
         u.hbm.readBytes pa 0x800 = s.pool.readBytes k 0x800 ∧
         (∀ a, a < pa ∨ pa + 0x800 ≤ a → u.hbm.read a = s1.hbm.read a) ∧
         u.pool.readBytes (k + 8) 56 = (rpool s).readBytes (old + 8) 56 ∧
         u.pool.readBytes (k + 0x180) 0x40 = (rpool s).readBytes (old + 0x180) 0x40 ∧
         u.pool.readBytes (k + 0x1D0) 0x10 = (rpool s).readBytes (old + 0x1D0) 0x10 ∧
         u.pool.readNat (k + 0x1C0) 8 = (s.cur.pc + 8).toNat ∧ u.pool.readNat k 8 = 0 ∧
         (∀ a, a < k ∨ k + 0x800 ≤ a → u.pool.read a = s.pool.read a) ∧ u.pool.wf = true ∧ u.hbm.wf = true ∧
         u = { s1 with
           pool := u.pool, poolPoison := u.poolPoison, hbm := u.hbm, hbmPoison := u.hbmPoison, freeNext := s1.freeNext + 1
           cur := { s.cur with
             wp := new, npc := t, depth := s.cur.depth + 1, spill := s.cur.spill + 0x800, spilled := s.cur.spilled + 1 } }) ∧
     (let t : W64 := BitVec.ofNat 64 (s.pool.readNat (old + 0x1C0) 8)
      let prev := framePrev s s.cur
      let k := poolKey s.cur.core prev
      let p := s.cur.spill - 0x800
      let moved (a : Nat) : Prop := (k + 8 ≤ a ∧ a < k + 0x40) ∨ (k + 0x180 ≤ a ∧ a < k + 0x1C0) ∨ (k + 0x1D0 ≤ a ∧ a < k + 0x1E0)
      s.cur.depth ≠ 0 → s.cur.depth.toNat ≤ s.cur.spilled → s.pre = none → good t → free k → apart k →
      threadPlaces s.cur .load 0 (pageParts 3 (addrOf p) 0x800) s = (s1, .ok [(.mem pa, 0x800)]) → reached →
      ∃ u, exec (.ret g) s = .next u ∧
        (∀ a, moved a → u.pool.read a = s.pool.read (a - k + old)) ∧
        (∀ a, k + 8 ≤ a → a < k + 0x800 → ¬ moved a → u.pool.read a = s1.hbm.read (pa + (a - k))) ∧
        u.pool.readNat k 8 = 0 ∧ (∀ a, a < k ∨ k + 0x800 ≤ a → u.pool.read a = s.pool.read a) ∧ u.pool.wf = true ∧
        u = { s1 with
          pool := u.pool, poolPoison := u.poolPoison
          cur := { s.cur with wp := prev, npc := t, depth := s.cur.depth - 1, spill := p, spilled := s.cur.spilled - 1 } }))

/-! ### Loads, stores, atomics and fences (R101 to R107, R188, R245 to R255) -/

/-- (a) R101 to R103, R113, R188: the pointer, size, sign and order of every load. An 11-bit offset counts units of the size, an extension
counts bytes. (b) R71, R101, R198, R199, R201, R203: the step of a load of one piece into a general register: the bytes of its place, or
those of the thread's own store to them that is still outstanding, zero- or sign-extended from its size, are in its register, and the
access is over. On the RO path the bytes come from a line of the cluster's buffer that may serve the thread, and a miss brings the line
in, but for another package's frame. A LOG page that does not translate is reported to the fault service, and the load completes. What an
access without an answer returns is log entry 8; that the own pool is read at issue, early, or the bundle issues again, is log entry 41,
and the order of steps log entry 38, both the model's choice; a LOG load whose page does not translate is log entry 105. -/
def Obligations.LoadsIssueAndLand : Prop :=
  (∀ (s : State) (d b c : BitVec 5) (e : BitVec 4) (o : BitVec 11) (z ord : BitVec 2) (sc : BitVec 3) (ext : W32) (g : BitVec 4),
     guardOn s g = true →
     let near (n : Nat) : W64 := rX s b + o.signExtend 64 * BitVec.ofNat 64 n
     let far := rX s b + ext.signExtend 64
     let n := 2 ^ z.toNat
     let ld (i : Instr) (p : W64) (n : Nat) (sg : Bool) (ord scope : Nat) : Prop := GivesLoad i s p n n (.x d.toNat n sg) ord scope
     ld (.ldB d b o g) (near 1) 1 true 0 0 ∧ ld (.ldBu d b o g) (near 1) 1 false 0 0 ∧
     ld (.ldH d b o g) (near 2) 2 true 0 0 ∧ ld (.ldHu d b o g) (near 2) 2 false 0 0 ∧
     ld (.ldW d b o g) (near 4) 4 true 0 0 ∧ ld (.ldWu d b o g) (near 4) 4 false 0 0 ∧
     ld (.ldD d b o g) (near 8) 8 false 0 0 ∧
     ld (.ldBLong d b ext g) far 1 true 0 0 ∧ ld (.ldBuLong d b ext g) far 1 false 0 0 ∧
     ld (.ldHLong d b ext g) far 2 true 0 0 ∧ ld (.ldHuLong d b ext g) far 2 false 0 0 ∧
     ld (.ldWLong d b ext g) far 4 true 0 0 ∧ ld (.ldWuLong d b ext g) far 4 false 0 0 ∧
     ld (.ldDLong d b ext g) far 8 false 0 0 ∧
     ld (.ldx d b c z g) (rX s b + (rX s c <<< z.toNat)) n true 0 0 ∧
     ld (.ldxU d b c z g) (rX s b + (rX s c <<< z.toNat)) n false 0 0 ∧
     ld (.ldOrdered d b ord sc z g) (rX s b) n true ord.toNat sc.toNat ∧
     ld (.ldUOrdered d b ord sc z g) (rX s b) n false ord.toNat sc.toNat ∧
     ld (.ldOrderedLong d b ord sc z ext g) far n true ord.toNat sc.toNat ∧
     ld (.ldUOrderedLong d b ord sc z ext g) far n false ord.toNat sc.toNat ∧
     GivesLoad (.ivld e b o g) s (near 8) 8 8 (.iv e.toNat) 0 0 ∧
     GivesLoad (.ivldLong e b ext g) s far 8 8 (.iv e.toNat) 0 0 ∧
     GivesLoad (.ldv e b c g) s (rX s b + (rX s c <<< 6)) 64 4 (.v e.toNat) 0 0) ∧
  (∀ (s : State) (id : Nat) (a : Access) (p : Piece) (d n : Nat) (sg : Bool), s.pool.wf = true →
     s.accesses.find? (fun x => x.id == id) = some a → a.op = .load → a.dst = .x d n sg → a.pieces = [p] → p.n = n → 0 < n →
     a.poison = false →
     let value (l : List Byte) : W64 := if sg then sextN (leNat l) (8 * n) else BitVec.ofNat 64 (leNat l % 2 ^ (8 * n))
     let lands (r : State) (l : List Byte) : Prop := ∃ t, Lands r t a d (value l) ∧ exec (.loadDataLands id) s = .next t
     (a.early = true → lands s p.data) ∧
     (a.early = false → p.data = [] → a.logs = [] → mustFollow s a = false → linkBusy s (dieOf a.core) p.loc = false →
       cutOff s (dieOf a.core) p.loc = false →
       (∀ f, forwarded s a p = some f → f.1 ≠ [] → f.2 = false → lands s f.1) ∧
       (forwarded s a p = none → poisonedLoc s p.loc n = false →
         (a.path ≠ 1 → (∀ q off, p.loc = .log q off → ∃ x, deviceAddr s q (logAddr s q off) false = .ok x) → lands s (readLoc s p.loc n)) ∧
         (∀ q off c h, p.loc = .log q off → deviceAddr s q (logAddr s q off) false = .error c → s.thread? a.tid = some h →
           lands (s.later [.faultNotification q h.recd (stopWord c 0 6 a.core h.slot) p.ptr 0]) (readLoc s p.loc n)) ∧
         (∀ pa, a.path = 1 → p.loc = .mem pa →
           let va := addrOf p.ptr
           let from' := ((s.thread? a.tid).map (·.roFrom)).getD 0
           (∀ line, roLine s a.core a.pid va from' = some line → (line.bytes.drop (va % 128)).take n ≠ [] →
             lands s ((line.bytes.drop (va % 128)).take n)) ∧
           (roLine s a.core a.pid va from' = none →
             lands (if isRemote pa then s else roFill s (clusterOf a.core) a.pid va (s.hbm.readBytes (pa - va % 128) 128))
               (s.hbm.readBytes pa n))))))

/-- (a) R101 to R103, R113: the pointer, size and value of every store. (b) R227, R211: the step of a store of one piece to main memory:
its bytes stand there, the bytes they replace stand in its undo entries, every other byte of main memory reads as before, and the access
is over; a release of a narrow scope that has left earlier accesses behind it is open (R236). That a store to the own pool is written at
issue is log entry 41, that a release behind earlier accesses waits in flight or issues again is log entry 45, and the order of steps is
log entry 38, all the model's choice; that read-only bytes of the own ring keep their bits is log entry 14, its reading. -/
def Obligations.StoresIssueAndPerform : Prop :=
  (∀ (s : State) (d b c : BitVec 5) (e : BitVec 4) (o : BitVec 11) (z ord : BitVec 2) (sc : BitVec 3) (ext : W32) (g : BitVec 4),
     s.pool.wf = true → guardOn s g = true →
     let near (n : Nat) : W64 := rX s b + o.signExtend 64 * BitVec.ofNat 64 n
     let far := rX s b + ext.signExtend 64
     let v := (rX s d).toNat
     let iv := (getIv s e.toNat).lo % 2 ^ 32 + 2 ^ 32 * ((getIv s e.toNat).hi % 2 ^ 32)
     let n := 2 ^ z.toNat
     GivesStore (.stB d b o g) s (near 1) 1 v 0 0 ∧ GivesStore (.stH d b o g) s (near 2) 2 v 0 0 ∧
     GivesStore (.stW d b o g) s (near 4) 4 v 0 0 ∧ GivesStore (.stD d b o g) s (near 8) 8 v 0 0 ∧
     GivesStore (.stBLong d b ext g) s far 1 v 0 0 ∧ GivesStore (.stHLong d b ext g) s far 2 v 0 0 ∧
     GivesStore (.stWLong d b ext g) s far 4 v 0 0 ∧ GivesStore (.stDLong d b ext g) s far 8 v 0 0 ∧
     GivesStore (.stx d b c z g) s (rX s b + (rX s c <<< z.toNat)) n v 0 0 ∧
     GivesStore (.stOrdered d b ord sc z g) s (rX s b) n v ord.toNat sc.toNat ∧
     GivesStore (.stOrderedLong d b ord sc z ext g) s far n v ord.toNat sc.toNat ∧
     GivesStore (.ivst e b o g) s (near 8) 8 iv 0 0 ∧ GivesStore (.ivstLong e b ext g) s far 8 iv 0 0) ∧
  (∀ (s : State) (id : Nat) (a : Access) (p : Piece) (pa : Nat), s.hbm.wf = true →
     s.accesses.find? (fun x => x.id == id) = some a → a.op = .store → a.pieces = [p] → p.loc = .mem pa → a.poison = false →
     (a.early = true ∨ (mustFollow s a = false ∧ linkBusy s (dieOf a.core) p.loc = false ∧ cutOff s (dieOf a.core) p.loc = false ∧ LogsReachable s a)) →
     let v := openRelease (patchLogs s a p) a p
     ∃ t, exec (.storePerformed id) s = .next t ∧ t.hbm.readBytes pa p.data.length = p.data ∧
       (∀ b, b < pa ∨ pa + p.data.length ≤ b → t.hbm.read b = v.hbm.read b) ∧
       (a.done = [] → p.bad = false → p.data.length = p.n → ∃ u, HbmSet v u pa p.data ∧ AccessOver u t a))

/-- (a) R104 to R107: operand, comparand, count, width and order of every atomic. (b) R104 to R107, R229: an atomic at main memory is one
indivisible read and write. The word holds the new value, the register the old one (sign-extended from 4 bytes, but zero-extended for
AMFADD), and only a failing comparison writes nothing; a release of a narrow scope that has left earlier accesses behind it is open
(R236). That an atomic in the own pool is performed at issue with only its answer in flight is log entry 41, that a release waits in
flight or issues again is log entry 45, and the order of steps is log entry 38, all the model's choice. -/
def Obligations.AtomicsIssueAndPerform : Prop :=
  (∀ (s : State) (d b : BitVec 5) (w : BitVec 1) (ord : BitVec 2) (sc : BitVec 3) (g : BitVec 4), guardOn s g = true →
     let n := if w = 1 then 8 else 4
     let k := (rX s d).toNat
     let m := (rcur s).mcnt.toNat
     let amo (i : Instr) (n aop : Nat) : Prop := GivesAtomic i s d (rX s b) n aop k 0 m ord.toNat sc.toNat
     amo (.amadd d b w ord sc g) n 0 ∧ amo (.amfadd d b ord sc g) 4 1 ∧ amo (.ammin d b w ord sc g) n 2 ∧
     amo (.ammax d b w ord sc g) n 3 ∧ amo (.amand d b w ord sc g) n 4 ∧ amo (.amor d b w ord sc g) n 5 ∧
     amo (.amxor d b w ord sc g) n 6 ∧ amo (.amxchg d b w ord sc g) n 7 ∧
     GivesAtomic (.amcas d b w ord sc g) s d (rX s b) n 8 (getX s (d.toNat + 1)).toNat k 1 ord.toNat sc.toNat) ∧
  (∀ (s : State) (id : Nat) (a : Access) (p : Piece) (pa aop k cmp m : Nat) (d : BitVec 5), s.pool.wf = true → s.hbm.wf = true →
     s.accesses.find? (fun x => x.id == id) = some a → a.op = .rmw aop k cmp m → a.dst = rmwDest d aop p.n → a.pieces = [p] →
     p.loc = .mem pa → (p.n = 4 ∨ p.n = 8) → aop ≤ 8 → a.logs = [] → a.poison = false → poisonedLoc s p.loc p.n = false → a.early = false →
     mustFollow s a = false → linkBusy s (dieOf a.core) p.loc = false → cutOff s (dieOf a.core) p.loc = false →
     let w := 8 * p.n
     let old := leNat (s.hbm.readBytes pa p.n)
     let x := BitVec.ofNat w old
     let y := BitVec.ofNat w k
     let new : Nat := match aop with
       | 0 => (old + k * m) % 2 ^ w
       | 1 => amfaddSum old k m % 2 ^ w
       | 2 => (if y.slt x then y else x).toNat
       | 3 => (if x.slt y then y else x).toNat
       | 4 => (x &&& y).toNat
       | 5 => (x ||| y).toNat
       | 6 => (if m % 2 = 1 then x ^^^ y else x).toNat
       | 7 => y.toNat
       | _ => if old = cmp % 2 ^ w then y.toNat else old
     let back : W64 := if aop = 1 ∨ p.n = 8 then BitVec.ofNat 64 old else x.signExtend 64
     ∃ u t, HbmSet (if aop = 8 ∧ old ≠ cmp % 2 ^ w then s else openRelease s a p) u pa (leBytes p.n new) ∧ Lands u t a d.toNat back ∧
       exec (.storePerformed id) s = .next t)

/-- R188, R249 to R251: the vector accesses. STV is one store of 64 bytes; the strided and gathered forms reach 16 words of 4 bytes. The
order of a vector access's steps is open and chosen by log entries 38 and 41, and a release waits as log entry 45 says, the model's
choices. -/
def Obligations.VectorMemoryAccesses : Prop :=
  ∀ (s : State) (d c : BitVec 4) (b x : BitVec 5) (g : BitVec 4), s.pool.wf = true → guardOn s g = true →
    let base := rX s b
    let stride := (upTo 16).map fun i => base + BitVec.ofNat 64 i * rX s x
    let gather := (getV s c.toNat).map fun l => base + (BitVec.ofNat 32 l).signExtend 64
    let lane (i : Nat) : List Byte := leBytes 4 ((getV s d.toNat).getD i 0)
    GivesLoadLanes (.ldvs d b x g) s base stride (.v d.toNat) ∧
    GivesLoadLanes (.ldvg d b c g) s base gather (.v d.toNat) ∧
    GivesStoreLanes (.stvs d b x g) s base stride 4 lane ∧
    GivesStoreLanes (.stvg d b c g) s base gather 4 lane ∧
    GivesStoreLanes (.stv d b x g) s (base + (rX s x <<< 6)) [base + (rX s x <<< 6)] 64 fun _ => getVBytes s d.toNat

/-- (a) R221, R248, R199: FENCE completes at once; while an access that it waits for is in flight, the accesses that its kind names are
held back, and FENCE.ro (kind 3) empties the context's lines of the cluster's read-only buffer and no other line; with nothing to wait
for, no line brought in before it serves the thread (R225). (b) R255: PREF changes no register and no memory but the A bit of the leaf
that it has the station cache, and takes no trap: a pointer that does not translate, or a path without an action, leaves everything as it
was but for the Measure event of the miss (R315). How a thread keeps from older lines after FENCE.ro is log entry 54, the model's choice.
-/
def Obligations.FencesAndPrefetch : Prop :=
  (∀ (s : State) (k : BitVec 2) (sc : BitVec 3) (g : BitVec 4), guardOn s g = true →
     let waits := ((ownAccesses s s.cur.tid).filter fun a => k ≠ 0 || a.op != .store).map (·.id)
     let mine (l : RoLine) : Prop := l.cluster = clusterOf s.cur.core ∧ l.pid = s.cur.pid
     ∃ t, exec (.fence k sc g) s = .next t ∧
       t = { s with
         ro := t.ro, agenda := t.agenda
         cur := { s.cur with
           fences := s.cur.fences + 1
           holds := s.cur.holds ++ if waits.isEmpty then [] else [{ kind := k.toNat, waits := waits }]
           roFrom := if k = 3 ∧ waits.isEmpty then s.roNext else s.cur.roFrom } } ∧
       (k ≠ 3 → t.ro = s.ro ∧ t.agenda = s.agenda) ∧ (k = 3 → ∀ l, l ∈ t.ro ↔ l ∈ s.ro ∧ ¬ mine l) ∧
       (waits ≠ [] → (k ≠ 3 → heldBack t true false = true) ∧ (k = 0 ∨ k = 2 → heldBack t false false = true) ∧
         (k ≠ 1 → heldBack t false true = true))) ∧
  (∀ (s : State) (h b : BitVec 5) (g : BitVec 4), s.hbm.wf = true → guardOn s g = true → h.toNat ≤ 2 →
     let p := rX s b
     let path := p.toNat / 2 ^ 60
     let va := p.toNat % 2 ^ 57
     let wanted := p.toNat / 2 ^ 57 % 8 = 0 ∧ (path = 0 ∨ path = 1 ∨ (path = 4 ∧ h ≠ 1)) ∧ untranslated s s.cur = false ∧
       revokedPid s (stationOf (dieOf s.cur.core) va) s.cur.pid = false
     let m := tapMiss s s.cur va
     ∃ t, exec (.pref h b g) s = .next t ∧
       t = { s with hbm := t.hbm, tlb := t.tlb, agenda := t.agenda, freeNext := t.freeNext } ∧
       (¬ wanted → t = s) ∧ (wanted → walk m s.cur.pid va = .page → t = m) ∧
       (∀ e lvl pa, wanted → walk m s.cur.pid va = .leaf e lvl pa →
         (leafPermits e path s.cur.priv .load = false → t = m) ∧
         (leafPermits e path s.cur.priv .load = true →
           t.hbm = s.hbm.writeNat pa 8 (setBits e 5 1 1) ∧
           (∃ x ∈ t.tlb, x.station = stationOf (dieOf s.cur.core) va ∧ x.pid = s.cur.pid ∧ x.level = lvl ∧ x.vpn = va / 2 ^ (12 + 9 * lvl) ∧
             x.leaf = BitVec.ofNat 64 (setBits e 5 1 1)) ∧
           t.freeNext = m.freeNext ∧
           t.agenda = m.agenda ++ if h = 1 then [.roBufferFill (clusterOf s.cur.core) s.cur.pid (BitVec.ofNat 57 va)] else [])))

/-- R204 to R207, R199, R198: a walk that ends in a permitted leaf caches it with A set (and D for a store or an atomic) and lets the
thread's bundle issue again; one that ends in no leaf suspends the thread in FAULT, its live blocks standing (R127), and tells the fault
service (R333); the fill of a read-only line holds main memory's bytes, but no other package's; and the core that an NBR load names reads
the bytes at its step. Which entry goes where there is no room is log entry 43, the model's choice. -/
def Obligations.WalksFillsAndNeighbours : Prop :=
  ∀ (s : State), s.hbm.wf = true →
    (∀ (p : W64) (kind : AccKind), s.cur.state ≠ .free → s.cur.wait = some .walk →
      let va := addrOf p
      let ws := wsKey s.cur
      let st := stationOf (dieOf s.cur.core) va
      revokedPid s st s.cur.pid = false → s.agenda.filter (sameWalk s s.cur p) = [] →
      (walk s s.cur.pid va = .page → ∃ t, exec (.pageWalk s.cur.tid p kind) s = .next t ∧
        .faultNotification s.cur.pid s.cur.recd (stopWord cPAGE (kindCode kind) (pathOf p) s.cur.core s.cur.slot) p 0 ∈ t.agenda ∧
        (∀ x, (x < ws ∨ ws + 0x800 ≤ x ∨ s.cur.lmask.getLsbD ((x - ws) / 0x40) = true ∨ (x - ws) / 0x40 = 6 ∨ (x - ws) / 0x40 = 7) →
          t.pool.read x = s.pool.read x) ∧
        t = { s with
          agenda := t.agenda, pool := t.pool, freeNext := t.freeNext, hbm := t.hbm, hbmPoison := t.hbmPoison
          cur := { s.cur with state := .fault, wait := none, lastFault := p, idleTs := s.ts } }) ∧
      (∀ e lvl pa, walk s s.cur.pid va = .leaf e lvl pa → leafPermits e (pathOf p) s.cur.priv kind = true →
        let e1 := setBits (if kind = .store ∨ kind = .atomic then setBits e 6 1 1 else e) 5 1 1
        ∃ t x, exec (.pageWalk s.cur.tid p kind) s = .next t ∧ x ∈ t.tlb ∧ x.station = st ∧ x.pid = s.cur.pid ∧ x.level = lvl ∧
          x.vpn = va / 2 ^ (12 + 9 * lvl) ∧ x.leaf = BitVec.ofNat 64 e1 ∧
          t = { s with
            agenda := t.agenda, tlb := t.tlb, hbm := s.hbm.writeNat pa 8 e1, cur := { s.cur with wait := none } })) ∧
    (∀ (cl : Nat) (pid : BitVec 16) (va : BitVec 57),
      (walk s pid va.toNat = .page → exec (.roBufferFill cl pid va) s = .next s) ∧
      (∀ e lvl pa, walk s pid va.toNat = .leaf e lvl pa →
        let at' := leafAddr s e lvl (va.toNat - va.toNat % 128)
        (isRemote at' = true → exec (.roBufferFill cl pid va) s = .next s) ∧
        (isRemote at' = false → ∃ t, exec (.roBufferFill cl pid va) s = .next t ∧
          (∃ l ∈ t.ro, l.cluster = cl ∧ l.pid = pid ∧ l.line = va.toNat / 128 ∧ l.bytes = s.hbm.readBytes at' 128 ∧ l.fill = s.roNext) ∧
          t = { s with ro := t.ro, roNext := s.roNext + 1 }))) ∧
    (∀ (id k : Nat) (a : Access) (p : Piece), s.accesses.find? (fun x => x.id == id) = some a → a.op = .load → a.pieces = [p] →
      p.data = [] → p.loc = .pool k → 0 < p.n → forwarded s a p = none → a.logs = [] → a.early = false → mustFollow s a = false → linkBusy s (dieOf a.core) p.loc = false → cutOff s (dieOf a.core) p.loc = false →
      ∃ t b, exec (.nbrAccess id) s = .next t ∧ b ∈ t.accesses ∧ b.id = id ∧ b.early = true ∧ b.op = .load ∧
        b.pieces.map (·.data) = [readLoc s p.loc p.n] ∧ t = { s with accesses := t.accesses, agenda := s.agenda ++ [.loadDataLands id] })

/-- (a) R257, R259, R263: BASTE opens a window, unless the context has no log or 255 windows are open; BWIN reads the window state, or is
suspended where a marker that it would read lies in a page that does not translate. (b) R258, R260, R261: TACK and UNPICK of a window that
is not open write 2, UNPICK that would reach a fixed window writes 1, and nothing else of the thread changes. TACK commits the `c` oldest
windows and writes 0. UNPICK whose restoring walk ends writes 0, or 3 where a write was not performed, and closes its windows. One of the
two whose chain lies in a page that does not translate is suspended at its bundle. -/
def Obligations.Windows : Prop :=
  (∀ (s : State) (d b : BitVec 5) (sel : BitVec 11) (g : BitVec 4), s.pool.wf = true → s.pre = none → guardOn s g = true →
     let ws := wsKey s.cur
     let w := wnextOf s s.cur.pid
     let marker (r : State) : List LogEnt :=
       [{ path := 0xF, sz := 6, addr := w, win := w, val := bundleNow r
          data := leBytes 4 (getSt r 0x1B4 4) ++ leBytes 4 r.cur.wincur.toNat }]
     let none' : Prop := sysQ s (descAt s.cur.pid + 0x10) = 0 ∨ nopen s = 255
     (none' → GivesX (.baste d g) s d 0) ∧
     (∀ u offs, ¬ none' →
       appendPolicy s.cur.tid s.cur.core s.cur.pid marker (openCount s s.cur.pid) s = .ok u offs →
       u.cur.core = s.cur.core → u.cur.wp = s.cur.wp → u.pre = none → u.pool.wf = true →
       ∃ v t, exec (.baste d g) s = .next t ∧ XSet v t d.toNat (BitVec.ofNat 64 w) ∧
         wnextOf v u.cur.pid = (if w + 1 = 2 ^ 32 then 1 else w + 1) ∧
         v.pool.readNat (ws + 0x1B4) 4 = u.pool.readNat (ws + 0x1B0) 4 ∧
         v.pool.readNat (ws + 0x193) 1 = (u.pool.readNat (ws + 0x193) 1 + 1) % 256 ∧
         (u.pool.readNat (ws + 0x193) 1 = 0 → v.pool.readNat (ws + 0x194) 4 = w % 2 ^ 32) ∧
         v.cur = { u.cur with wincur := BitVec.ofNat 32 w } ∧ v.hbm = u.hbm ∧
         (∀ a, a < ws + 0x193 ∨ ws + 0x1B8 ≤ a → v.pool.read a = u.pool.read a)) ∧
     (sel = 0 → GivesX (.bwin d b sel g) s d (BitVec.ofNat 64 (s.pool.readNat (ws + 0x190) 8))) ∧
     (sel = 1 → GivesX (.bwin d b sel g) s d (s.cur.wincur.zeroExtend 64)) ∧
     (sel = 2 → GivesX (.bwin d b sel g) s d
       (BitVec.ofNat 64 (4096 * (s.logBlocks.filter fun x => x.pid == s.cur.pid).length))) ∧
     let chain := chainFault s s.cur.pid (nopen s) (getSt s 0x1B4 4)
     (sel = 3 → (chain = none →
         GivesX (.bwin d b sel g) s d (BitVec.ofNat 64 ((windowsOf s s.cur).reverse.getD (rX s b).toNat (0, 0)).1)) ∧
       (∀ c x, chain = some (c, x) → exec (.bwin d b sel g) s = .next (suspendFault s c 0 0 (BitVec.ofNat 64 x) 0 s.cur.pc)))) ∧
  (∀ (s : State) (d b : BitVec 5) (g : BitVec 4), s.pool.wf = true → s.pre = none → s.cur.state ≠ .free → s.cur.img = none →
     guardOn s g = true →
     let ws := wsKey s.cur
     let key (n : Nat) : Nat := (n + 2 ^ 32 - s.pool.readNat (ws + 0x194) 4) % 2 ^ 32
     let asked := (rX s b).toNat % 2 ^ 32
     let cur := s.cur.wincur.toNat
     let open' := s.pool.readNat (ws + 0x193) 1
     let fixed := s.pool.readNat (ws + 0x192) 1
     let wins := windowsOf s s.cur
     let n1 := if asked = 0 then cur else asked
     let n2 := if asked = 0 then s.pool.readNat (ws + 0x194) 4 else asked
     let closed (n : Nat) : Prop := open' = 0 ∨ key cur < key n
     let quiet (v : State) : Prop := v = { s with agenda := v.agenda }
     let c1 := (wins.filter fun w => decide (key w.1 ≤ key n1)).length
     let back := wins.filter fun w => decide (key n2 ≤ key w.1)
     (closed n1 → ∃ v t, quiet v ∧ XSet v t d.toNat 2 ∧ exec (.tack d b g) s = .next t) ∧
     let chain := chainFault s s.cur.pid open' (s.pool.readNat (ws + 0x1B4) 4)
     (¬ closed n1 → ∀ c x, chain = some (c, x) → exec (.tack d b g) s = .next (suspendFault s c 0 0 (BitVec.ofNat 64 x) 0 s.cur.pc)) ∧
     (¬ closed n1 → chain = none → ∃ v t, exec (.tack d b g) s = .next t ∧ XSet v t d.toNat 0 ∧
       v.pool.readNat (ws + 0x193) 1 = open' - c1 ∧ v.pool.readNat (ws + 0x192) 1 = fixed - c1 ∧
       (open' - c1 = 0 → v.cur.wincur = 0 ∧ v.pool.readNat (ws + 0x194) 4 = 0 ∧ v.pool.readNat (ws + 0x1B0) 8 = 0) ∧
       (∀ a, a < ws + 0x192 ∨ ws + 0x1B8 ≤ a → v.pool.read a = s.pool.read a) ∧ v.hbm = s.hbm) ∧
     (closed n2 → ∃ v t, quiet v ∧ XSet v t d.toNat 2 ∧ exec (.unpick d b g) s = .next t) ∧
     (¬ closed n2 → ownAccesses s s.cur.tid = [] → ∀ c x, chain = some (c, x) →
       exec (.unpick d b g) s = .next (suspendFault { s with cur := { s.cur with unpicking := true } } c 0 0 (BitVec.ofNat 64 x) 0 s.cur.pc)) ∧
     (¬ closed n2 → ownAccesses s s.cur.tid = [] → chain = none →
       (open' - back.length < fixed → ∃ v t, quiet v ∧ XSet v t d.toNat 1 ∧ exec (.unpick d b g) s = .next t) ∧
       (∀ u all, fixed ≤ open' - back.length →
         unpickWalk s.cur.tid (back.getLast?.getD (0, 0)).2 (sysQ s (descAt s.cur.pid + 0x10) / 16 + 1) s s.cur.answer.isEmpty = .ok (u, all) →
         u.cur.core = s.cur.core → u.cur.wp = s.cur.wp → u.cur.tid = s.cur.tid → u.cur.state ≠ .free → u.cur.img = none →
         u.pre = none → u.pool.wf = true →
         ∃ v t, exec (.unpick d b g) s = .next t ∧ XSet v t d.toNat (if all then 0 else 3) ∧
           v.pool.readNat (ws + 0x193) 1 = open' - back.length ∧ v.hbm = u.hbm ∧
           (∀ a, a < ws + 0x192 ∨ ws + 0x1B8 ≤ a → v.pool.read a = u.pool.read a))))

/-- R252 to R254: VAPPEND begins its indivisible step; the step adds to COUNT, which saturates, and answers with COUNT, BASE and CAP as
they were; its entry for COUNT is logged at its issue (R215). Then xd holds the old COUNT and the elements below CAP are stored one after
the other, and the bundle comes again where a link to the log retrains (R391); on NBR, where a WORLD switch under way lets no access
start, the thread keeps them and is PREEMPTED behind its bundle (R341). The moments of the log entries are log entry 93, the model's
reading. -/
def Obligations.AppendReservesAndStores : Prop :=
  ∀ (s : State) (d b : BitVec 5) (c : BitVec 3) (n : BitVec 1) (g : BitVec 4), s.pool.wf = true → guardOn s g = true →
    let p := rX s b
    let sel := ((getV s (2 * c.toNat)).zip (getV s (2 * c.toNat + 1))).filter fun x => x.2.testBit 31 != (n == 1)
    let begins (i : Instr) (m : Nat) : Prop := s.cur.wait ≠ some .released →
      (p.toNat / 2 ^ 60 = 0 ∨ p.toNat / 2 ^ 60 = 2 ∨ p.toNat / 2 ^ 60 = 3) → heldBack s true false = false →
      ∀ l u offs, checkPtr s s.cur .atomic p 16 0 = .ok l →
        let s0 := countDrops s [l]
        ¬ (fixesWindow l ∧ nopen s0 ≠ 0 ∧ strictLog s0 s.cur.pid) →
        appendPolicy s.cur.tid s.cur.core s.cur.pid (entriesFor [(p + 8, countPlace l, 4)]) (openCount s0 s.cur.pid) s0 = .ok u offs →
        ∃ v, InFlight u v { newAccess u (pathOf p) (.rmw 0 (sel.length * m) 0 1) [{ ptr := p, loc := l, n := 16, data := [] }] .none 0 0 with
              logs := offs.map fun o => { off := o, loc := countPlace l, n := 4, win := entryWin u } }
            .vappendReserve ∧
          exec i s = .next (stall v (.append u.nextId))
    let ends (i : Instr) (m : Nat) : Prop := ∀ old base cap fix, s.cur.wait = some .released → s.cur.answer = [old, base, cap, fix] →
      (fix = 0 ∨ nopen s = 0) →
      let es := (upTo (Nat.min (sel.length * m) (cap - old))).map fun k =>
        (BitVec.ofNat 64 (base + 4 * (old + k)), (sel.getD (k % sel.length) (0, 0)).1)
      ∃ u, XSet { s with cur := { s.cur with answer := [] } } u d.toNat (BitVec.ofNat 64 old) ∧
        exec i s = .next (if es ≠ [] ∧ elementsLate s (BitVec.ofNat 64 base) then
          { u with cur := { u.cur with
              state := .preempted, wait := none, npc := s.cur.pc + 8, heldStores := es, idleTs := s.ts } }
          else if (elementStores es [] [] u).flow = .stalled then retry s else elementStores es [] [] u)
    begins (.vappend d b c n g) 1 ∧ ends (.vappend d b c n g) 1 ∧
    begins (.vappendM d b c n g) (rcur s).mcnt.toNat ∧ ends (.vappendM d b c n g) (rcur s).mcnt.toNat ∧
    (∀ (id : Nat) (a : Access) (q : Piece) (pa need k m : Nat), s.hbm.wf = true →
      s.accesses.find? (fun x => x.id == id) = some a → a.op = .rmw k need 0 m → a.pieces = [q] → q.loc = .mem pa → isRemote pa = false →
      a.poison = false → q.bad = false → a.done = [] → a.logs = [] → a.early = false → mustFollow s a = false → linkBusy s (dieOf a.core) q.loc = false →
      cutOff s (dieOf a.core) q.loc = false → a.tid = s.cur.tid → s.cur.state ≠ .free → a.ord = 0 →
      let raw := leNat (s.hbm.readBytes pa 16)
      let base : W64 := BitVec.ofNat 64 raw
      let old := raw / 2 ^ 64 % 2 ^ 32
      let cap := raw / 2 ^ 96
      base.toNat / 2 ^ 57 % 8 = 0 → (pathOf base = 0 ∨ pathOf base = 2 ∨ pathOf base = 3 ∨ pathOf base = 4) →
      rangeCause s s.cur .store base (4 * cap) 4 = none →
      let es := (upTo (Nat.min need (cap - old))).map fun k => base + BitVec.ofNat 64 (4 * (old + k))
      (∀ e ∈ es, watched s s.cur .store e 4 = false) →
      (nopenOf s s.cur = 0 ∨ strictLog s s.cur.pid = false ∨ ∀ e ∈ es, farElement s s.cur e = false) →
      ∃ u v t, HbmSet s u (pa + 8) (leBytes 4 (Nat.min (old + need) (2 ^ 32 - 1))) ∧ AccessOver u v a ∧
        t = { v with cur := { v.cur with wait := some .released, answer := [old, base.toNat, cap, 0] } } ∧
        exec (.vappendReserve id) s = .next t)

/-! ### Threads, barriers, seams and launches (R126 to R172) -/

/-- R138, R158 to R160: SPAWN, FORK and MOVM make one child, take one draw, and raise the launch's live count (SPAWN and FORK) or divide
MCNT (MOVM); a MOVM that makes no child changes only pd and DRAW. Which record the child takes is log entry 19, that a counted operation
waits at issue log entry 20, poisoned registers log entry 89, the unnamed bytes of the new workspace log entry 113, and a fenced core log
entry 126, all the model's. -/
def Obligations.NewThreads : Prop :=
  ∀ (s : State) (a b c : BitVec 5) (p : BitVec 3) (g : BitVec 4), s.pool.wf = true → s.pre = none → guardOn s g = true →
    s.cur.handler = none → Drained s → recordRoom s s.cur.pid = true → MayFix s → NumberFree s → a.toNat ≤ 28 → p ≠ 0 →
    let ws := wsKey s.cur
    let pc := rX s b
    let m := s.cur.mcnt
    let core := (rX s c).toNat % 4096
    let k := rX s b
    let source (i : Memory) : Prop := ∀ n, n < 4 → i.readNat (8 * (n + 1)) 8 = (getX s (a.toNat + n)).toNat
    let counted (t : State) : Prop := ∀ l, s.launch? s.cur.lnch = some l →
      ∃ x, t.launch? s.cur.lnch = some x ∧ x.live = l.live + m.toNat
    let cleared (t : State) : Prop := t.pool.readNat (ws + 0x180) 4 = setBits (s.pool.readNat (ws + 0x180) 4) p.toNat 1 0
    let drawn (t : State) : Prop := t.cur = { s.cur with draw := s.cur.draw + 1 }
    let spawns (i : Instr) : Prop := pc.toNat / 2 ^ 57 = 0 → pc.toNat % 8 = 0 →
      ∃ t, exec i s = .next t ∧ HasChild s t pc m source ∧ drawn t ∧ counted t ∧ t.pool = (fixedWindows s).pool
    let forks (i : Instr) : Prop :=
      ∃ t, exec i s = .next t ∧ HasChild s t (s.cur.pc + 8) m (ForkImage s p.toNat m.toNat) ∧ drawn t ∧ counted t ∧ cleared t ∧
        ∀ x, x ≠ ws + 0x192 → (x < ws + 0x180 ∨ ws + 0x184 ≤ x) → t.pool.read x = s.pool.read x
    spawns (.spawn a b g) ∧ (coreInPart s s.cur core = true → spawns (.spawnC a b c g)) ∧
    forks (.fork p g) ∧ (coreInPart s s.cur core = true → forks (.forkC p c g)) ∧
    (0 < k.toNat → k.toNat < m.toNat →
      let kk : W32 := k.setWidth 32
      ∃ t, exec (.movm p b g) s = .next t ∧ HasChild s t (s.cur.pc + 8) kk (ForkImage s p.toNat kk.toNat) ∧
        t.cur = { s.cur with draw := s.cur.draw + 1, mcnt := m - kk } ∧ t.pool.readNat (ws + 0x18C) 4 = (m - kk).toNat ∧ cleared t ∧
        t.launches = s.launches ∧
        ∀ x, x ≠ ws + 0x192 → (x < ws + 0x180 ∨ ws + 0x184 ≤ x) → (x < ws + 0x18C ∨ ws + 0x190 ≤ x) → t.pool.read x = s.pool.read x) ∧
    (k = 0 ∨ m.toNat ≤ k.toNat → ∃ u t, u = { s with cur := { s.cur with draw := s.cur.draw + 1 } } ∧ PredSet u t p.toNat false ∧
      exec (.movm p b g) s = .next t)

/-- R161, R162: QUIT ends the thread, so that none has its number; YIELD leaves it READY with its KEY reset to its launch's priority,
queued at its own core where it must come back there, and in one of the spools of its partition otherwise (R140); its record in memory
says so. That a counted operation waits at issue is log entry 20, the queue of a control core log entry 21, both the model's; which spool
is taken is a free value (log entry 4). -/
def Obligations.EndingAndYielding : Prop :=
  ∀ (s : State) (g : BitVec 4), guardOn s g = true → CurAlone s →
    let fifo := (s.allThreads.filter fun u => u.place == .fifo s.cur.core).length
    let near : Place := if fifo < 8 then .fifo s.cur.core else .pinned s.cur.core
    let stays (h : Bool) : Prop := h = true ∨ mustReturn s s.cur = true ∨ isCtl s.cur.core = true
    let yields (i : Instr) (h : Bool) : Prop := s.cur.handler = none →
      ∃ t p, exec i s = .next t ∧
        t = { s with
          nextEnq := s.nextEnq + 1, choices := t.choices, drawn := t.drawn, hbm := t.hbm, hbmPoison := t.hbmPoison
          cur := { s.cur with
            key := s.cur.prio, home := true, state := .ready, place := p, enq := s.nextEnq, enqTs := s.ts, slotHeld := false } } ∧
        (stays h → p = near) ∧ (¬ stays h → spoolsOf s s.cur.part ≠ [] → ∃ n ∈ spoolsOf s s.cur.part, p = .spool n) ∧
        (recordAddr s s.cur = none → t.hbm = s.hbm ∧ t.hbmPoison = s.hbmPoison) ∧
        (∀ pa, recordAddr s s.cur = some pa → s.hbm.wf = true → HbmSet { t with hbm := s.hbm, hbmPoison := s.hbmPoison } t pa (recordBytes t.cur))
    (Drained s → ((liveCmds s s.cur.core).any fun c => c.tid == s.cur.tid) = false →
      ∃ t, exec (.quit g) s = .next t ∧ t.thread? s.cur.tid = none) ∧
    yields (.yield g) false ∧ yields (.yieldH g) true

/-- R165 to R168: BARA adds MCNT arrivals to the word as one access and gives the phase that stood there, or all ones for a malformed
word, which it leaves; BARW goes on once the phase has passed, and waits otherwise; both issue again where an earlier access of the thread
to the word is still to be performed, or another thread's open release has written it (R222, R224, R228); BARG completes when every live
member waits. That BARG counts as an arrival is log entry 70, the model's reading. -/
def Obligations.Barriers : Prop :=
  ∀ (s : State) (d a b : BitVec 5) (e : BitVec 8) (g : BitVec 4) (key : Nat), s.pool.wf = true → guardOn s g = true →
    let p := rX s b
    let path := p.toNat / 2 ^ 60
    let r := ownRegions s s.cur
    let named : Prop := (path = 3 ∨ (path = 2 ∧ within (p.toNat % 2 ^ 57) 8 r.spLo r.spHi = true))
    let u := fixedWindows s
    let w := u.pool.readNat key 8
    let phase := w / 2 ^ 48
    let expect := w / 2 ^ 24 % 2 ^ 24
    let pend := w % 2 ^ 24
    let malformed : Prop := expect = 0 ∨ pend = 0 ∨ expect < pend
    let n := expect - pend + (rcur s).mcnt.toNat
    let passed : Prop :=
      let x := (s.pool.readNat key 8 / 2 ^ 48 + 2 ^ 16 - (rX s a).toNat % 2 ^ 16) % 2 ^ 16
      1 ≤ x ∧ x ≤ 2 ^ 15
    let late : Prop := notYet s [{ ptr := p, loc := .pool key, n := 8, data := [] }] = true
    (named → checkPtr s s.cur .atomic p 8 0 = .ok (.pool key) → Drained s → late → exec (.bara d b g) s = .next (retry s)) ∧
    (named → checkPtr s s.cur .atomic p 8 0 = .ok (.pool key) → Drained s → ¬ late → MayFix s →
      (malformed → ∃ t, exec (.bara d b g) s = .next t ∧ XSet u t d.toNat 0xFFFFFFFFFFFFFFFF) ∧
      (¬ malformed → ∃ v t, exec (.bara d b g) s = .next t ∧
        PoolSet u v key (leBytes 8 ((phase + n / expect) % 2 ^ 16 * 2 ^ 48 + expect * 2 ^ 24 + (expect - n % expect))) ∧
        XSet v t d.toNat (BitVec.ofNat 64 phase))) ∧
    (s.cur.handler = none →
      (s.cur.wait = some .released → exec (.barw a b g) s = .next s ∧ exec (.barg e g) s = .next s) ∧
      (s.cur.wait ≠ some .released → named → checkPtr s s.cur .load p 8 0 = .ok (.pool key) → heldBack s false false = false →
        (late → exec (.barw a b g) s = .next (retry s)) ∧
        (¬ late → passed → exec (.barw a b g) s = .next s) ∧
        (¬ late → ¬ passed → Waits (.barw a b g) s (.barrier (key / 2 ^ 20) (key % 2 ^ 20) ((rX s a).toNat % 2 ^ 16)))) ∧
      (s.cur.wait = none → (groupsOf s.cur).contains e.toNat = false → exec (.barg e g) s = .next (trap s 0x01 (bundleNow s))) ∧
      (∀ l, CurAlone s → s.cur.wait = none → (groupsOf s.cur).contains e.toNat = true → Drained s → s.launch? s.cur.lnch = some l → 0 < s.cur.mcnt.toNat →
        countGet l.arr e.toNat + s.cur.mcnt.toNat = countGet l.liv e.toNat →
        ∃ t x, exec (.barg e g) s = .next t ∧ t.cur = s.cur ∧ t.launch? s.cur.lnch = some x ∧ countGet x.arr e.toNat = 0))

/-- (a) R147, R163: a MEET that passes its pointer's checks waits for the seam unit with its table, its state words and its deadline, all
from before the bundle; it does not complete yet. (b) R146 to R150: at the seam unit a pinned thread, or one with more state words than
the table keeps, passes through with MPASS set; a round closes only when its group has no member outside and entries are held; an entry
whose deadline has come is released, and its continuation is READY at W0 with the entry's MCNT. How the table's pointer is checked is log
entry 55, what waits log entry 20, reserved bits of the header log entry 110, two closes at one C = 0 log entry 114, pages that no longer
translate log entry 115, the counter of a deadline log entry 98, the launch that closes a round log entry 127 and the unit's die log entry
128, all the model's. -/
def Obligations.Meeting : Prop :=
  (∀ (s : State) (a b : BitVec 5) (m : BitVec 10) (ext : W32) (g : BitVec 4) (l : Loc), s.pre = none → guardOn s g = true →
     s.cur.handler = none →
     let tbl := rX s b
     tbl.toNat / 2 ^ 60 = 0 → checkPtr s s.cur .load tbl 8 0 = .ok l → remotePlace l = false →
     let words (mask : Nat) : List W64 :=
       (s.cur.pc + 8) :: BitVec.ofNat 64 (s.cur.grps.toNat % 2 ^ 36 + s.pool.readNat (wsKey s.cur + 0x180) 4 / 2 % 2 ^ 7 * 2 ^ 40) ::
         ((upTo 32).filter fun i => mask.testBit i).map (getX s)
     let issues (i : Instr) (mask : Nat) (n : Option Nat) : Prop :=
       ∃ t q, exec i s = .next t ∧ q.tbl = tbl ∧ q.words = words mask ∧ q.draw = s.cur.draw ∧
         q.dln.toNat = (match n with
           | none => 2 ^ 64 - 1
           | some v => Nat.min (2 ^ 64 - 1) (tsOf s s.cur.core + v)) ∧
         t = { countDrops s [l] with
           agenda := s.agenda ++ [.seamArrival s.cur.tid], cur := { s.cur with npc := s.cur.pc, seam := some q } }
     issues (.meet b m g) (2 * m.toNat) none ∧
     issues (.meetT a b m g) (2 * m.toNat) (some (rX s a).toNat) ∧
     issues (.meetLong a b ext g) ext.toNat (if a = 0 then none else some (rX s a).toNat)) ∧
  (∀ (s : State) (pid : BitVec 16) (tbl : W64),
     (∀ (q : SeamReq) (hdr : List Byte), s.pool.wf = true → s.cur.state ≠ .free → s.cur.img = none → s.cur.seam = some q → nopenOf s s.cur = 0 →
       ctxRead s s.cur.pid (addrOf q.tbl) 64 = .ok hdr →
       let fresh := roundOf hdr s.cur.pid q.tbl s.cur.lnch
       let r := if fieldOf hdr 0x14 4 = 0 then fresh else (roundAt s s.cur.pid q.tbl).getD fresh
       (groupsOf s.cur).contains r.grp = true → powerOfTwo r.cap = true → 2 ≤ r.k → r.k ≤ 32 →
       (isPinned s s.cur = true ∨ r.k < q.words.length) →
       ∃ t, exec (.seamArrival s.cur.tid) s = .next t ∧
         t.pool.readNat (wsKey s.cur + 0x180) 4 = setBits (s.pool.readNat (wsKey s.cur + 0x180) 4) 10 1 1 ∧
         t.cur = { s.cur with pc := s.cur.pc + 8, npc := s.cur.pc + 8, wait := none, seam := none }) ∧
     (roundAt s pid tbl = none → ∀ i, exec (.seamRoundClose pid tbl) s = .next s ∧ exec (.seamDeadlineRelease pid tbl i) s = .next s) ∧
     (∀ r, roundAt s pid tbl = some r →
       (countC s r.launch r.grp ≠ 0 ∨ ctxNat s r.pid (addrOf r.tbl + 0x14) 4 = 0 → exec (.seamRoundClose pid tbl) s = .next s) ∧
       (countC s r.launch r.grp = 0 → ctxNat s r.pid (addrOf r.tbl + 0x14) 4 ≠ 0 →
         ∃ t, exec (.seamRoundClose pid tbl) s = .next t ∧ roundAt t pid tbl = none) ∧
       (∀ i b, ctxRead s r.pid (entryAddr r i) (32 + 8 * r.k) = .ok b →
         let due : Prop := fieldOf b 0xC 4 = 1 ∧ fieldOf b 0x18 8 ≤ entryTs s r b ∧ fieldOf b 0x18 8 ≠ 2 ^ 64 - 1
         (¬ due → exec (.seamDeadlineRelease pid tbl i) s = .next s) ∧
         (∀ v, due → s.threadOfRecord? r.pid (BitVec.ofNat 64 (fieldOf b 0x10 8)) = some v → OtherThread s v → v.stopNext = false →
           v.handler = none →
           ∃ t x, exec (.seamDeadlineRelease pid tbl i) s = .next t ∧ t.thread? v.tid = some x ∧ x.state = .ready ∧
             x.mcnt = BitVec.ofNat 32 (fieldOf b 4 4) ∧ x.pc = BitVec.ofNat 64 (fieldOf b 0x20 8)))))

/-- (a) R143, R169, R170, R172: a block whose entries the pool has is offered: a launch in state 0 with its check pending, pd 0; without
them LAUNCH sets pd and changes nothing else, and LAUNCHW waits; a launch from die K whose target is no partition writes STATUS 4 with
reason LPB. TASK.ARM and TASK.DIS set and clear bits of ARM in the block of the thread's launch, also after it has completed, as an atomic
of the context whose translation reaches it; a thread of no launch takes PROT, which is log entry 51, the model's. (b) R129, R132, R143,
R144: the check of an offered block, which writes STATUS 1 or 4 with its reason, the completion of a launch with no live unit, which
launches its armed successors and writes STATUS 3, and the wake of a thread that waits for pool entries. A successor that the free pool
has no entries for waits; the context whose translation reaches it is log entry 51. A launch that is checked already, or has a live unit,
stands. Log entries 51, 56, 57, 58 and 59 are the model's readings that its clauses follow; the checks of the device's own accesses are
log entry 17, the handle log entry 116, CLASS bits 7 and 6 log entry 117, a successor's entry log entry 118 and a unit without a record
log entry 125, all the model's. -/
def Obligations.LaunchesAndTasks : Prop :=
  (∀ (s : State) (pd : BitVec 3) (a b : BitVec 5) (o : BitVec 11) (ext : W32) (g : BitVec 4), s.pool.wf = true → s.hbm.wf = true →
     guardOn s g = true → s.cur.handler = none → Drained s → MayFix s →
     let near := rX s b + o.signExtend 64 * 256
     let far := rX s b + ext.signExtend 64
     let parent := if isCtl s.cur.core then none else some s.cur.lnch
     let ready (p : W64) (st c n : Loc) : Prop := p.toNat / 2 ^ 60 = 0 ∧ (isCtl s.cur.core = true → 1 ≤ s.cur.priv) ∧
       checkPtrs s s.cur .store 8 [] [p + 0xF8] = .ok [st] ∧ checkPtrs s s.cur .load 8 [] [p + 0x40, p + 0x48] = .ok [c, n] ∧
       st ≠ .dropped ∧ c ≠ .dropped ∧ n ≠ .dropped
     let part (c : Loc) : Nat := if isCtl s.cur.core then leNat (readLoc s c 8) / 2 ^ 32 % 64 else s.cur.part
     let need (c n : Loc) : Nat :=
       let k := 1 + leNat (readLoc s c 8) / 2 ^ 16 % 2 ^ 12 + leNat (readLoc s n 8) % 16
       if 4096 < k then 1 else k
     let offer (p : W64) (t : State) : Prop := ∃ l ∈ t.launches, l.lpb = p ∧ l.fromPid = s.cur.pid ∧ l.state = 0 ∧ .launchCheck l.h ∈ t.agenda
     let launches (i : Instr) (p : W64) : Prop := ∀ st c n, ready p st c n →
       let good : Prop := isCtl s.cur.core = true → partConfigured s (part c) = true
       (good → takeEntries s (part c) parent (need c n) = none → ∃ t, PredSet s t pd.toNat true ∧ exec i s = .next t) ∧
       (∀ r, good → takeEntries s (part c) parent (need c n) = some r → ∃ v t, exec i s = .next t ∧ offer p v ∧ PredSet v t pd.toNat false) ∧
       (isCtl s.cur.core = true → partConfigured s (part c) = false →
         ∃ v t, exec i s = .next t ∧ v.launches = s.launches ∧ PredSet v t pd.toNat false ∧
           ∀ pa, st = .mem pa → HbmSet (fixedWindows s) v pa (leBytes 8 0x204))
     let tasks (i : Instr) (f : W64 → W64) : Prop := ∀ lpb from' s1 pa, launchBlockOf s s.cur = some (lpb, from') →
       threadPlace s { s.cur with pid := from', priv := Nat.max 1 s.cur.priv } .atomic 0 (addrOf (lpb + 0x90)) = (s1, .ok (.mem pa)) →
       let late := notYet s1 [{ ptr := lpb + 0x90, loc := .mem pa, n := 8, data := [] }]
       (late = true → exec i s = .next (retry s1)) ∧ (late = false → s1.hbm.wf = true → s1.cur = s.cur → s1.pool = s.pool → s1.sys = s.sys → s1.pre = s.pre →
       ∃ t, exec i s = .next t ∧ HbmSet (fixedWindows s1) t pa (leBytes 8 (f (BitVec.ofNat 64 (s1.hbm.readNat pa 8))).toNat))
     launches (.launch pd b o g) near ∧ launches (.launchLong pd b ext g) far ∧
     (∀ st c n, ready near st c n → (isCtl s.cur.core = true → partConfigured s (part c) = true) → ownWait s (part c) = none →
       (∀ r, takeEntries s (part c) parent (need c n) = some r → ∃ t, exec (.launchw b o g) s = .next t ∧ offer near t) ∧
       (takeEntries s (part c) parent (need c n) = none →
         ∃ t, exec (.launchw b o g) s = .next t ∧ t.flow = .suspended ∧
           t.cur = { s.cur with state := .waiting, npc := s.cur.pc, wait := some (.pool (part c) (need c n)) })) ∧
     tasks (.taskArm a g) (fun w => w ||| rX s a) ∧ tasks (.taskDis a g) (fun w => w &&& ~~~rX s a) ∧
     (∀ l, (s.launch? s.cur.lnch = some l → launchBlockOf s s.cur = some (l.lpb, l.fromPid)) ∧
       (s.launch? s.cur.lnch = none → s.ended.find? (fun e => e.1 == s.cur.lnch) = some (s.cur.lnch, l.lpb, l.fromPid) →
         launchBlockOf s s.cur = some (l.lpb, l.fromPid))) ∧
     (launchBlockOf s s.cur = none →
       exec (.taskArm a g) s = .next (trap s 0x06 (bundleNow s)) ∧ exec (.taskDis a g) s = .next (trap s 0x06 (bundleNow s)))) ∧
  (∀ (s : State) (h : Nat) (l : Launch), s.launch? h = some l →
     (l.state ≠ 0 → exec (.launchCheck h) s = .next s) ∧
     let word (n : Nat) : Nat := addrOf l.lpb + n
     let status (pa : Nat) : Prop := deviceAddr s l.fromPid (word 0xF8 % 2 ^ 57) true = .ok pa ∧ word 0xF8 % 4096 ≤ 4088 ∧ s.hbm.wf = true
     let tells (t : State) (v : Nat) : Prop := ∀ pa, status pa → t.hbm = s.hbm.writeNat pa 8 v
     (l.state = 0 → badRange s l.fromPid l.lpb 256 256 = true → ∃ t, exec (.launchCheck h) s = .next t ∧ t.launch? h = none ∧ tells t 0x104) ∧
     (∀ b, l.state = 0 → badRange s l.fromPid l.lpb 256 256 = false → ctxRead s l.fromPid l.lpb.toNat 256 = .ok b →
       let pid := if l.dieK then BitVec.ofNat 16 (fieldOf b 0x40 8 / 2 ^ 40 % 2 ^ 16) else l.fromPid
       (rejectReason s l pid b ≠ 0 → ∃ t, exec (.launchCheck h) s = .next t ∧ t.launch? h = none ∧ tells t (4 + rejectReason s l pid b * 2 ^ 8)) ∧
       (rejectReason s l pid b = 0 → ∃ t x, exec (.launchCheck h) s = .next t ∧ t.launch? h = some x ∧ x.state = 1 ∧
         x.pid = pid ∧ x.live = fieldOf b 0x10 2 * fieldOf b 0x12 2 * fieldOf b 0x14 2 ∧
         ∀ pa, status pa → (∀ y, InSpan pa 8 y → ¬ InRecords s pid y) → TablesApart s pid (fun y => InSpan pa 8 y ∨ InRecords s pid y) →
           t.hbm.readNat pa 8 = 1)) ∧
     (l.live ≠ 0 ∨ l.state = 0 → exec (.launchCompletion h) s = .next s) ∧
     (l.live = 0 → l.state ≠ 0 → ∃ t, exec (.launchCompletion h) s = .next t ∧ t.launch? h = none) ∧
     (let dword (n : Nat) : Nat := ctxNat s l.fromPid (word n) 8
      let n := Nat.min (dword 0x48 % 16) 8
      let armed (i : Nat) : Bool := (dword (0x50 + 8 * i)).testBit 63 || (dword 0x90).testBit (dword (0x50 + 8 * i) / 2 ^ 57 % 64)
      let succ := dword 0x50 % 2 ^ 57
      let need := blockNeed (ctxNat s l.pid (succ + 0x40) 8) (ctxNat s l.pid (succ + 0x48) 8)
      let waits (t : State) : Prop := ∃ x ∈ t.launches, x.lpb.toNat = succ ∧ x.fromPid = l.pid ∧ x.state = 0 ∧
        ∃ w ∈ (t.part l.part).waiters, w.isLaunch = true ∧ w.id = x.h ∧ w.need = need.1 + need.2
      l.live = 0 → l.state ≠ 0 →
        (∀ pa, status pa → (∀ i, i < n → armed i = false) → (l.first = true → n = 0 ∧ TablesApart s l.fromPid (InSpan pa 8)) → ∃ t, exec (.launchCompletion h) s = .next t ∧
          t.hbm = (if l.first then s.hbm.writeNat pa 8 2 else s.hbm).writeNat pa 8 3) ∧
        (∀ pa ps, status pa → n = 1 → armed 0 = true → l.first = false → deviceAddr s l.pid ((succ + 0xF8) % 2 ^ 57) true = .ok ps → (succ + 0xF8) % 4096 ≤ 4088 →
          s.hbm.wf = true → (∀ y, InSpan ps 8 y → ¬ InRecords s l.pid y) → (∀ q ∈ [l.pid, l.fromPid], TablesApart s q fun y => InSpan ps 8 y ∨ InRecords s l.pid y) →
          (∀ y, InSpan ps 8 y → ¬ InSpan pa 8 y) →
          ∃ t, exec (.launchCompletion h) s = .next t ∧
            (poolFree s l.part < need.1 + need.2 → waits t) ∧
            (need.1 + need.2 ≤ poolFree s l.part → (∃ x ∈ t.launches, x.lpb.toNat = succ ∧ x.fromPid = l.pid ∧ x.state = 1) ∨
              t.hbm.readNat ps 8 % 16 = 4))) ∧
     (∀ (part : Nat) (w : PoolWait), (s.part part).waiters = [w] → w.isLaunch = false → w.id = s.cur.tid →
       (w.ofParent + w.free < w.need → exec (.launchwWake part) s = .next s) ∧
       (w.need ≤ w.ofParent + w.free → s.cur.state = .waiting → s.cur.stopNext = false → s.cur.handler = none → s.cur.home = true →
         ∃ t, exec (.launchwWake part) s = .next t ∧ t.cur.state = .ready ∧ t.cur.place = .pinned s.cur.core)))

/-- R128, R139 to R141, R157, R167: filling a vacant slot runs the thread that the order of R128 gives; a message without a vacant slot
queues its thread at the core, one that a WORLD switch stops travels no further (R341), and one that a dead link cuts may be lost, which
the fault service is told (R391); a thread that has waited 64 cycles in its slot leaves it in state WAITING at its bundle, or behind a
BARW or BARG (R168). The draw of a spool is a free value (log entry 4), the PC of a waiting thread's record is log entry 46, the model's
reading, and what a link holds up is log entries 34 and 90, the model's. -/
def Obligations.SlotSteps : Prop :=
  ∀ (s : State) (core slot tid : Nat),
    (slotVacant s core slot = false → exec (.slotFill core slot) s = .next s) ∧
    (∀ r u, slotVacant s core slot = true → nextForSlot s core slot = (some u, r) → OtherThread r u → u.core = core → u.img = none →
      beginHolding r u = r → (isCtl core = true ∨ slotNamed r core slot = true) →
      ∃ t x, exec (.slotFill core slot) s = .next t ∧ t.thread? u.tid = some x ∧
        x.state = .running ∧ x.slot = slot ∧ x.core = core ∧ x.pc = u.pc ∧ x.npc = u.pc ∧ x.place = .nowhere) ∧
    (∀ u, OtherThread s u → heldInMesh s u = true → exec (.activeMessage core u.tid) s =
      .next (s.modPart u.part fun p => { p with held := p.held ++ [.activeMessage core u.tid] })) ∧
    (∀ u, OtherThread s u → heldInMesh s u = false → (messageRoute u core).any (s.linksDown.contains ·) = true →
      Config.unansweredStorePerformed s.freeNext = false → ∃ t, exec (.activeMessage core u.tid) s = .next t ∧
        .faultNotification u.pid u.recd (stopWord cPOISON 15 0 core 0) 0 0 ∈ t.agenda ∧ t.threads = s.threads ∧ t.cur = s.cur) ∧
    (∀ u, OtherThread s u → heldInMesh s u = false → (messageRoute u core).any (s.linksDown.contains ·) = false →
      ((upTo 16).find? fun i => slotVacant s core i && class0Slot s core i == isClass0 s u && mayRun s u) = none →
      ∃ t x, exec (.activeMessage core u.tid) s = .next t ∧ t.thread? u.tid = some x ∧ x.state = .ready ∧ x.core = core ∧
        (x.place = .fifo core ∨ x.place = .pinned core)) ∧
    (∀ u, OtherThread s u → (spooled u.place = true → ∃ t x, exec (.spoolKeyAging u.tid) s = .next t ∧ t.thread? u.tid = some x ∧
      x = { u with key := u.key - 1 }) ∧ (spooled u.place = false → exec (.spoolKeyAging u.tid) s = .next s)) ∧
    (s.cur.state = .running → waitSuspends s s.cur = true → s.cur.waitFrom + 64 ≤ s.ts →
      ∃ t, exec (.slotWaitTimeout s.cur.tid) s = .next t ∧ t.cur.state = .waiting ∧
        t.cur.pc = (if waitsPast s.cur then s.cur.pc + 8 else s.cur.pc) ∧ t.cur.wait = s.cur.wait) ∧
    (∀ u, s.thread? tid = some u → (u.state ≠ .running ∨ waitSuspends s u = false ∨ s.ts < u.waitFrom + 64) →
      exec (.slotWaitTimeout tid) s = .next s)

/-! ### Queue registers, waits, streams, the automaton, the watch and the Crown (R267 to R304, R392 to R394) -/

/-- R216, R267 to R270, R294 to R297: QPUSH of a command that names a destination fixes the open windows before it waits, or takes
FIXEDWIN under STRICT; QPUSH gives a command the next sequence number of its slot and puts it into its queue, in the order of issue and
behind the accesses that its release follows, or waits while the queue has no room; QPOP and QTRY take the thread's oldest record of the
queue; a queue register of the wrong direction takes QUEUE. The first sequence number is log entry 60, the model's choice; the moment of
NFIX is log entry 81, the model's reading; the elements of a stream over planes are log entry 134, its choice. -/
def Obligations.QueueRegisters : Prop :=
  ∀ (s : State) (q p : BitVec 3) (k g : BitVec 4), s.pool.wf = true → guardOn s g = true → MayQueue s →
    let n := q.toNat
    let core := s.cur.core
    let words := leNat (getVBytes s k.toNat)
    let fixes : Prop := n ≠ 0 ∨ words / 2 ^ 44 % 16 ≤ 1
    let seq := (countGet (s.core core).slotSeq s.cur.slot + 1) % 2 ^ 32
    let entry : RingEntry := { slot := s.cur.slot, seq := seq, tag := words / 2 ^ 48 % 2 ^ 16, q := n, st := 1, status := 0 }
    let out := fun t : State => { s.modCore core fun c => { c with
      records := eraseFirst (fun x => x.q == n && x.tid == s.cur.tid) c.records } with agenda := t.agenda }
    let popped (r : Record) (t : State) : Prop := PoolSet (out t) t (wsOf s + 0x400 + 0x40 * k.toNat) (leBytes 64 r.words)
    let stalledAt (n : Nat) (t : Thread) : Thread := { t with queueWait := some (t.queueWait.getD (n, s.ts)) }
    (n % 2 = 1 → exec (.qpush q k g) s = .next (trap s 0x0F (BitVec.ofNat 64 n))) ∧
    (n % 2 = 0 → exec (.qpop q k g) s = .next (trap s 0x0F (BitVec.ofNat 64 n)) ∧
      exec (.qtry q k p g) s = .next (trap s 0x0F (BitVec.ofNat 64 n))) ∧
    (n % 2 = 0 → fixes → ¬ MayFix s → exec (.qpush q k g) s = .next (trap s 0x0D (BitVec.ofNat 64 n))) ∧
    (∀ u, n % 2 = 0 → (fixes → MayFix s ∧ u = fixedWindows s) → (¬ fixes → u = s) →
      (heldBack s true false = true → exec (.qpush q k g) s = .next (retry u)) ∧
      (heldBack s true false = false → queueHasRoom s core n = false → exec (.qpush q k g) s = .next { u with
        cur := { stalledAt n s.cur with
          npc := s.cur.pc, wait := some (.queueRoom n), waitFrom := if s.cur.wait.isSome then s.cur.waitFrom else s.ts }
        flow := .stalled }) ∧
      (heldBack s true false = false → queueHasRoom s core n = true → ∃ t c, exec (.qpush q k g) s = .next t ∧
        (t.core core).cmds = (s.core core).cmds ++ [c] ∧ c.q = n ∧ c.words = words ∧ c.seq = seq ∧ c.tid = s.cur.tid ∧ c.pid = s.cur.pid ∧
        c.level = s.cur.priv ∧ c.behind = unperformed s s.cur.tid s.nextId ∧ entry ∈ t.cur.dispatch ∧
        countGet (t.core core).slotSeq s.cur.slot = seq ∧ (∀ x, x ≠ core → t.core x = s.core x) ∧
        t = { u with
          cores := t.cores, agenda := t.agenda
          cur := { s.cur with
            qpsh := s.cur.qpsh + 1, dispatch := t.cur.dispatch, unsealed := t.cur.unsealed, streams := t.cur.streams } })) ∧
    (n % 2 = 1 → heldBack s false false = false →
      (∀ r, oldestRecord s n = some r →
        (∃ t, exec (.qpop q k g) s = .next t ∧ popped r t) ∧
        (∃ u t, exec (.qtry q k p g) s = .next t ∧ popped r u ∧ PredSet u t p.toNat true)) ∧
      (oldestRecord s n = none →
        GivesP (.qtry q k p g) s p false ∧
        (outstanding s s.cur (n - 1) = 0 → exec (.qpop q k g) s = .next (trap s 0x0F (BitVec.ofNat 64 n))) ∧
        (outstanding s s.cur (n - 1) ≠ 0 → WaitsAs (.qpop q k g) s (.record n) (stalledAt n))))

/-- R286, R298 to R302: WAITC and WAITB complete once the counts are within their operands, 31 of WAITC being no limit, and wait before: a
load counts until it lands, a store or an atomic until it is performed; BATCH seals the copies not sealed; SBIND arms a stream register,
SBIND.X ends its use, and MOVS and VMOVS give its next element. Which accesses WAITC counts is log entry 83, the model's reading. -/
def Obligations.WaitsBatchesAndStreams : Prop :=
  ∀ (s : State) (d a b c : BitVec 5) (v : BitVec 4) (n : BitVec 3) (g : BitVec 4), s.pool.wf = true → guardOn s g = true →
    let own := s.accesses.filter fun x => x.tid == s.cur.tid
    let loads := (own.filter fun x => x.op.isLoad && !x.amo).length
    let stores := (own.filter fun x => !x.op.isLoad && !x.early).length
    let copies := s.cur.batches.length + (if s.cur.unsealed = [] then 0 else 1)
    let tiles := outstanding s s.cur 0
    let lim (x : Nat) (f : BitVec 5) : Prop := f = 31 ∨ x ≤ f.toNat
    let met : Prop := lim loads d ∧ lim stores a ∧ lim copies b ∧ lim tiles c
    let size := if c = 0 then 4 else if c = 1 then 8 else 64
    let after (x : Stream) (t : Thread) : Thread := { t with
      streams := if x.total ≤ (x.next + 1) * x.size then t.streams.filter fun y => y.sreg ≠ x.sreg else
        t.streams.map fun y => if y.sreg = x.sreg then { y with next := y.next + 1 } else y }
    let stream := s.cur.streams.find? fun x => x.sreg == n.toNat
    (met → exec (.waitc d a b c g) s = .next s) ∧
    (¬ met → Waits (.waitc d a b c g) s (.counts d.toNat a.toNat b.toNat c.toNat)) ∧
    (s.cur.batches.length ≤ a.toNat → exec (.waitb a g) s = .next s) ∧
    (a.toNat < s.cur.batches.length → Waits (.waitb a g) s (.batches a.toNat)) ∧
    (16 ≤ s.cur.batches.length → Waits (.batch d g) s .batchRoom) ∧
    (s.cur.batches.length < 16 → GivesCurX (.batch d g) s (fun t => { t with
      bnext := if t.bnext = 2 ^ 32 - 1 then 1 else t.bnext + 1, unsealed := []
      batches := if t.unsealed = [] then t.batches else t.batches ++ [{ num := t.bnext, open' := t.unsealed }] }) d
        (BitVec.ofNat 64 s.cur.bnext)) ∧
    ((∀ x ∈ s.cur.streams, x.sreg ≠ n.toNat ∧ x.bound ≠ none) → ∃ t, exec (.sbind n c g) s = .next t ∧ CurSet s t fun t => { t with
      streams := t.streams ++ [{ sreg := n.toNat, size := size, bound := none, dst := 0, total := 0, next := 0 }] }) ∧
    ((∃ x ∈ s.cur.streams, x.sreg = n.toNat ∨ x.bound = none) → exec (.sbind n c g) s = .next (trap s 0x0F (n.setWidth 64))) ∧
    (∃ t, exec (.sbindX n g) s = .next t ∧ CurSet s t fun t => { t with streams := t.streams.filter fun x => x.sreg ≠ n.toNat }) ∧
    (heldBack s false false = false → stream = none → exec (.movs d n g) s = .next (trap s 0x0F (n.setWidth 64)) ∧ exec (.vmovs v n g) s = .next (trap s 0x0F (n.setWidth 64))) ∧
    (∀ x seq, heldBack s false false = false → stream = some x → x.bound = some seq →
      let ready := landed s s.cur.core s.cur.tid seq (x.next * x.size) x.size
      let at' := x.dst + x.next * x.size
      (x.size ≠ 64 → exec (.vmovs v n g) s = .next (trap s 0x0F (n.setWidth 64)) ∧
        (ready = false → Waits (.movs d n g) s (.element n.toNat)) ∧
        (ready = true → poisonedLoc s (.pool at') x.size = false →
          GivesCurX (.movs d n g) s (after x) d (BitVec.ofNat 64 (s.pool.readNat at' x.size)))) ∧
      (x.size = 64 → exec (.movs d n g) s = .next (trap s 0x0F (n.setWidth 64)) ∧
        (ready = false → Waits (.vmovs v n g) s (.element n.toNat)) ∧
        (ready = true → poisonedLoc s (.pool at') 64 = false →
          ∃ u t, u = { s with cur := after x s.cur } ∧ exec (.vmovs v n g) s = .next t ∧
            PoolSet u t (wsOf s + 0x400 + 0x40 * v.toNat) (s.pool.readBytes at' 64))))

/-- R71, R291, R293, R298, R303, R304: GNEXT follows a transition of the token automaton, or keeps the state and reports DEAD: its results
are in flight as those of one load, and their step writes the state and the three predicates; WAKEON arms the core's watch, or reports
that one is in use; WAKEON.X disarms it. The moment of GNEXT's reads is log entry 82, the model's reading. -/
def Obligations.AutomatonAndWatch : Prop :=
  ∀ (s : State) (d a b c : BitVec 5) (p k : BitVec 3) (g : BitVec 4), s.pool.wf = true → guardOn s g = true →
    let h := rX s b
    let st := (rX s d).toNat % 2 ^ 32
    let tok := (rX s c).toNat % 2 ^ 32
    let word (s : State) (l : Loc) (n : Nat) : Nat := leNat (readLoc s l n)
    let reads (s : State) (p : W64) (l : Loc) (n : Nat) : Prop :=
      notYet s [{ ptr := p, loc := l, n := n, data := [] }] = false ∧ poisonedLoc s l n = false ∧
        linkBusy s (dieOf s.cur.core) l = false ∧ cutOff s (dieOf s.cur.core) l = false
    let dst (next : Nat) (dead acc nout : Bool) : Dest :=
      .fixed [(.x d.toNat, next), (.p k.toNat, b2n acc), (.p (k.toNat + 1), b2n nout), (.p p.toNat, b2n dead)]
    let result (u : State) (next : Nat) (dead acc nout : Bool) : Prop :=
      ∃ t, exec (.gnext d b c p k g) s = .next t ∧
        InFlight u t { newAccess u (pathOf h) .load [] (dst next dead acc nout) 0 0 with early := true } .loadDataLands
    let off := (getX s a.toNat).toNat % 2 ^ 57
    let len := (getX s (a.toNat + 1)).toNat % 2 ^ 32
    let need := (getX s (a.toNat + 1)).toNat / 2 ^ 32
    let pc := getX s (a.toNat + 2)
    let core := s.core s.cur.core
    let armable : Prop := bitAt core.pword.toNat 34 = true ∧ pathOf (getX s a.toNat) = 2 ∧ badAddr s s.cur (getX s a.toNat) 1 = false ∧
      len ≠ 0 ∧ need ≠ 0 ∧ within off len (ownRegions s s.cur).spLo (ownRegions s s.cur).spHi = true ∧ pc.toNat / 2 ^ 57 = 0 ∧ pc.toNat % 8 = 0
    let watch : Watch := { start := off, len := len, need := need, count := 0, pc := pc, arg := getX s (a.toNat + 3)
                           unitid := s.cur.unitid, pid := s.cur.pid }
    let cleared := s.modCore s.cur.core fun c => { c with watch := none }
    (h.toNat / 2 ^ 60 ≠ 0 → h.toNat / 2 ^ 60 ≠ 2 → h.toNat / 2 ^ 60 ≠ 3 → exec (.gnext d b c p k g) s = .next (trap s 0x04 h)) ∧
    (∀ l, h.toNat / 2 ^ 60 = 0 ∨ h.toNat / 2 ^ 60 = 2 ∨ h.toNat / 2 ^ 60 = 3 → heldBack s false false = false →
      checkPtr s s.cur .load h 64 0 = .ok l →
      let u := countDrops s [l]
      reads u h l 24 →
      let head := word u l 24
      let ns := head / 2 ^ 128 % 2 ^ 32
      let nt := head / 2 ^ 160 % 2 ^ 32
      let p1 := BitVec.ofNat 64 (head % 2 ^ 64 + 4 * (st * nt + tok))
      (ns ≤ st ∨ nt ≤ tok → result u st true false false) ∧
      (∀ l1, st < ns → tok < nt → checkPtr u u.cur .load p1 4 0 = .ok l1 →
        let u1 := countDrops u [l1]
        reads u1 p1 l1 4 →
        let w := word u1 l1 4
        let next := w % 2 ^ 24
        let p2 := BitVec.ofNat 64 (head / 2 ^ 64 % 2 ^ 64 + 4 * next)
        (w < 2 ^ 31 ∨ ns ≤ next → result u1 st true false false) ∧
        (∀ l2, 2 ^ 31 ≤ w → next < ns → checkPtr u1 u1.cur .load p2 4 0 = .ok l2 →
          let u2 := countDrops u1 [l2]
          reads u2 p2 l2 4 →
          result u2 next false (word u2 l2 4 % 2 == 1) (word u2 l2 4 / 2 % 2 == 1)))) ∧
    (∀ (id : Nat) (x : Access) (next : Nat) (dead acc nout : Bool), s.accesses.find? (fun y => y.id == id) = some x →
      x.dst = dst next dead acc nout → x.early = true → x.poison = false → x.base = wsOf s → x.tid = s.cur.tid → s.cur.seam = none →
      ∃ u v w y t, XSet s u d.toNat (BitVec.ofNat 64 next) ∧ PredSet u v k.toNat acc ∧ PredSet v w (k.toNat + 1) nout ∧
        PredSet w y p.toNat dead ∧ AccessOver y t x ∧ exec (.loadDataLands id) s = .next t) ∧
    (bitAt core.pword.toNat 34 = false → exec (.wakeon a p g) s = .next (trap s 0x06 15)) ∧
    (armable → core.watch = none → core.watchBusy = false →
      ∃ u t, u = s.modCore s.cur.core (fun c => { c with watch := some watch }) ∧ PredSet u t p.toNat false ∧ exec (.wakeon a p g) s = .next t) ∧
    (armable → core.watch ≠ none ∨ core.watchBusy = true → GivesP (.wakeon a p g) s p true) ∧
    (core.watch = none → GivesP (.wakeonX p g) s p false) ∧
    (core.watch ≠ none → ∃ t, PredSet cleared t p.toNat true ∧ exec (.wakeonX p g) s = .next t)

/-- (a) R383, R392 to R394, R400: CRTAKE gives the Crown to a member whose turn it is, with ROUND, poisoned where it is, and waits
otherwise, not beside another waiter of its core; CRPASS hands it to the next member that is not passed over and sends the message, which
wakes that member; the recheck tries again at its time. (b) R393, R394: the message of a CRPASS, and the recheck when its time has come,
let the thread that waits in CRTAKE try again; without such a thread, or where a switch has taken its context away (R342), nothing
changes. Poison marks of a ring are log entry 96, the moment of NFIX log entry 81, and control cores as members log entry 12, all the
model's. -/
def Obligations.Crown : Prop :=
  (∀ (s : State) (d b : BitVec 5) (g : BitVec 4) (pa : Nat) (r : Ring), s.pool.wf = true → s.hbm.wf = true → guardOn s g = true →
     s.cur.wait = none → MayUseRing s (rX s b) pa r →
     let p := rX s b
     let u := fixedWindows s
     let holds : Prop := pa ∈ s.cur.crowns
     let sound : Prop := 2 ≤ r.nmem ∧ r.nmem ≤ 64 ∧ r.reserved = false
     let me (w : Nat) : Prop := isMe s s.cur.core w = true
     let alone : Prop := s.cur.crownWait = some pa ∨
       ∀ t ∈ s.allThreads, t.tid = s.cur.tid ∨ t.core ≠ s.cur.core ∨ t.crownWait ≠ some pa
     let got (v t : State) : Prop :=
       if (pa + 8) / 8 ∈ s.hbmPoison then t = putReg v (wsOf v) (.x d.toNat) r.round true else XSet v t d.toNat (BitVec.ofNat 64 r.round)
     let mine : Prop := r.cst = 0 ∧ me (r.members.getD r.hold (2 ^ 63))
     let j := nextMember r
     (holds → ∃ t, exec (.crtake d b g) s = .next t ∧ got u t) ∧
     (¬ holds → alone → sound → (∃ w ∈ r.members, me w) → mine →
       ∃ v w t, exec (.crtake d b g) s = .next t ∧ HbmSet u v (pa + 0x10) (leBytes 4 1) ∧
         w = { v with cur := { s.cur with crowns := pa :: s.cur.crowns } } ∧ got w t) ∧
     (¬ holds → alone → sound → (∃ w ∈ r.members, me w) → ¬ mine →
       WaitsAs (.crtake d b g) s (.crown pa (s.ts + 65536)) fun t => { t with crownWait := some pa }) ∧
     (¬ holds → (¬ alone ∨ ¬ sound ∨ ¬ ∃ w ∈ r.members, me w) → exec (.crtake d b g) s = .next (trap s 0x06 p)) ∧
     (ownAccesses s s.cur.tid = [] →
       (¬ holds → exec (.crpass d b g) s = .next (trap s 0x06 p)) ∧
       (holds → ∃ v t, exec (.crpass d b g) s = .next t ∧ XSet v t d.toNat (BitVec.ofNat 64 j) ∧
         v.hbm.readNat (pa + 4) 4 = j % 2 ^ 32 ∧ v.hbm.readNat (pa + 8) 8 = (r.round + 1) % 2 ^ 64 ∧ v.hbm.readNat (pa + 0x10) 4 = 0 ∧
         (∀ x, (x < pa + 4 ∨ pa + 0x14 ≤ x) → v.hbm.read x = s.hbm.read x) ∧
         (∀ x, x ∈ v.hbmPoison ↔ x ∈ s.hbmPoison ∧ ¬ (pa + 8 ≤ 8 * x ∧ 8 * x + 8 ≤ pa + 16)) ∧
         v = { u with
           hbm := v.hbm, hbmPoison := v.hbmPoison, cur := { s.cur with crowns := s.cur.crowns.filter (· ≠ pa) }
           agenda := if r.members.getD j 0 / 2 ^ 12 % 64 = s.pkgId then
             s.agenda ++ [.crownPassMessage (r.members.getD j 0 % 2 ^ 12) pa (routerOf s.cur.core) (isClass0 u s.cur)] else s.agenda }))) ∧
  (∀ (s : State) (core ring tid : Nat), CurAlone s →
     let again (t : State) : Prop :=
       (s.cur.state = .running → t = { s with cur := { s.cur with wait := some .released } }) ∧
       (s.cur.state = .waiting → s.cur.stopNext = false → s.cur.handler = none → s.cur.home = true →
         t.cur.state = .ready ∧ t.cur.place = .pinned s.cur.core ∧ t.cur.wait = some .released)
     ((∀ u ∈ s.allThreads, waitsForCrown u core ring = false ∨ mayRun s u = false) → exec (.crownPassMessage core ring) s = .next s) ∧
     (s.allThreads.filter (fun u => waitsForCrown u core ring && mayRun s u) = [s.cur] → ∃ t, exec (.crownPassMessage core ring) s = .next t ∧ again t) ∧
     (∀ x, s.cur.wait = some (.crown ring x) →
       (s.ts < x → exec (.crtakeRecheck s.cur.tid) s = .next s) ∧
       (x ≤ s.ts → ∃ t, exec (.crtakeRecheck s.cur.tid) s = .next t ∧ again t)) ∧
     (s.thread? tid = none → exec (.crtakeRecheck tid) s = .next s))

/-! ### The engines (R267 to R289, R305 to R325, R376, R386 to R389) -/

/-- (a) R268, R272 to R275, R306 to R308, R311, R312: an idle MXU takes the core's oldest command once its push is released: a TILE or
DRAIN that passes its checks runs under the format context in force, a CTX sets it, and one that fails a check ends with its status. (b)
R37, R40, R47, R274, R276, R278, R280, R376, R401: the MXU serves a core, which is then the one served last: a step adds its block sums to
16 × 16 accumulator elements and to no other byte of the pools; a row drain writes the row's converted elements; where the hardware takes
a step apart, it reads or writes one aligned 4 bytes at a time (R220); a parity error on the operand buses is counted and ends the step as
poisoned data does; MXRS lets the stopped command go on, and its ending forms end it. The step that adds a scaled block is log entry 24,
the first core served and acceptance log entry 76, NaNs log entry 77, PROG log entry 78 and soft errors log entry 106, all the model's. -/
def Obligations.MatrixUnit : Prop :=
  (∀ (s : State) (core : Nat) (c : Cmd) (v : Thread), (s.core core).mxu = [] →
     let run : MxuRun := { cmd := c, ctx := (s.core core).fmt, step := mxRstep c.words, row := mxRrow c.words, flags := 0, handling := false
                           status := 0, stopped := none, faddr := 0 }
     let runs (i : Instr) : Prop := ∃ t, exec i s = .next t ∧ (t.core core).mxu = [run] ∧ Taken s t core 0 ∧
       (mxRstep c.words < mxSteps c → mxStepRun t core = some run) ∧ (mxSteps c ≤ mxRstep c.words → .mxuRowDrain core ∈ t.agenda) ∧
       t = { s with cores := t.cores, agenda := t.agenda }
     let refused (i : Instr) (r : Machine.Reject) : Prop := ∃ t, exec i s = .next t ∧ (t.core core).mxu = [] ∧ Taken s t core 0 ∧
       Recorded s t core c 0 r.status 0 (if c.kind = 2 then 0 else mxRstep c.words * 2 ^ 24 + mxRrow c.words * 2 ^ 16) r.faddr
     (headCmd s core 0 = none → exec (.mxuTile core) s = .next s ∧ exec (.mxuDrain core) s = .next s ∧ exec (.mxuCtx core) s = .next s) ∧
     (headCmd s core 0 = some c → heldCmd s core c = true →
       exec (.mxuTile core) s = .next s ∧ exec (.mxuDrain core) s = .next s ∧ exec (.mxuCtx core) s = .next s) ∧
     (headCmd s core 0 = some c → heldCmd s core c = false →
       (c.kind ≠ 1 ∧ c.kind ≠ 2 → mxCheck s core c = none → runs (.mxuTile core)) ∧
       (c.kind = 1 → mxCheck s core c = none → runs (.mxuDrain core)) ∧
       (s.thread? c.tid = some v →
         (∀ r, mxCheck s core c = some r →
           (c.kind ≠ 1 ∧ c.kind ≠ 2 → refused (.mxuTile core) r) ∧ (c.kind = 1 → refused (.mxuDrain core) r) ∧
           (c.kind = 2 → refused (.mxuCtx core) r)) ∧
         (c.kind = 2 → mxCheck s core c = none → ∃ t, exec (.mxuCtx core) s = .next t ∧ Taken s t core 0 ∧
           (t.core core).fmt = BitVec.ofNat 128 (c.field 8 8 + c.field 0x10 8 * 2 ^ 64) ∧ Recorded s t core c 0 0 0 0 0)))) ∧
  (∀ (s : State) (core : Nat) (r : MxuRun) (d b : BitVec 5) (g : BitVec 4), s.pool.wf = true →
     let c := r.cmd
     let w := c.words
     let o := mxOrigin w r.step
     let k := mxSpan w r.step
     let acc := accStart s c core
     let key (m : Nat) : Nat := poolKey core (acc + 4 * mxN w * (o.1 + m) + 4 * o.2)
     let parts := mxRowParts w (c.ptr 8) (c.field 0x20 4) o.1 k.1 k.2.1 ++ mxRowParts w (c.ptr 0x10) (c.field 0x24 4) o.2 k.1 k.2.1 ++
       mxScaleParts w (c.ptr 0x30) o.1 k.1 k.2.1 ++ mxScaleParts w (c.ptr 0x38) o.2 k.1 k.2.1
     let core' := (rX s b).toNat % 2 ^ 12
     let fields : Prop := (rX s b).toNat / 2 ^ 12 % 16 = 0 ∧ (rX s b).toNat / 2 ^ 32 = 0
     let pid : BitVec 16 := BitVec.ofNat 16 ((rX s b).toNat / 2 ^ 16 % 2 ^ 16)
     let stopped := (s.core core').mxu.find? fun x => x.stopped.isSome
     let may : Prop := c.pid = pid ∧ holderOf s core' = some pid ∧ frozen s core' c = false ∧ s.kills.any (·.pids.contains pid) = false
     let all (f : Instr → Prop) : Prop := f (.mxrs d b g) ∧ f (.mxrsPage d b g) ∧ f (.mxrsPoison d b g)
     let ends (i : Instr) (status : Nat) : Prop := ∀ v, (s.core core').mxu = [r] → s.thread? c.tid = some v → OtherThread s v →
       (∀ x ∈ (s.core core').cmds, x.tid = c.tid → x.q ≠ c.q) →
       ∃ u t x, XSet u t d.toNat 0 ∧ exec i s = .next t ∧ (u.core core').mxu = [] ∧ u.pool = s.pool ∧
         Recorded s u core' c 0 status r.flags (mxProg r) r.faddr ∧
         u.thread? v.tid = some x ∧ x.heldAsync = v.heldAsync ++ [BitVec.ofNat 64 c.seq]
     (mxStepRun s core = none → exec (.mxuStep core) s = .next s) ∧
     let free : Prop := mxStepRun s core = some r ∧ frozen s core c = false ∧
       mxBlocked s core c (acc + 4 * mxN w * o.1) (16 * (4 * mxN w)) = false
     let s0 := { s with mxLast := assocPut s.mxLast (core / 4) (core % 4) }
     (free → r.writing.left = [] → ∀ rest, s.upsets = .parity :: rest → exec (.mxuStep core) s =
       .next (mxuStop (errCount { s0 with upsets := rest } (dieOf core) 0x50) core r cPOISON (c.ptr 8))) ∧
     (∀ data s1, free → r.writing.left = [] → ReadsWhole s1 → WritesWhole s1 → (∀ b rest, s.upsets ≠ .parity :: rest ∧ s.upsets ≠ .mxu b :: rest) →
       engineReads (engineThread s c core) parts s0 = .ok (data, s1) →
       (¬ (mxOvw w ∧ (mxShape w < 16 ∨ r.step = 0)) → ∀ m, m < 16 → poisonedLoc s1 (.pool (key m)) 64 = false) → s1.pool = s.pool →
       let get (i : Nat) : List Byte := (withGots c.got data).getD i []
       let scale (i : Nat) : Option (List Byte) := if mxScl w then some (get i) else none
       let old (m n : Nat) : Nat := if mxOvw w ∧ (mxShape w < 16 ∨ r.step = 0) then 0 else s.pool.readNat (key m + 4 * n) 4
       ∃ t, exec (.mxuStep core) s = .next t ∧
         (∀ m n, m < 16 → n < 16 → t.pool.readNat (key m + 4 * n) 4 =
           (mxAccumulate w (old m n) (if k.2.2 then mxBlocks w (get m) (get (16 + n)) (scale (32 + m)) (scale (48 + n)) else [])).1 % 2 ^ 32) ∧
         (∀ x, (∀ m, m < 16 → x < key m ∨ key m + 64 ≤ x) → t.pool.read x = s.pool.read x)) ∧
     (∀ data s1 k rest, free → r.writing.left = [] → (∀ rest, s.upsets ≠ .parity :: rest) →
       engineReads (engineThread s c core) parts s0 = .ok (data, s1) → s1.ahead = .read k :: rest → s1.cores = s.cores →
       ∃ t, exec (.mxuStep core) s = .next t ∧ t.pool = s1.pool ∧ t.ahead = rest ∧ { r with cmd := c.gets parts data.flatten k } ∈ (t.core core).mxu) ∧
     (∀ k rest u a l, free → (s.core core).mxu = [r] → 2 ≤ r.writing.left.length → s.ahead = .write k :: rest →
       OnePart { s0 with ahead := rest } u r.writing (k % r.writing.left.length) a l →
       ∃ t x, exec (.mxuStep core) s = .next t ∧ t.pool = u.pool ∧ t.ahead = rest ∧ x ∈ (t.core core).mxu ∧
         x = { r with writing := { left := r.writing.left.eraseIdx (k % r.writing.left.length), done := (.pool a, l.length) :: r.writing.done } }) ∧
     ((s.core core).mxu = [] → ∃ t, exec (.mxuRowDrain core) s = .next t ∧ t = { s with agenda := t.agenda }) ∧
     (∀ s1 pa, mxDrainRun s core = some r → frozen s core c = false → r.row + 1 < mxM w → mxRhe w = false → r.writing.left = [] → WritesWhole s1 →
       let at' := acc + 4 * mxN w * r.row
       let els := (upTo (mxN w)).map fun i => mxDrainElem c r.ctx r.row i (s.pool.readNat (poolKey core (at' + 4 * i)) 4)
       let bytes := els.flatMap (·.1)
       poisonedLoc s (.pool (poolKey core at')) (4 * mxN w) = false →
       enginePlaces s (engineThread s c core) true (drainPtr c r.row) (mxN w * fmtBytes (ctxDfmt r.ctx)) = .ok ([(.mem pa, bytes.length)], s1) →
       cutOff s1 (dieOf core) (.mem pa) = false → s1.pool = s.pool → s1.cores = s.cores → s1.hbm.wf = true →
       ∃ u t x, exec (.mxuRowDrain core) s = .next t ∧ HbmSet s1 u pa bytes ∧ t = { u with cores := t.cores, agenda := t.agenda } ∧
         (t.core core).mxu.head? = some x ∧ x.row = r.row + 1 ∧ x.flags = els.foldl (fun f e => f ||| e.2) r.flags) ∧
     (guardOn s g = true → 1 ≤ s.cur.priv →
       (¬ fields → all fun i => exec i s = .next (trap s 0x01 (bundleNow s))) ∧
       (fields → stopped = none → all fun i => GivesX i s d (if mxAway s core' pid then 2 else 1)) ∧
       (fields → stopped = some r → ¬ may → all fun i => GivesX i s d 2) ∧
       (fields → stopped = some r → may → Drained s →
         (r.step < mxSteps c → r.status = 0 → ∃ u t, XSet u t d.toNat 0 ∧ exec (.mxrs d b g) s = .next t ∧ u.pool = s.pool ∧
           { r with stopped := none, faddr := 0 } ∈ (u.core core').mxu ∧
           ((s.core core').mxu = [r] → mxStepRun u core' = some { r with stopped := none, faddr := 0 })) ∧
         ends (.mxrsPage d b g) 0x12 ∧ ends (.mxrsPoison d b g) 0x13)))

/-- R282 to R286, R288, R309 to R312: a copy that passes its checks begins, one that fails ends with its status; a packet of up to 256
bytes is read to the next boundary and sent to every destination; an aligned 4 bytes may be read ahead of the rest, and a packet lands in
pieces of up to 4 bytes, one a step, in an open order (R220), poisoned where its flit was, and the granules that it has wholly written are
poisoned no longer (R399, R400); the batch of a copy that is read may count as finished before its bytes have landed (R232, R406);
arrivals, landing handlers and completion. The extent of a plane copy is log entry 25, a plane that would leave its core log entry 109,
the steps of a read and of a packet log entry 41, which copy reads next log entry 129, how early its batch counts as finished log entry
121, links on its way log entry 34, and the order of steps log entry 38, all the model's. -/
def Obligations.Copies : Prop :=
  ∀ (s : State) (core id num : Nat), s.pool.wf = true → s.hbm.wf = true →
    (copyHead s core = none → unread s core = [] → exec (.copy core) s = .next s) ∧
    (∀ c, copyHead s core = some c →
      (∀ r v, cpCheck s core c = some r → s.thread? c.tid = some v →
        ∃ t, exec (.copy core) s = .next t ∧ Taken s t core 2 ∧ t.copies = s.copies ∧ Recorded s t core c 1 r.status 0 0 r.faddr) ∧
      (cpCheck s core c = none →
        ∃ t, exec (.copy core) s = .next t ∧ Taken s t core 2 ∧ .copy core ∈ t.agenda ∧
          t = { s with
            cores := t.cores, agenda := t.agenda, nextId := s.nextId + 1
            copies := s.copies ++ [{
              id := s.nextId, core := core, part := (partOfCore s core).getD 0, cmd := c, readTo := 0, packets := [], nextPacket := 0
              chunks := [], arrived := [], flags := 0, status := 0, faddr := 0, stopped := none, began := s.ts }] })) ∧
    (∀ r rest data s1 places s2, copyHead s core = none → unread s core = r :: rest →
      let c := r.cmd
      let p := c.ptr 8 + BitVec.ofNat 64 r.readTo
      let n := Nat.min (cpSize c - r.readTo) (256 - p.toNat % 256)
      let u := { s with copies := s.copies.filter (fun x => x.id ≠ r.id) ++ [r] }
      engineRead u (engineThread u c r.core) (streamDie u r.core c) p n = .ok (data, s1) →
      (∀ k rest, s1.ahead = .read k :: rest → s1.copies = u.copies → ∃ t, exec (.copy core) s = .next t ∧ t.pool = s1.pool ∧ t.hbm = s1.hbm ∧
        t.ahead = rest ∧ t.copy? r.id = some { r with cmd := c.gets [(p, n)] data k }) ∧
      (ReadsWhole s1 →
      cpPlaces (engineThread u c r.core) (cpSpans c r.readTo (r.readTo + n)) (cpDests c r.core) s1 = .ok (places, s2) → s2.copies = u.copies →
      (cpSfmt c ≠ cpDfmt c → ∀ b rest, s2.upsets ≠ .convert b :: rest) →
      let out := cpConvert c (r.readTo / fmtBytes (cpSfmt c)) (withGot c.got data)
      ∃ t x, exec (.copy core) s = .next t ∧ t.copy? r.id = some x ∧ x.readTo = r.readTo + n ∧ x.flags = r.flags ||| out.2 ∧
        x.packets = r.packets ++ ((upTo places.length).zip places).map (fun q => {
          num := r.nextPacket + q.1, dest := q.1, spans := cpSpans c r.readTo (r.readTo + n)
          parts := (q.2.zip out.1).flatMap fun y => cutTo y.1 y.2 }) ∧
        (∀ i, i < places.length → .copyPacket r.id (r.nextPacket + i) ∈ t.agenda) ∧
        (∀ rest v, s2.ahead = .batch :: rest → cpSize c ≤ r.readTo + n → cpBare c = false → cpLhe c = false → OtherThread s2 v → v.tid = c.tid →
          ∃ y, t.thread? c.tid = some y ∧ c.key ∉ y.unsealed ∧ ∀ b ∈ y.batches, c.key ∉ b.open'))) ∧
    let marks (k : Packet) (u : State) (pa : Nat) (bytes : List Byte) : Prop :=
      (.mem pa ∈ k.bad → ∀ g ∈ granules pa bytes.length, g ∈ u.hbmPoison) ∧
      (.mem pa ∉ k.bad → ∀ g, (∀ b, 8 * g ≤ b → b < 8 * g + 8 →
        InSpan pa bytes.length b ∨ ∃ a n, (.mem a, n) ∈ k.done ∧ InSpan a n b) → g ∈ granules pa bytes.length → g ∉ u.hbmPoison)
    (∀ r k, s.copy? id = some r → (r.packets.find? fun x => x.num == num) = some k → 2 ≤ k.parts.length →
      (∀ x ∈ k.parts, cutOff s (streamDie s r.core r.cmd) x.1 = false ∧ ∃ pa, x.1 = .mem pa) →
      ∃ i pa bytes u t x, k.parts[i]? = some (.mem pa, bytes) ∧ HbmWritten s u pa bytes ∧ marks k u pa bytes ∧ exec (.copyPacket id num) s = .next t ∧
        t = { u with copies := t.copies, agenda := .copyPacket id num :: s.agenda, sched := t.sched } ∧ t.copy? id = some x ∧
        x = { r with packets := r.packets.map fun y => if y.num = num then { y with parts := k.parts.eraseIdx i, done := (.mem pa, bytes.length) :: k.done } else y }) ∧
    (∀ r k pa bytes, s.copy? id = some r → (r.packets.find? fun x => x.num == num) = some k → k.parts = [(.mem pa, bytes)] →
      cutOff s (streamDie s r.core r.cmd) (.mem pa) = false →
      ∃ u t x, HbmWritten s u pa bytes ∧ marks k u pa bytes ∧ exec (.copyPacket id num) s = .next t ∧ t = { u with copies := t.copies, agenda := t.agenda } ∧
        t.copy? id = some x ∧ x = { r with packets := r.packets.filter fun y => y.num ≠ num }) ∧
    (s.copies = [] → (s.core core).landing = [] → ∃ t, exec (.landingHandlerStart core) s = .next t ∧ t = { s with cores := t.cores } ∧
      ∀ k, t.core k = s.core k) ∧
    (∀ r k rest, s.copy? id = some r → (s.core core).landing = (id, k) :: rest → frozen s r.core r.cmd = false →
      (∀ t ∈ s.allThreads, t.core ≠ core ∨ t.slot ≠ 14 ∨ t.handler = none ∨ t.img ≠ none) →
      ∃ t x, exec (.landingHandlerStart core) s = .next t ∧ x ∈ t.threads ∧ x.tid = s.nextTid ∧ x.handler = some (.landing id) ∧
        x.slot = 14 ∧ x.core = core ∧ x.pc = r.cmd.ptr 0x30 ∧ x.pid = r.cmd.pid ∧ x.state = .running) ∧
    (∀ r, s.copy? id = some r →
      (frozen s r.core r.cmd = true → exec (.copyBarrierArrival id core) s = .next s ∧ exec (.copyCompletion id) s = .next s) ∧
      (frozen s r.core r.cmd = false →
        let key := poolKey core (r.cmd.field 0x2C 4)
        (∀ w, arrive (s.pool.readNat key 8) 1 = some w →
          ∃ u t, PoolSet s u key (leBytes 8 w) ∧ exec (.copyBarrierArrival id core) s = .next t ∧
            t = { u with copies := t.copies, agenda := t.agenda } ∧ t.copy? id = some { r with arrived := core :: r.arrived }) ∧
        (arrive (s.pool.readNat key 8) 1 = none →
          ∃ t, exec (.copyBarrierArrival id core) s = .next t ∧ t = { s with copies := t.copies, agenda := t.agenda } ∧
            t.copy? id = some { r with arrived := core :: r.arrived, status := worseStatus r.status 0x14 }) ∧
        (∀ v, s.thread? r.cmd.tid = some v → r.status ≠ 0 ∨ suppressed r.cmd = false →
          ∃ t, exec (.copyCompletion id) s = .next t ∧ t.copy? id = none ∧
            Recorded s t r.core r.cmd 1 r.status r.flags r.readTo r.faddr ∧ t.pool = s.pool)))

/-- R386 to R389: a contribution that passes its checks opens or joins the sum of its RID; a router adds its row's contributions to the
sum from above; the sum that lands writes the destination, whole or an aligned 4 bytes at a time (R220), and ends with a record for every
contributor; one that a dead link cuts may be lost, and the fault service is told (R391). Log entries 85 and 86 are the model's readings
that its clauses follow; a sum whose link retrains or has failed is log entries 34 and 90. -/
def Obligations.ColumnSums : Prop :=
  ∀ (s : State) (core id row : Nat), s.pool.wf = true →
    (headCmd s core 4 = none → exec (.colsum core) s = .next s) ∧
    (∀ c, headCmd s core 4 = some c → heldCmd s core c = true → exec (.colsum core) s = .next s) ∧
    (∀ c, headCmd s core 4 = some c → heldCmd s core c = false →
      let part := (partOfCore s core).getD 0
      (∀ r v, csCheck s core c = some r → s.thread? c.tid = some v →
        ∃ t, exec (.colsum core) s = .next t ∧ Taken s t core 4 ∧ t.sums = s.sums ∧ Recorded s t core c 2 r.status 0 0 r.faddr) ∧
      (∀ bytes s1 k rest, csCheck s core c = none → s.ahead = .read k :: rest →
        engineRead s (engineThread s c core) (dieOf core) (c.ptr 8) (csSize c) = .ok (bytes, s1) → s1.cores = s.cores → s1.sums = s.sums →
        ∃ t, exec (.colsum core) s = .next t ∧ headCmd t core 4 = some (c.gets [(c.ptr 8, csSize c)] bytes k) ∧ t.sums = s.sums ∧ t.pool = s1.pool ∧ t.ahead = rest) ∧
      (ReadsWhole s → csCheck s core c = none → openSum s core c = none → 4 ≤ (s.sums.filter fun x => x.part == part && sumPresent s x).length →
        exec (.colsum core) s = .next s) ∧
      (∀ bytes s1, ReadsWhole s → csCheck s core c = none → openSum s core c = none → (s.sums.filter fun x => x.part == part && sumPresent s x).length < 4 →
        (∀ x ∈ s.sums, x.id ≠ s.nextId) →
        let opened : SumRun := { id := s.nextId, part := part, rid := csRid c, first := c, parts' := [(core, c, none)], rows := csRows c, acc := none
                                 flags := 0, status := 0, stops := [] }
        let u := { takeCmd s core 4 with sums := s.sums ++ [opened], nextId := s.nextId + 1 }
        engineRead u (engineThread u c core) (dieOf core) (c.ptr 8) (csSize c) = .ok (bytes, s1) → s1.sums = u.sums →
        ∃ t, exec (.colsum core) s = .next t ∧ t.sum? s.nextId = some { opened with parts' := [(core, c, some (withGot c.got bytes))] }) ∧
      (∀ x bytes s1, ReadsWhole s → csCheck s core c = none → openSum s core c = some x → s.sum? x.id = some x → (∀ p ∈ x.parts', p.1 ≠ core) → x.stops = [] →
        let u := (takeCmd s core 4).modSum x.id fun x => { x with parts' := x.parts' ++ [(core, c, none)] }
        engineRead u (engineThread u c core) (dieOf core) (c.ptr 8) (csSize c) = .ok (bytes, s1) → s1.sums = u.sums →
        ∃ t, exec (.colsum core) s = .next t ∧ t.sum? x.id = some { x with parts' := x.parts' ++ [(core, c, some (withGot c.got bytes))] })) ∧
    (∀ x, s.sum? id = some x →
      let held := frozen s (csDest x.first) x.first
      (x.rows.head? ≠ some row ∨ held = true ∨ rowParts x row = none → exec (.columnSumAdd id row) s = .next s) ∧
      (∀ bs, x.rows.head? = some row → held = false → rowParts x row = some bs → (∀ b rest, s.upsets ≠ .sum b :: rest) →
        let int := bitAt x.first.words 25
        let loc := csFold int bs
        let sum := match x.acc with
          | none => loc
          | some a => ((csAdd int a loc.1).1, loc.2 ||| (csAdd int a loc.1).2)
        ∃ t, exec (.columnSumAdd id row) s = .next t ∧ t = { s with sums := t.sums, agenda := t.agenda } ∧
          t.sum? id = some { x with rows := x.rows.drop 1, acc := some sum.1, flags := x.flags ||| sum.2 }) ∧
      (held = true → exec (.colsumLanding id) s = .next s) ∧
      (∀ k rest u a l, held = false → 2 ≤ x.writing.left.length → s.ahead = .write k :: rest →
        OnePart { s with ahead := rest } u x.writing (k % x.writing.left.length) a l →
        ∃ t, exec (.colsumLanding id) s = .next t ∧ t.pool = u.pool ∧ t.ahead = rest ∧ .colsumLanding id ∈ t.agenda ∧
          t.sum? id = some { x with writing :=
            { left := x.writing.left.eraseIdx (k % x.writing.left.length), done := (.pool a, l.length) :: x.writing.done } }) ∧
      (∀ k c b, held = false → x.writing.left = [] → csBare x.first = false → (s.core (csDest x.first)).watch = none → x.parts' = [(k, c, b)] →
        suppressed c = false → (∃ v, s.thread? c.tid = some v) →
        let cut := (sumRoute x).any (s.linksDown.contains ·)
        (cut = true → Config.unansweredStorePerformed s.freeNext = false → ∃ t, exec (.colsumLanding id) s = .next t ∧ t.pool = s.pool ∧
          t.sum? id = none ∧ ∃ p, .faultNotification x.first.pid x.first.recd (stopWord cPOISON 4 3 k x.first.slot) p
            (BitVec.ofNat 64 x.first.seq) ∈ t.agenda) ∧
        (cut = false → WritesWhole s → ∃ u t, PoolStored none s u (poolKey (csDest x.first) (csOff x.first)) (x.acc.getD []) ∧ exec (.colsumLanding id) s = .next t ∧
          t.pool = u.pool ∧ t.sum? id = none ∧ Recorded s t k c 2 0 x.flags (x.acc.getD []).length 0)))

/-- (a) R319, R320, R322, R323: a Measure command that fails a check ends with its MSTAT and changes nothing else of the engine; the
others define, zero or free objects, attach or detach filters, arm triggers, or copy an object out. A step of another kind than the oldest
command's leaves it. (b) R315 to R318: an event enters the FIFO of an engine, or is dropped with 64 in it; the engine takes the oldest,
and runs the attached filters of its class and tenant one after the other, by rising index, each as its budget admits it once the run
before it is over; a sample names the router's occupancy; a new budget window takes the budgets of the table and clears USED. The statuses
of LOAD and SNAP are log entry 26, events an idle engine takes without effect log entry 22, the budget log entry 94, the occupancy in a
router sample log entry 5, core and slot there log entry 63, and the counter of a sample log entry 98, all the model's. -/
def Obligations.MeasureEngine : Prop :=
  (∀ (s : State) (core : Nat) (c : Cmd) (v : Thread), s.hbm.wf = true → (s.measureOf (clusterOf core)).store.wf = true →
     (headCmd s core 6 = none → ∀ i ∈ [Instr.obj core, .load core, .detach core, .arm core, .clear core, .snap core, .free core],
       exec i s = .next s) ∧
     (headCmd s core 6 = some c →
       (heldCmd s core c = true → ∀ i ∈ [Instr.obj core, .load core, .detach core, .arm core, .clear core, .snap core, .free core],
         exec i s = .next s) ∧
       (∀ x ∈ [(1, Instr.load core), (2, .detach core), (3, .arm core), (4, .clear core), (5, .snap core), (6, .free core)],
         c.kind ≠ x.1 → exec x.2 s = .next s)) ∧
     (headCmd s core 6 = some c → heldCmd s core c = false → s.thread? c.tid = some v →
       let o : MObj := { idx := c.words / 2 ^ 40 % 16, tenant := c.pid.toNat / 256, type := c.words / 2 ^ 32 % 16, off := c.field 0x10 4
                         p1 := c.field 0x14 4, p2 := c.field 0x18 4, seq := 0 }
       let idx := o.idx
       let zero (m n : Measure) (x : MObj) : Prop :=
         (∀ a, x.off ≤ a → a < x.off + objSize x → n.store.read a = 0) ∧
         (∀ a, a < x.off ∨ x.off + objSize x ≤ a → n.store.read a = m.store.read a)
       let at' := s.measureOf (clusterOf core)
       let len := c.field 0x10 4
       let u := takeCmd s core 6
       (c.kind = 0 ∨ 7 ≤ c.kind → GivesMeasure (.obj core) s core c (fun m n => n.objs = o :: m.objs.filter (fun x => x.idx ≠ idx) ∧ zero m n o ∧ n.filters = m.filters)) ∧
       (c.kind = 2 → GivesMeasure (.detach core) s core c (fun m n => n = { m with filters := m.filters.filter fun f => f.idx ≠ idx })) ∧
       (c.kind = 3 → GivesMeasure (.arm core) s core c (fun m n => n = { m with
         trigs := { idx := idx, tenant := o.tenant, act := c.words / 2 ^ 30 % 4, arg := len, tid := c.tid, recd := c.recd, pid := c.pid
                    core := core, slot := c.slot } :: m.trigs.filter fun t => t.idx ≠ idx })) ∧
       (c.kind = 4 → GivesMeasure (.clear core) s core c (fun m n => ∀ x, m.objs.find? (fun y => y.idx == idx) = some x → zero m n x ∧
         n.objs = m.objs.map fun y => if y.idx = idx then { y with seq := 0 } else y)) ∧
       (c.kind = 6 → GivesMeasure (.free core) s core c (fun m n => n = { m with objs := m.objs.filter fun x => x.idx ≠ idx })) ∧
       (c.kind = 1 → msCheck u core c = none → len = 0 ∨ 32 < len → ∃ t, exec (.load core) s = .next t ∧ Recorded s t core c 3 0 0 8 0) ∧
       (∀ l s1, c.kind = 1 → msCheck u core c = none → 1 ≤ len → len ≤ 32 → engineRead u (engineThread u c core) (dieOf core) (c.ptr 8) (4 * len) = .ok (l, s1) → ReadsWhole s1 →
         s1.cores = u.cores → s1.cur = u.cur → s1.threads = u.threads → s1.measure = u.measure → s1.ts = u.ts →
         let ws := (upTo len).map fun i => BitVec.ofNat 32 (fieldOf (withGot c.got l) (4 * i) 4)
         let bad := ((upTo len).zip ws).any fun x => flBad at' o.tenant x.1 len x.2
         let cls := c.words / 2 ^ 36 % 16
         (bad = true → ∃ t, exec (.load core) s = .next t ∧ Recorded s t core c 3 0 0 8 0) ∧
         (bad = false → 10 ≤ cls → ∃ t, exec (.load core) s = .next t ∧ Recorded s t core c 3 0 0 9 0) ∧
         (bad = false → cls < 10 → ∃ t, exec (.load core) s = .next t ∧ Recorded s t core c 3 0 0 0 0 ∧
           t.measureOf (clusterOf core) = { at' with
             filters := { idx := idx, tenant := o.tenant, pid := c.pid, cls := cls, prog := ws } :: at'.filters.filter fun f => f.idx ≠ idx })) ∧
       (∀ x pa s1, c.kind = 5 → c.writing.left = [] → WritesWhole s1 → msCheck u core c = none → at'.objs.find? (fun y => y.idx == idx) = some x →
         enginePlaces u (engineThread u c core) true (c.ptr 8) (objSize x) = .ok ([(.mem pa, objSize x)], s1) →
         cutOff s1 (dieOf core) (.mem pa) = false → s1.hbm.wf = true → s1.cores = u.cores → s1.cur = u.cur → s1.threads = u.threads → s1.ts = u.ts →
         ∃ w t, HbmSet s1 w pa (at'.store.readBytes x.off (objSize x)) ∧ exec (.snap core) s = .next t ∧ t.hbm = w.hbm ∧
           Recorded s t core c 3 0 0 0 0))) ∧
  (∀ (s : State) (cl : Nat) (tenant : BitVec 8) (words : List W32),
     let m := s.measureOf cl
     (m.fifo.length < 64 → ∃ t, exec (.measureEvent cl tenant words) s = .next t ∧ .filterRun cl ∈ t.agenda ∧
       t = { s with measure := t.measure, agenda := t.agenda } ∧ t.measureOf cl = { m with fifo := m.fifo ++ [(tenant.toNat, words)] }) ∧
     (64 ≤ m.fifo.length → ∃ t, exec (.measureEvent cl tenant words) s = .next t ∧ t = { s with measure := t.measure } ∧
       (t.measureOf cl).fifo = m.fifo ∧ ((t.measureOf cl).count tenant.toNat).dropq = (m.count tenant.toNat).dropq + 1) ∧
     ((m.now = none ∧ m.fifo = []) ∨ s.ts < m.busy → exec (.filterRun cl) s = .next s) ∧
     (∀ n ev rest, m.busy ≤ s.ts → m.now = none → m.fifo = (n, ev) :: rest →
       ∃ t, exec (.filterRun cl) s = .next t ∧ t = { s with measure := t.measure, agenda := t.agenda } ∧ .filterRun cl ∈ t.agenda ∧
         t.measureOf cl = { m with fifo := rest, now := some (n, ev, 0) }) ∧
     (∀ n ev i, m.busy ≤ s.ts → m.now = some (n, ev, i) →
       let cls := (ev.getD 1 0).toNat / 2 ^ 24
       let has (j : Nat) (f : MFilter) : Prop := (m.filters.find? fun f => f.idx == j && f.tenant == n && f.cls == cls) = some f
       ((∀ j f, i ≤ j → j < 16 → ¬ has j f) → ∃ t, exec (.filterRun cl) s = .next t ∧ t = { s with measure := t.measure, agenda := t.agenda } ∧
         t.measureOf cl = { m with now := none }) ∧
       (∀ j f, i ≤ j → j < 16 → has j f → (∀ k g, i ≤ k → k < j → ¬ has k g) →
         (budgetOf s n < (m.count n).used + f.prog.length → ∃ t, exec (.filterRun cl) s = .next t ∧ (t.measureOf cl).fifo = m.fifo ∧
           (t.measureOf cl).now = some (n, ev, j + 1) ∧ ((t.measureOf cl).count n).dropb = (m.count n).dropb + 1 ∧
           ((t.measureOf cl).count n).used = (m.count n).used) ∧
         ((m.count n).used + f.prog.length ≤ budgetOf s n → ∃ t k, exec (.filterRun cl) s = .next t ∧ k ≤ f.prog.length ∧
           (t.measureOf cl).fifo = m.fifo ∧ (t.measureOf cl).now = some (n, ev, j + 1) ∧ (t.measureOf cl).busy = s.ts + k ∧
           ((t.measureOf cl).count n).used = (m.count n).used + k ∧
           ((t.measureOf cl).count n).runs = (m.count n).runs + 1 ∧ ((t.measureOf cl).count n).instrs = (m.count n).instrs + k))) ∧
     (holderOf s (4 * cl) = none → ∃ t, exec (.routerSample cl) s = .next t ∧ t = { s with measure := t.measure } ∧
       t.measureOf cl = { m with samples := m.samples + 1 }) ∧
     (∀ pid, holderOf s (4 * cl) = some pid → m.filters.any (fun f => f.tenant == pid.toNat / 256 && f.cls == 9) = true →
       ∃ t k, k < 2 ^ 16 ∧ exec (.routerSample cl) s = .next t ∧ t.agenda = s.agenda ++ [.measureEvent cl (BitVec.ofNat 8 (pid.toNat / 256))
         [BitVec.ofNat 32 (tsOf s (4 * cl)), BitVec.ofNat 32 (k + pid.toNat / 256 * 2 ^ 16 + 9 * 2 ^ 24), 0, 0, Config.routerOccupancy cl m.samples, 0, 0, 0, 0]]) ∧
     (∃ t, exec (.budgetWindow cl) s = .next t ∧ t = { s with measure := t.measure, budgets := t.budgets } ∧
       (∀ n, n < 64 → countGet t.budgets n = sysQ s (0x104010000 + 8 * n) % 2 ^ 11) ∧
       ∀ n, ((t.measureOf cl).count n).used = 0))

/-! ### Exceptions, privilege and the system instructions (R16, R21, R22, R361 to R375) -/

/-- R11, R15, R16, R361: below its level a privileged instruction takes PRIV with the bundle in TVAL, and with a false guard it has no
effect; RDSR and WRSR are those of the register numbers that R11 gives them. That a register number which no one may name is an illegal
encoding whatever the guard is log entry 132, the model's choice. -/
def Obligations.PrivilegeAndGuard : Prop :=
  ∀ (s : State) (a b d : BitVec 5) (k : BitVec 6) (g : BitVec 4) (n : BitVec 11),
    let levels : List (Instr × Nat) :=
      [(.rett g, 1), (.swapwp d b g, 1), (.slotw a b g, 1), (.stinv a b k g, 1), (.stinvAll a g, 1), (.kill d b g, 1), (.killT d b g, 2),
       (.gang d b g, 2), (.mxrs d b g, 1), (.mxrsPage d b g, 1), (.mxrsPoison d b g, 1)]
    (guardOn s g = true → ∀ p ∈ levels, s.cur.priv < p.2 → exec p.1 s = .next (trap s 0x02 (bundleNow s))) ∧
    (guardOn s g = true → s.cur.priv = 0 → exec (.rdsr d 8 g) s = .next (trap s 0x02 (bundleNow s)) ∧
      (8 ≤ n.toNat → n.toNat < 12 → exec (.wrsr b n g) s = .next (trap s 0x02 (bundleNow s)))) ∧
    (guardOn s g = false → (∀ p ∈ levels, exec p.1 s = .next s) ∧
      (n.toNat ≤ 17 → exec (.rdsr d n g) s = .next s) ∧ (8 ≤ n.toNat → n.toNat ≤ 14 → exec (.wrsr b n g) s = .next s) ∧
      ∀ i ∈ [Instr.trap n g, .brk n g, .liveP n g, .liveD b g, .rdts d g], exec i s = .next s)

/-- R21, R22, R60, R331, R363: a trap saves the cause, the value, the pc and the level, sets INTRAP, and goes on at TVEC at supervisor
level; while INTRAP is set the thread is suspended with the second cause as its stop code, and the fields of the first trap stand. TRAP,
BRK without a debugger, and ILLEG take such a trap each; BRK with a debugger stops the thread. -/
def Obligations.ExceptionsAreTaken : Prop :=
  ∀ (s : State) (n : BitVec 11) (w : W64) (g : BitVec 4), guardOn s g = true →
    let value : W64 := BitVec.ofNat 64 n.toNat
    let debugged : Prop := sysQ s (svcAt s.cur.pid + 0x10) ≠ 0
    let second (i : Instr) (cause : Nat) (val : W64) : Prop := exec i s = .next { s with
      agenda := s.agenda ++ [.faultNotification s.cur.pid s.cur.recd (stopWord cause 15 0 s.cur.core s.cur.slot) val 0]
      cur := { s.cur with state := .fault, npc := s.cur.pc, lastFault := val, wait := none }, flow := .trapped cause val 0 }
    (CanTrap s → ∀ cause val, cause < 256 → TrapTaken s (trap s cause val) cause val) ∧
    (bitAt (s.pool.readNat (wsKey s.cur + 0x180) 4) 12 = true → ∀ cause val, trap s cause val = { s with
      agenda := s.agenda ++ [.faultNotification s.cur.pid s.cur.recd (stopWord cause 15 0 s.cur.core s.cur.slot) val 0]
      cur := { s.cur with state := .fault, npc := s.cur.pc, lastFault := val, wait := none }, flow := .trapped cause val 0 }) ∧
    (CanTrap s →
      (∃ t, exec (.trap n g) s = .next t ∧ TrapTaken s t 0x12 value) ∧
      (∃ t, exec (.illeg w) s = .next t ∧ TrapTaken s t 0x01 w) ∧
      (¬ debugged → ∃ t, exec (.brk n g) s = .next t ∧ TrapTaken s t 0x10 value) ∧
      (debugged → exec (.brk n g) s = .next { s with
        agenda := s.agenda ++ [.faultNotification s.cur.pid s.cur.recd (stopWord 0x10 15 0 s.cur.core s.cur.slot) value 0]
        debugNotices := s.debugNotices ++ [(s.cur.pid, s.cur.recd, stopWord 0x10 15 0 s.cur.core s.cur.slot)]
        cur := { s.cur with state := .stopped, slotHeld := true, npc := s.cur.pc, lastFault := value, wait := none }, flow := .suspended })) ∧
    (bitAt (s.pool.readNat (wsKey s.cur + 0x180) 4) 12 = true →
      second (.trap n g) 0x12 value ∧ second (.illeg w) 0x01 w ∧ second (.brk n g) 0x10 value)

/-- R336, R364: RETT clears INTRAP, takes the level that TCAUSE holds and goes on at TPC; a level above its own takes PRIV, a bad TPC
takes ADDR or ALIGN; a held ASYNC is then taken with TPC the return address. -/
def Obligations.RettReturns : Prop :=
  ∀ (s : State) (g : BitVec 4), s.pool.wf = true → s.pre = none → guardOn s g = true → 1 ≤ s.cur.priv →
    let lvl := getSt s 0x198 8 / 2 ^ 8 % 4
    let tpc : W64 := BitVec.ofNat 64 (getSt s 0x1A8 8)
    let back (t : State) : Prop := PoolSet s t (wsOf s + 0x180) (leBytes 4 (setBits (liveSt s 0x180 4) 12 1 0))
    (s.cur.priv < lvl → exec (.rett g) s = .next (trap s 0x02 (bundleNow s))) ∧
    (lvl ≤ s.cur.priv → 2 ^ 57 ≤ tpc.toNat → exec (.rett g) s = .next (trap s 0x04 tpc)) ∧
    (lvl ≤ s.cur.priv → tpc.toNat < 2 ^ 57 → tpc.toNat % 8 ≠ 0 → exec (.rett g) s = .next (trap s 0x03 tpc)) ∧
    (lvl ≤ s.cur.priv → tpc.toNat < 2 ^ 57 → tpc.toNat % 8 = 0 →
      (s.cur.heldAsync = [] → ∃ u t, back u ∧ t = { u with cur := { s.cur with priv := lvl, npc := tpc } } ∧ exec (.rett g) s = .next t) ∧
      (∀ v rest, s.cur.heldAsync = v :: rest → s.pool.readNat (wsKey s.cur + 0x1D8) 8 < 2 ^ 57 → s.pool.readNat (wsKey s.cur + 0x1D8) 8 % 8 = 0 →
        ∃ u w t, back u ∧ w = { u with cur := { s.cur with priv := lvl, npc := tpc, pc := tpc, heldAsync := rest } } ∧
          exec (.rett g) s = .next t ∧ TrapFields w t 0x0A v ∧ t.cur.priv = 1 ∧ t.cur.heldAsync = rest ∧ t.flow = .done ∧
          t.cur.npc = BitVec.ofNat 64 (s.pool.readNat (wsKey s.cur + 0x1D8) 8)))

/-- R10, R11, R365, R371, R372: what each special register and each counter reads, and what each writable one becomes; a value that WRSR
checks and refuses takes ILLEG, and a new SRSEED restarts the draws. A reserved bit above 31 of FMODE is log entry 73, the model's
reading; which die's counter RDTS reads is log entry 98. -/
def Obligations.SpecialRegisters : Prop :=
  ∀ (s : State) (d b : BitVec 5) (g : BitVec 4) (n : BitVec 8), s.pool.wf = true → guardOn s g = true →
    let c := rcur s
    let v := rX s b
    let m := v.toNat
    let reads : List (BitVec 11 × W64) :=
      [(0x00, c.mcnt.setWidth 64), (0x01, c.unitid.setWidth 64), (0x02, c.unitidx), (0x03, c.grps), (0x04, BitVec.ofNat 64 (c.core % 4096)),
       (0x05, BitVec.ofNat 64 c.slot), (0x06, c.pid.setWidth 64), (0x07, locPtr c.wp), (0x09, BitVec.ofNat 64 (getSt s 0x198 8)),
       (0x0A, BitVec.ofNat 64 (getSt s 0x1A8 8)), (0x0B, BitVec.ofNat 64 (getSt s 0x1A0 8)), (0x0C, BitVec.ofNat 64 (getSt s 0x184 4)),
       (0x0D, BitVec.ofNat 64 (getSt s 0x188 4)), (0x0E, BitVec.ofNat 64 (getSt s 0x1D0 8)), (0x0F, c.wincur.setWidth 64),
       (0x10, BitVec.ofNat 64 (countGet (s.core c.core).slotSeq c.slot)), (0x11, BitVec.ofNat 64 c.part)]
    let sets (r : BitVec 11) (off len : Nat) : Prop := ∃ t, exec (.wrsr b r g) s = .next t ∧ PoolSet s t (wsOf s + off) (leBytes len m)
    let refuses (r : BitVec 11) : Prop := exec (.wrsr b r g) s = .next (trap s 0x01 (bundleNow s))
    let count : Nat → W64
      | 0 => BitVec.ofNat 64 (((s.vcyc.find? fun v => v.1 == s.cur.pid).map (·.2)).getD 0)
      | 1 => s.cur.ibnd
      | 2 => s.cur.forf
      | 3 => s.cur.memw
      | 4 => s.cur.msgw
      | _ => s.cur.qpsh
    (∀ p ∈ reads, GivesX (.rdsr d p.1 g) s d p.2) ∧ (1 ≤ s.cur.priv → GivesX (.rdsr d 8 g) s d (BitVec.ofNat 64 (getSt s 0x1D8 8))) ∧
    (1 ≤ s.cur.priv →
      (m < 2 ^ 57 ∧ m % 8 = 0 → sets 0x08 0x1D8 8) ∧ (2 ^ 57 ≤ m ∨ m % 8 ≠ 0 → refuses 0x08) ∧
      (m < 2 ^ 10 → sets 0x09 0x198 8) ∧ (2 ^ 10 ≤ m → refuses 0x09) ∧ sets 0x0A 0x1A8 8 ∧ sets 0x0B 0x1A0 8) ∧
    (m < 2 ^ 5 → sets 0x0C 0x184 4) ∧ (2 ^ 5 ≤ m → refuses 0x0C) ∧
    (m < 2 ^ 10 ∧ m % 8 ≤ 4 → sets 0x0D 0x188 4) ∧ (2 ^ 10 ≤ m ∨ 4 < m % 8 → refuses 0x0D) ∧
    (∃ u t, PoolSet s u (wsOf s + 0x1D0) (leBytes 8 m) ∧ t = { u with cur := { s.cur with draw := 0 } } ∧ exec (.wrsr b 0x0E g) s = .next t) ∧
    GivesX (.rdts d g) s d (BitVec.ofNat 64 (tsOf s s.cur.core)) ∧
    (n.toNat ≤ 5 →
      GivesX (.rdctr d n g) s d (count n.toNat) ∧
      GivesCurX (.rdctrLo d n g) s (fun t => { t with latch := some (n.toNat, (count n.toNat >>> 32).setWidth 32) }) d
        (BitVec.ofNat 64 ((count n.toNat).toNat % 2 ^ 32)) ∧
      (∀ h, s.cur.latch = some (n.toNat, h) → GivesX (.rdctrHi d n g) s d (h.setWidth 64)) ∧
      ((∀ h, s.cur.latch ≠ some (n.toNat, h)) → GivesX (.rdctrHi d n g) s d (count n.toNat >>> 32)))

/-- R7, R9, R126, R366 to R368, R370, R377, R391: SWAPWP moves the thread to another workspace of its core, where x0 reads as zero and p0
as true in each frame of the ring (log entry 120); LIVE.P and LIVE.D set the thread's declaration, and LMASK in its record, from the
dwords that NEXT counts and no others, and one that is poisoned or behind a dead link takes POISON; a slot table written takes effect at
the first multiple of 32 that is 32 cycles ahead or more. An empty extent is log entry 74, bit 0 of STAT log entry 120, and the counter
that SLOTW compares log entry 98, all the model's. -/
def Obligations.WorkspaceLiveAndSlotTable : Prop :=
  ∀ (s : State) (d a b : BitVec 5) (o : BitVec 11) (g : BitVec 4) (l : Loc), s.pool.wf = true → s.hbm.wf = true → guardOn s g = true →
    let w := rX s b
    let ring := w.toNat % 2 ^ 20
    let r := ownRegions s s.cur
    let last := ring + (frameRing s s.cur - 1) * 0x800
    let key := poolKey s.cur.core ring
    let plain : Prop := w.toNat / 2 ^ 60 = 2 ∧ w.toNat / 2 ^ 57 % 8 = 0 ∧ w.toNat / 2 ^ 20 % 2 ^ 37 = 0
    let own : Prop := r.wsLo ≤ ring ∧ last < r.wsHi
    let idle : Prop := s.cur.depth = 0 ∧ nopen s = 0 ∧ s.pool.readNat (key + 0x193) 1 = 0
    let lit := s.cur.pc + o.signExtend 64 * 8
    let frames := frameRing s s.cur
    let pieces (ps : List W64) (ls : List Loc) : List Piece := (ps.zip ls).map fun p => { ptr := p.1, loc := p.2, n := 8, data := [] }
    let declares (u t : State) (m : Nat) (f : Thread → Thread) : Prop :=
      let mask : BitVec 32 := BitVec.ofNat 32 m ||| 0xC0
      t = { u with cur := f { u.cur with lmask := mask }, hbm := t.hbm } ∧ (recordAddr u u.cur = none → t.hbm = u.hbm) ∧
      ∀ pa, recordAddr u u.cur = some pa → t.hbm.readNat (pa + 0x10) 4 = mask.toNat ∧
        ∀ x, x < pa + 0x10 ∨ pa + 0x14 ≤ x → t.hbm.read x = u.hbm.read x
    let busy (u : State) (l : Loc) : Prop := linkBusy u (dieOf u.cur.core) l = true
    let bad (u : State) (l : Loc) : Prop := poisonedLoc u l 8 = true ∨ cutOff u (dieOf u.cur.core) l = true
    let off (e : Nat) : Nat := e % 2 ^ 20
    let len (e : Nat) : Nat := e / 2 ^ 32
    let even (e : Nat) : Prop := off e % 64 = 0 ∧ len e % 64 = 0
    (1 ≤ s.cur.priv →
      (¬ plain → exec (.swapwp d b g) s = .next (trap s 0x04 w)) ∧
      (plain → ring % 0x800 ≠ 0 → exec (.swapwp d b g) s = .next (trap s 0x03 w)) ∧
      (plain → ring % 0x800 = 0 → ¬ own → exec (.swapwp d b g) s = .next (trap s 0x06 w)) ∧
      (plain → ring % 0x800 = 0 → own → ¬ idle → exec (.swapwp d b g) s = .next (trap s 0x01 (bundleNow s))) ∧
      (plain → ring % 0x800 = 0 → own → idle → ∃ u v t,
        u = { s with
          cur := { s.cur with wp := ring, ring := ring, spilled := 0 }, pool := u.pool, poolPoison := u.poolPoison } ∧
        (∀ i, i < frames → u.pool.readNat (key + 0x800 * i) 8 = 0 ∧
          u.pool.read (key + 0x800 * i + 0x180) = s.pool.read (key + 0x800 * i + 0x180) ||| 1) ∧
        (∀ x, (∀ i, i < frames → (x < key + 0x800 * i ∨ key + 0x800 * i + 8 ≤ x) ∧ x ≠ key + 0x800 * i + 0x180) → u.pool.read x = s.pool.read x) ∧
        PoolSet u v (key + 0x18C) (leBytes 4 s.cur.mcnt.toNat) ∧
        (if d = 0 then t = v else PoolSet v t (key + 8 * d.toNat) (leBytes 8 (locPtr s.cur.wp).toNat)) ∧ exec (.swapwp d b g) s = .next t) ∧
      (∃ t c, exec (.slotw a b g) s = .next t ∧ c % 32 = 0 ∧ tsOf s s.cur.core + 32 ≤ c ∧ c < tsOf s s.cur.core + 64 ∧
        (BitVec.ofNat 128 ((rX s a).toNat + (rX s b).toNat * 2 ^ 64), c) ∈ (t.core s.cur.core).newTables ∧
        (t.core s.cur.core).table = (s.core s.cur.core).table ∧ t = { s with cores := t.cores } ∧ ∀ k, k ≠ s.cur.core → t.core k = s.core k)) ∧
    (∀ k, (∀ n ∈ (s.core k).newTables, tsOf s k < n.2) → ∃ t, exec (.slotTableUpdate k) s = .next t ∧ t = { s with cores := t.cores } ∧
      ∀ c, t.core c = s.core c) ∧
    (∀ k n, (s.core k).newTables = [n] → n.2 ≤ tsOf s k → (s.core k).tenantTable = none → ∃ t, exec (.slotTableUpdate k) s = .next t ∧
      t = { s with cores := t.cores } ∧ t.core k = { s.core k with table := n.1, newTables := [] }) ∧
    (checkPtr s s.cur .fetch lit 8 0 = .ok l →
      let u := countDrops s [l]
      let v := leNat (readLoc u l 8)
      (busy u l → exec (.liveP o g) s = .next (retry u)) ∧
      (¬ busy u l → bad u l → exec (.liveP o g) s = .next (trap u 0x08 s.cur.pc)) ∧
      (¬ busy u l → ¬ bad u l → v < 2 ^ 32 → ∃ t, exec (.liveP o g) s = .next t ∧ declares u t v id) ∧
      (¬ busy u l → ¬ bad u l → 2 ^ 32 ≤ v → exec (.liveP o g) s = .next (trap u 0x01 (BitVec.ofNat 64 v)))) ∧
    (w.toNat / 2 ^ 60 ≠ 0 → w.toNat / 2 ^ 60 ≠ 2 → exec (.liveD b g) s = .next (trap s 0x04 w)) ∧
    (w.toNat / 2 ^ 60 = 0 ∨ w.toNat / 2 ^ 60 = 2 → rangeCause s s.cur .load w 40 8 = none → heldBack s false false = false →
      checkPtrs s s.cur .load 8 [] [w] = .ok [l] →
      let u := countDrops s [l]
      let h := leNat (readLoc u l 8)
      let n := h / 2 ^ 32
      let ps := (upTo n).map fun i => w + BitVec.ofNat 64 (8 * (i + 1))
      notYet u (pieces [w] [l]) = false →
      (busy u l → exec (.liveD b g) s = .next (retry u)) ∧
      (¬ busy u l → bad u l → exec (.liveD b g) s = .next (trap u 0x08 s.cur.pc)) ∧
      (¬ busy u l → ¬ bad u l → 4 < n → exec (.liveD b g) s = .next (trap u 0x01 (bundleNow u))) ∧
      (¬ busy u l → ¬ bad u l → n ≤ 4 → ∀ ls, checkPtrs u u.cur .load 8 [] ps = .ok ls →
        let v := countDrops u ls
        let es := ls.map fun x => leNat (readLoc v x 8)
        let r := ownRegions v v.cur
        let fits (e : Nat) : Prop := len e = 0 ∨ within (off e) (len e) r.spLo r.spHi = true
        notYet v (pieces ps ls) = false → (∀ x ∈ ls, ¬ busy v x ∧ ¬ bad v x) →
        ((∃ e ∈ es, e / 2 ^ 20 % 2 ^ 12 ≠ 0) → exec (.liveD b g) s = .next (trap v 0x01 (bundleNow v))) ∧
        ((∀ e ∈ es, e / 2 ^ 20 % 2 ^ 12 = 0) →
          (∀ pre e post, es = pre ++ e :: post → (∀ x ∈ pre, even x ∧ fits x) →
            (¬ even e → exec (.liveD b g) s = .next (trap v 0x03 (locPtr (off e)))) ∧
            (even e → ¬ fits e → exec (.liveD b g) s = .next (trap v 0x06 (locPtr (off e))))) ∧
          ((∀ e ∈ es, even e ∧ fits e) → ∃ t, exec (.liveD b g) s = .next t ∧ declares v t (h % 2 ^ 32) fun c => { c with
            extents := some ((es.map fun e => (off e, len e)).filter fun e => e.2 != 0) }))))

/-- R208, R210, R351, R373, R374, R377, R397: an STINV begins at its first issue, drops the cached translations and read-only lines of its
range once the older accesses of its thread are performed, and waits until the accesses that used them are; a KILL makes its identifiers'
CSTATE 2, but those that an earlier one still has in progress (log entry 135), and waits, as it waits for an earlier one that names them
all; at its completion, which comes after the STINVs of its identifiers, CSTATE is 0; a station that acknowledges holds the revocation.
Log entries 44, 71 and 72 are the model's readings that its clauses follow, and a KILL.T that overlaps a KILL in progress is log entry
135, its choice. -/
def Obligations.InvalidationsAndKills : Prop :=
  ∀ (s : State) (d a b : BitVec 5) (k : BitVec 6) (g : BitVec 4), s.pool.wf = true → s.sys.wf = true →
    let x := rX s a
    let pid : BitVec 16 := x.setWidth 16
    let size := 2 ^ (k.toNat + 12)
    let lo := (rX s b).toNat % 2 ^ 57 / size * size
    let meets (e : TlbEntry) (lo hi : Nat) : Prop := e.pid = pid ∧ inRange (e.vpn * 2 ^ (12 + 9 * e.level)) (2 ^ (12 + 9 * e.level)) lo hi = true
    let older := unperformed s s.cur.tid s.nextId
    let begins (i : Instr) (lo hi : Nat) : Prop := ∃ t v, exec i s = .next t ∧ v ∈ t.invals ∧ v.id = s.nextId ∧ v.tid = s.cur.tid ∧ v.pid = pid ∧
      v.lo = lo ∧ v.hi = hi ∧ (∀ x ∈ s.invals, x.id ≠ s.nextId → x ∈ t.invals) ∧ t.nextId = s.nextId + 1 ∧
      t.cur.wait = some (.stinv s.nextId) ∧ t.cur.npc = s.cur.pc ∧ t.pool = s.pool ∧ t.hbm = s.hbm ∧ t.sys = s.sys ∧
      (older ≠ [] → v.begun = none ∧ t.tlb = s.tlb ∧ t.ro = s.ro) ∧
      (older = [] → v.begun = some (s.nextId + 1) ∧ v.spans = (lo, hi) :: cachedSpans s pid lo hi ∧ (∀ e, e ∈ t.tlb ↔ e ∈ s.tlb ∧ ¬ meets e lo hi) ∧
        ∀ e, e ∈ t.ro ↔ e ∈ s.ro ∧ ¬ (e.pid = pid ∧ inRange (128 * e.line) 128 lo hi = true))
    let both (f : Instr → Nat → Nat → Prop) : Prop := (k.toNat ≤ 45 → f (.stinv a b k g) lo (lo + size)) ∧ f (.stinvAll a g) 0 (2 ^ 57)
    let y := rX s b
    let one : BitVec 16 := y.setWidth 16
    let busy (p : BitVec 16) : Prop := ∃ r ∈ s.kills, p ∈ r.pids
    let joins (i : Instr) (names : List (BitVec 16)) : Prop :=
      ∀ r, (s.kills.find? fun r => names.all fun p => r.pids.contains p) = some r → ∃ t, exec i s = .next t ∧
        t = { s with cur := t.cur, flow := t.flow } ∧ t.cur.wait = some (.kill r.id) ∧ t.cur.answer = [1] ∧ t.cur.npc = s.cur.pc
    let starts (i : Instr) (names : List (BitVec 16)) (tenant : Option Nat) : Prop :=
      (∀ r ∈ s.kills, ∃ p ∈ names, p ∉ r.pids) → ∃ t r, exec i s = .next t ∧
        t = { s with sys := t.sys, kills := s.kills ++ [r], nextId := s.nextId + 1, cur := t.cur, flow := t.flow } ∧
        r.id = s.nextId ∧ r.pids = names ∧ r.tenant = tenant ∧
        t.cur.wait = some (.kill s.nextId) ∧ t.cur.answer = [0] ∧ t.cur.npc = s.cur.pc ∧
        (∀ p ∈ names, ¬ busy p → cstate t p = 2) ∧ (∀ p ∈ names, busy p → cstate t p = cstate s p) ∧
        ∀ x, (∀ p ∈ names, x < descAt p + 0x24 ∨ descAt p + 0x28 ≤ x) → t.sys.read x = s.sys.read x
    (guardOn s g = true → 1 ≤ s.cur.priv →
      (resumed s = true → both fun i _ _ => exec i s = .next s) ∧
      (resumed s = false → 2 ^ 16 ≤ x.toNat → both fun i _ _ => exec i s = .next (trap s 0x01 (bundleNow s))) ∧
      (resumed s = false → x.toNat < 2 ^ 16 → older = [] → cstate s pid = 0 → both fun i _ _ => exec i s = .next s) ∧
      (resumed s = false → x.toNat < 2 ^ 16 → older ≠ [] ∨ cstate s pid ≠ 0 → both begins)) ∧
    (∀ id v, (s.invals.find? fun v => v.id == id) = some v → CurAlone s → v.tid = s.cur.tid → s.cur.wait = some (.stinv id) → s.cur.state = .running →
      (invalDone s v = false → exec (.stinvCompletion id) s = .next s) ∧
      (invalDone s v = true → ∃ t, exec (.stinvCompletion id) s = .next t ∧
        t = { s with
          invals := s.invals.filter (fun x => x.id ≠ id), tlb := t.tlb, ro := t.ro, cur := { s.cur with wait := some .released } } ∧
        (v.spans = [] → t.tlb = s.tlb ∧ t.ro = s.ro) ∧ (v.spans ≠ [] →
        (∀ e, e ∈ t.tlb ↔ e ∈ s.tlb ∧ ¬ (e.pid = v.pid ∧ inRange (e.vpn * 2 ^ (12 + 9 * e.level)) (2 ^ (12 + 9 * e.level)) v.lo v.hi = true)) ∧
        (∀ e, e ∈ t.ro ↔ e ∈ s.ro ∧ ¬ (e.pid = v.pid ∧ inRange (128 * e.line) 128 v.lo v.hi = true))))) ∧
    (guardOn s g = true → 1 ≤ s.cur.priv →
      (resumed s = true → GivesCurX (.kill d b g) s (fun t => { t with answer := [] }) d (BitVec.ofNat 64 (s.cur.answer.headD 0))) ∧
      (resumed s = false → 2 ^ 16 ≤ y.toNat → exec (.kill d b g) s = .next (trap s 0x01 (bundleNow s))) ∧
      (resumed s = false → y.toNat < 2 ^ 16 →
        (one = s.cur.pid → GivesX (.kill d b g) s d 2) ∧
        (one ≠ s.cur.pid → cstate s one = 0 → ¬ busy one → GivesX (.kill d b g) s d 1) ∧
        (one ≠ s.cur.pid → cstate s one ≠ 0 ∨ busy one → joins (.kill d b g) [one] ∧ starts (.kill d b g) [one] none))) ∧
    (guardOn s g = true → 2 ≤ s.cur.priv →
      let names := (upTo 256).map fun i => BitVec.ofNat 16 (y.toNat + i)
      (resumed s = true → GivesCurX (.killT d b g) s (fun t => { t with answer := [] }) d (BitVec.ofNat 64 (s.cur.answer.headD 0))) ∧
      (resumed s = false → 2 ^ 16 ≤ y.toNat ∨ y.toNat % 256 ≠ 0 → exec (.killT d b g) s = .next (trap s 0x01 (bundleNow s))) ∧
      (resumed s = false → y.toNat < 2 ^ 16 → y.toNat % 256 = 0 →
        (s.cur.pid ∈ names → GivesX (.killT d b g) s d 2) ∧
        (s.cur.pid ∉ names → (∀ p ∈ names, cstate s p = 0 ∧ ¬ busy p) → GivesX (.killT d b g) s d 1) ∧
        (s.cur.pid ∉ names → (∃ p ∈ names, cstate s p ≠ 0 ∨ busy p) → joins (.killT d b g) names ∧
          starts (.killT d b g) names (some (y.toNat / 256))))) ∧
    (∀ id r, (s.kills.find? fun r => r.id == id) = some r →
      let ended : Prop := threadsOf s r.pids = [] ∧ (∀ p ∈ r.pids, cstate s p ≠ 2) ∧ (∀ v ∈ s.invals, v.pid ∉ r.pids) ∧
        ∀ n, r.tenant = some n → ∀ st, st < 40 → revoked s st n = true
      (¬ ended → exec (.killCompletion id) s = .next s) ∧
      (ended → ∃ t, exec (.killCompletion id) s = .next t ∧ t.kills = s.kills.filter (fun x => x.id ≠ id) ∧
        ∀ p ∈ r.pids, (∀ x ∈ s.kills, x.id ≠ id → p ∉ x.pids) → cstate t p = 0)) ∧
    (∀ st, ∃ t, exec (.stationRevokeAck st pid) s = .next t ∧ revoked t st (2 ^ 16 + pid.toNat) = true ∧
      (∀ e ∈ t.tlb, e ∈ s.tlb ∧ ¬ (e.station = st ∧ e.pid = pid)) ∧
      (st < 40 → (∀ n, n < 40 → n ≠ st → revoked s n (2 ^ 16 + pid.toNat) = true) → cstate t pid = 3))

/-- (a) R341, R349, R375: GANG records a switch that its result 0 says is recorded, a WORLD under class 0 for RETURN, and changes nothing
but xd otherwise. (b) R341 to R349, R358, R375: a WORLD switch begins at its T_g unless it waits for class 0's RETURN, saves the context
once it has stopped, and its restore starts the slice; class 0 takes and gives back the cores' tables at its T_g; a slice's end records
the switch to the next valid entry, which a WORLD switch with a later T_g follows. The save area and the free values outside the extents
are log entries 3 and 64; log entries 65 to 69 are the model's readings, and the counter of a switch is log entry 98. -/
def Obligations.GangAndPartitionSwitches : Prop :=
  (∀ (s : State) (d b : BitVec 5) (g : BitVec 4), s.pool.wf = true → guardOn s g = true → 2 ≤ s.cur.priv → b.toNat ≤ 30 →
     let x := (rX s b).toNat
     let now := tsOf s s.cur.core
     let tg := (getX s (b.toNat + 1)).toNat
     let p := x % 64
     let kind := x / 2 ^ 8 % 4
     let ent := x / 2 ^ 16 % 16
     let q := s.part p
     let valid : Prop := x < 2 ^ 20 ∧ x / 2 ^ 10 % 64 = 0 ∧ x / 2 ^ 6 % 4 = 0 ∧ kind ≠ 3 ∧ partConfigured s p = true ∧
       (kind = 0 → qValid s p ent = true) ∧ (kind = 2 → q.class0On = true ∨ q.class0 ≠ none)
     let pending : Prop := (kind = 0 ∧ (q.world ≠ none ∨ q.next ≠ [])) ∨ (kind ≠ 0 ∧ q.class0 ≠ none) ∨ (kind = 1 ∧ q.class0On = true)
     let gives (n : W64) : Prop := GivesX (.gang d b g) s d n
     (¬ valid → gives 5) ∧ (valid → kind = 1 → c0slot s p = 0 → gives 4) ∧
     (valid → ¬ (kind = 1 ∧ c0slot s p = 0) →
       (tg < now + 2500 → gives 1) ∧
       (now + 2500 ≤ tg → kind = 1 → now + 4960 < tg → gives 2) ∧
       (now + 2500 ≤ tg → ¬ (kind = 1 ∧ now + 4960 < tg) → pending → gives 3) ∧
       (now + 2500 ≤ tg → ¬ (kind = 1 ∧ now + 4960 < tg) → ¬ pending → ∃ u t, XSet u t d.toNat 0 ∧ exec (.gang d b g) s = .next t ∧
         u = { s with parts := u.parts } ∧ (∀ k, k ≠ p → u.part k = s.part k) ∧
         (kind = 0 → u.part p = { q with world := some { ent := ent, tg := tg, lease := none, afterReturn := q.class0On || q.class0.isSome } }) ∧
         (kind ≠ 0 → u.part p = { q with class0 := some (kind == 2, tg) })))) ∧
  (∀ (s : State) (p : Nat),
     let q := s.part p
     (q.world = none → exec (.worldSwitch p) s = .next s ∧ exec (.worldRestore p) s = .next s) ∧
     (∀ g, q.world = some g →
       (q.worldPhase = 0 → (g.afterReturn = true ∨ s.ts < g.tg) → exec (.worldSwitch p) s = .next s) ∧
       (q.worldPhase = 0 → g.afterReturn = false → g.tg ≤ s.ts →
         ∃ t, exec (.worldSwitch p) s = .next t ∧ (t.part p).worldPhase = 1 ∧ (t.part p).sliceEnd = none ∧ (t.part p).world = some g ∧ t.ts = s.ts) ∧
       (q.worldPhase = 1 → worldStopped s p = false → exec (.worldSwitch p) s = .next s) ∧
       (q.worldPhase = 1 → worldStopped s p = true →
         ∃ t, exec (.worldSwitch p) s = .next t ∧ (t.part p).worldPhase = 2 ∧ (t.part p).holder = none ∧ .worldRestore p ∈ t.agenda) ∧
       (q.worldPhase ≠ 2 → exec (.worldRestore p) s = .next s) ∧
       (q.worldPhase = 2 →
         let tenant := match g.lease with
           | some l => l.1
           | none => qTen s p g.ent
         let cyc := match g.lease with
           | some l => l.2
           | none => qCyc s p g.ent
         ∃ t, exec (.worldRestore p) s = .next t ∧ (t.part p).world = q.next.head? ∧ (t.part p).next = q.next.tail ∧ (t.part p).worldPhase = 0 ∧ (t.part p).tenant = some tenant ∧
           (t.part p).holder = (s.saved.find? fun x => x.part == p && x.tenant == tenant).bind (·.pid) ∧
           (t.part p).sliceEnd = (if q.class0On then none else some (s.ts + cyc)))) ∧
     ((∀ tg, q.class0 ≠ some (false, tg) ∨ s.ts < tg) → exec (.class0Switch p) s = .next s) ∧
     (∀ tg, q.class0 = some (false, tg) → tg ≤ s.ts → ∃ t, exec (.class0Switch p) s = .next t ∧ t = { s with parts := t.parts, cores := t.cores } ∧
       (t.part p).class0On = true ∧ (t.part p).class0 = none ∧ (t.part p).sliceEnd = none ∧ ∀ c ∈ coresOf s p, (t.core c).table = c0tbl s p) ∧
     ((∀ tg, q.class0 ≠ some (true, tg) ∨ s.ts < tg) → exec (.returnSwitch p) s = .next s) ∧
     (∀ tg, q.class0 = some (true, tg) → tg ≤ s.ts → ∃ t, exec (.returnSwitch p) s = .next t ∧
       t = { s with parts := t.parts, cores := t.cores, agenda := t.agenda } ∧ (t.part p).class0On = false ∧ (t.part p).class0 = none ∧
       (q.tenant ≠ none → q.worldPhase = 0 → (t.part p).sliceEnd = some (s.ts + q.sliceLeft)) ∧
       (∀ g, q.world = some g → (t.part p).world = some (if g.afterReturn then { g with tg := tg, afterReturn := false } else g)) ∧
       ∀ c ∈ coresOf s p, (t.core c).table = (s.core c).tenantTable.getD (s.core c).table ∧ (t.core c).tenantTable = none) ∧
     (let first (e : Nat) : Prop := q.worldPhase = 0 ∧ ∀ g, q.world = some g → g.afterReturn = true ∨ e < g.tg
      ((q.sliceEnd = none ∨ nextEntry s p q.entry = none) → exec (.quantumSliceEnd p) s = .next s) ∧
      ∀ e n, q.sliceEnd = some e → nextEntry s p q.entry = some n →
       (s.ts < e ∨ ¬ first e → exec (.quantumSliceEnd p) s = .next s) ∧
       (e ≤ s.ts → first e → ∃ t, exec (.quantumSliceEnd p) s = .next t ∧ .worldSwitch p ∈ t.agenda ∧
         t.part p = { q with
           world := some { ent := n, tg := e, lease := none, afterReturn := false }, next := q.world.toList ++ q.next, sliceEnd := none })) ∧
     (CurAlone s →
       let stops : Prop := s.cur.state = .running ∧ (s.part s.cur.part).worldPhase = 1 ∧ worldThread s s.cur.part s.cur = true ∧ midBundle s.cur = false
       (¬ stops → exec (.preemptTurnLimit s.cur.tid) s = .next s) ∧
       (stops → ∃ t, exec (.preemptTurnLimit s.cur.tid) s = .next t ∧ t.cur.state = (if s.cur.stopNext then .stopped else .preempted) ∧ t.cur.lmask = 0xFFFFFFFF ∧ t.cur.pc = s.cur.pc)))

/-! ### The fault service, switches, the debug port and the device (R331 to R359, R391 to R416) -/

/-- R333, R351, R352, R374, R412: a notification starts a thread of the context's fault service, or of its debugger for a stop that is the
debugger's, on the control core that the service block names, with x1 to x4; without a debugger that stop tells nobody, and without a
fault service a fault ends the context as KILL does; on a halted package no service starts. The identifier of the service thread is log
entry 50, the model's reading. -/
def Obligations.NotificationsStartServices : Prop :=
  ∀ (s : State) (pid : BitVec 16) (x1 x2 x3 x4 : W64),
    let q (o : Nat) : Nat := sysQ s (svcAt pid + o)
    let code := x2.toNat % 256
    let i : Instr := .faultNotification pid x1 x2 x3 x4
    let debugger : Prop := (pid, x1, x2) ∈ s.debugNotices
    let heard (u : State) : Prop := u = { s with debugNotices := s.debugNotices.erase (pid, x1, x2) }
    let starts (pc : Nat) : Prop := bootst s < 0xE0 → ∃ t, exec i s = .next t ∧
      HasControl s t pid (4096 + q 8 % 32) (BitVec.ofNat 64 pc) [x1, x2, x3, x4]
    (debugger → q 0x10 ≠ 0 → starts (q 0x10)) ∧ (debugger → q 0x10 = 0 ∨ 0xE0 ≤ bootst s → ∃ t, exec i s = .next t ∧ heard t) ∧
    (¬ debugger → q 0 ≠ 0 → starts (q 0) ∧ (0xE0 ≤ bootst s → exec i s = .next s)) ∧
    (¬ debugger → q 0 = 0 → code = 0 → exec i s = .next s) ∧
    (¬ debugger → q 0 = 0 → code ≠ 0 → ((∃ k ∈ s.kills, pid ∈ k.pids) → exec i s = .next s) ∧
      ((∀ k ∈ s.kills, pid ∉ k.pids) → ∃ t k, exec i s = .next t ∧ t.kills = s.kills ++ [k] ∧ k.pids = [pid] ∧ k.id = s.nextId ∧
        t = { s with sys := t.sys, kills := t.kills, nextId := s.nextId + 1 } ∧ (s.sys.wf = true → cstate t pid = 2)))

/-- (a) R333, R334, R336, R354: each action of CCGO puts its result into CCGO: 2 for no such continuation, 1 for one not stopped, 0 where
it acts: RESUME readies the thread, TRAP makes it take a trap first, RETIRE ends it, STOP puts it into STATE 7 and notifies the debugger
of a thread that was not there, CRESUME lets its copy read on, and CEND ends the copy. (b) R336: a thread in its slot between bundles with
INTRAP clear takes its oldest held ASYNC, with TPC the bundle not yet issued; a thread that may not take it goes on. Log entries 28, 49
and 104 are the model's readings and choices that its clauses follow. -/
def Obligations.FaultServiceActions : Prop :=
  (∀ (s : State) (pid : BitVec 16) (rec : W64) (cause : BitVec 8) (seq : W32), s.sys.wf = true →
     let res (t : State) (n : Nat) : Prop := t.sys.readNat 0x100800000 8 = n
     let only (i : Instr) (n : Nat) : Prop := ∃ t, exec i s = .next t ∧ res t n ∧ t = { s with sys := t.sys }
     let acts : List Instr := [.ccgoResume pid rec, .ccgoTrap pid rec cause, .ccgoRetire pid rec, .ccgoStop pid rec]
     let page : Prop := cause = 0x05 ∨ cause = 0x08
     let found := s.threadOfRecord? pid rec
     (found = none → (∀ i ∈ acts, only i 2) ∧ only (.ccgoCresume pid rec seq) 2 ∧ (page → only (.ccgoCend pid rec seq cause) 2)) ∧
     (¬ page → only (.ccgoCend pid rec seq cause) 3) ∧
     (∀ v, found = some v → OtherThread s v →
       (v.state ≠ .fault → v.state ≠ .stopped → ∀ i ∈ acts, only i 1) ∧
       (v.state = .fault ∨ v.state = .stopped →
         (v.stopNext = false → v.handler = none →
           (∃ t x, exec (.ccgoResume pid rec) s = .next t ∧ res t 0 ∧ t.thread? v.tid = some x ∧ x.state = .ready) ∧
           (∃ t x, exec (.ccgoTrap pid rec cause) s = .next t ∧ res t 0 ∧ t.thread? v.tid = some x ∧ x.state = .ready ∧
             x.trapNext = some (cause.toNat, v.lastFault))) ∧
         (Machine.drained s v = true → ∃ t, exec (.ccgoRetire pid rec) s = .next t ∧ res t 0 ∧ t.thread? v.tid = none) ∧
         (Machine.drained s v = false → ∃ t x, exec (.ccgoRetire pid rec) s = .next t ∧ res t 0 ∧ t.thread? v.tid = some x ∧
           x.state = .stopped ∧ x.retireNext = true) ∧
         (∃ t x, exec (.ccgoStop pid rec) s = .next t ∧ res t 0 ∧ t.thread? v.tid = some x ∧ x.state = .stopped ∧
           (v.state = .fault →
             .faultNotification v.pid v.recd (stopWord 0 15 0 v.core v.slot) 0 0 ∈ t.agenda ∧
             (v.pid, v.recd, stopWord 0 15 0 v.core v.slot) ∈ t.debugNotices) ∧
           (v.state = .stopped → t.agenda = s.agenda ∧ t.debugNotices = s.debugNotices))) ∧
       (stoppedCopy s v seq.toNat = none → stoppedSum s v seq.toNat = none →
         only (.ccgoCresume pid rec seq) 1 ∧ (page → only (.ccgoCend pid rec seq cause) 1)) ∧
       (∀ c, stoppedCopy s v seq.toNat = some c → s.copy? c.id = some c →
         (∃ t, exec (.ccgoCresume pid rec seq) s = .next t ∧ res t 0 ∧ t.copy? c.id = some { c with stopped := none, faddr := 0 } ∧ .copy c.core ∈ t.agenda) ∧
         (page → c.packets = [] → ∃ t x, exec (.ccgoCend pid rec seq cause) s = .next t ∧ res t 0 ∧ t.copy? c.id = none ∧
           t.thread? v.tid = some x ∧ x.heldAsync = v.heldAsync ++ [BitVec.ofNat 64 c.cmd.seq])))) ∧
  (∀ (s : State), CurAlone s →
     (asyncDue s s.cur = false → exec (.async s.cur.tid) s = .next s) ∧
     (∀ v rest, asyncDue s s.cur = true → s.cur.heldAsync = v :: rest → s.cur.img = none → CanTrap s →
       ∃ t, exec (.async s.cur.tid) s = .next t ∧ TrapFields s t 0x0A v ∧ t.cur.pc = BitVec.ofNat 64 (s.pool.readNat (wsKey s.cur + 0x1D8) 8) ∧
         t.cur.priv = 1 ∧ t.cur.heldAsync = rest ∧ t.cur.state = .running))

/-- R352, R354, R355: a debug command without a debugger answers 4, one that names no thread 1, one that needs a stopped thread 1 for any
other, and a count of 0 answers 4; HALT and STOP stop threads, GO and STEP let a stopped thread go on, RSTEP undoes a bundle: it restores
the logged old value of a register, and stops at an irreversible bundle (2), at a log without a marker (3) and, with N = 0xFFFF, at the
latest MARK; the rest act on the log. The answer 4 to a misused command, the details of the log and reserved bits are log entries 28, 29
and 104, the model's. -/
def Obligations.DebugCommands : Prop :=
  ∀ (s : State) (core slot n : Nat) (pid : BitVec 16), CurAlone s →
    let attached : Prop := sysQ s (svcAt pid + 0x10) ≠ 0
    let answers (i : Instr) (v : Nat) : Prop := ∃ t, exec i s = .next t ∧ (t.core core).dstat = v ∧ t = { s with cores := t.cores } ∧
      ∀ c, c ≠ core → t.core c = s.core c
    let anyOf : List Instr := [.dcmdStop core slot pid, .dcmdDlogOn core slot pid, .dcmdDlogOff core slot pid, .dcmdMark core slot pid, .dcmdTrim core slot pid]
    let stoppedOf : List Instr := [.dcmdStep core slot pid n, .dcmdRstep core slot pid n, .dcmdGo core slot pid]
    let s0 := s.modCore core fun c => { c with dstat := 0 }
    let t0 := debugThread s core slot pid
    (¬ attached → answers (.dcmdHalt core pid) 4 ∧ (∀ i ∈ anyOf, answers i 4) ∧ ∀ i ∈ stoppedOf, answers i 4) ∧
    (attached → t0 = none → (∀ i ∈ anyOf, answers i 1) ∧ ∀ i ∈ stoppedOf, answers i 1) ∧
    (attached → (∀ t ∈ s.allThreads, t.pid ≠ pid ∨ (t.place ≠ .fifo core ∧ t.place ≠ .pinned core ∧ (t.core ≠ core ∨ t.img ≠ none))) →
      answers (.dcmdHalt core pid) 0) ∧
    (attached → (s.allThreads.filter fun t => t.pid == pid && (t.place == .fifo core || t.place == .pinned core || (t.core == core && t.img.isNone))) = [s.cur] →
      s.cur.state = .running → midBundle s.cur = false → ∃ t, exec (.dcmdHalt core pid) s = .next t ∧ t.cur.state = .stopped ∧ t.cur.pc = s.cur.pc ∧
        .faultNotification pid s.cur.recd (stopWord 0 15 0 s.cur.core s.cur.slot) 0 0 ∈ t.agenda) ∧
    (∀ v, attached → t0 = some v → v.state ≠ .stopped → ∀ i ∈ stoppedOf, answers i 1) ∧
    (∀ v, attached → t0 = some v → v.state = .stopped → n = 0 → answers (.dcmdStep core slot pid n) 4 ∧ answers (.dcmdRstep core slot pid n) 4) ∧
    (attached → t0 = some s.cur → s.cur.state = .running → midBundle s.cur = false →
      ∃ t, exec (.dcmdStop core slot pid) s = .next t ∧ t.cur.state = .stopped ∧ t.cur.pc = s.cur.pc ∧
        .faultNotification s.cur.pid s.cur.recd (stopWord 0 15 0 s.cur.core s.cur.slot) 0 0 ∈ t.agenda) ∧
    (attached → t0 = some s.cur → s.cur.state = .stopped →
      (s.cur.handler = none → s.cur.home = true →
        (∃ t, exec (.dcmdGo core slot pid) s = .next t ∧ t.cur.state = .ready ∧ t.cur.place = .pinned s.cur.core ∧ t.cur.pc = s.cur.pc) ∧
        (n ≠ 0 → ∃ t, exec (.dcmdStep core slot pid n) s = .next t ∧ t.cur.stepsLeft = some n ∧ (t.cur.state = .running ∨ t.cur.state = .ready))) ∧
      (s.cur.img = none → s.pool.readNat (wsKey s.cur + 0x1B0) 4 = 0 → n ≠ 0 →
        ∃ t, exec (.dcmdRstep core slot pid n) s = .next t ∧ (t.core core).dstat = 3 ∧ t.cur = s.cur) ∧
      (∀ link, s.cur.img = none → link = s.pool.readNat (wsKey s.cur + 0x1B0) 4 → link ≠ 0 → entrySz s0 s.cur.pid (linkOff link) = 5 →
        let pc := logNat s0 s.cur.pid (linkOff link + 16) 8
        (bundleStays s0 s.cur pc = false → ∃ t, exec (.dcmdRstep core slot pid 1) s = .next t ∧ (t.core core).dstat = 0 ∧
          t.cur.pc = BitVec.ofNat 64 pc ∧ t.cur.state = .stopped) ∧
        (bundleStays s0 s.cur pc = true → n ≠ 0 → ∃ t, exec (.dcmdRstep core slot pid n) s = .next t ∧ (t.core core).dstat = 2 ∧ t.cur = s.cur)) ∧
      (∀ link, s.cur.img = none → link = s.pool.readNat (wsKey s.cur + 0x1B0) 4 → link ≠ 0 → isMark s0 s.cur.pid (linkOff link) = true →
        ∃ t, exec (.dcmdRstep core slot pid 0xFFFF) s = .next t ∧ (t.core core).dstat = 0 ∧ t.cur = s.cur ∧ t.pool = s.pool) ∧
      (∀ link, s.cur.img = none → s.pool.wf = true → link = s.pool.readNat (wsKey s.cur + 0x1B0) 4 → link ≠ 0 →
        16 ≤ sysQ s (descAt s.cur.pid + 0x10) →
        let head := logNat s0 s.cur.pid (linkOff link) 8
        let size := head / 2 ^ 57 % 8
        let place := poolKey s.cur.core (head % 2 ^ 57)
        let old := readLoc s0 (.log s.cur.pid (linkOff link + 16)) (if size = 4 then 64 else 2 ^ size)
        let marker := prevLink s0 s.cur.pid (linkOff link)
        head / 2 ^ 60 % 16 = 2 → size ≤ 4 → marker ≠ 0 → entrySz s0 s.cur.pid (linkOff marker) = 5 →
        let pc := logNat s0 s.cur.pid (linkOff marker + 16) 8
        let u : State := { s0 with pool := s0.pool.writeBytes place old, poolPoison := unpoison s0.poolPoison place old.length }
        bundleStays u s.cur pc = false → PoolSet s0 u place old ∧ ∃ v t, PoolSet u v (wsKey s.cur + 0x1B0) (leBytes 4 (prevLink s0 s.cur.pid (linkOff marker))) ∧
          exec (.dcmdRstep core slot pid 1) s = .next t ∧ t.pool = v.pool ∧ (t.core core).dstat = 0 ∧
          t.cur = { s.cur with pc := BitVec.ofNat 64 pc, npc := BitVec.ofNat 64 pc })) ∧
    (attached → s.pool.wf = true → t0 = some s.cur → s.cur.img = none →
      let key := wsKey s.cur + 0x190
      (∃ t, exec (.dcmdDlogOn core slot pid) s = .next t ∧ PoolSet s0 t key (leBytes 1 (setBits (s.pool.readNat key 1) 1 1 1))) ∧
      (∃ t, exec (.dcmdDlogOff core slot pid) s = .next t ∧ PoolSet s0 t key (leBytes 1 (setBits (s.pool.readNat key 1) 1 1 0)))) ∧
    (attached → t0 = some s.cur →
      (∀ t offs, appendPolicy s.cur.tid core s.cur.pid (fun _ => [{ path := 0xE, sz := 6, addr := 0, win := 0, data := leBytes 8 0, val := 0 }])
        (openCount s0 s.cur.pid) s0 = .ok t offs → exec (.dcmdMark core slot pid) s = .next t) ∧
      ∃ t, exec (.dcmdTrim core slot pid) s = .next t ∧ t = { s0 with logBlocks := t.logBlocks, accesses := t.accesses } ∧
        (∀ a ∈ t.accesses, a.tid = s.cur.tid → ∀ r ∈ a.logs, r.win ≠ 0) ∧ ∀ b ∈ t.logBlocks, b.pid = s.cur.pid → (s.cur.tid, 0) ∉ b.owners)

/-- (a) R391, R395, R399, R400, R402: a flit error counts its resends and after 8 poisons the flit of the access or the packet that it
carries, or of the engine's next read; 16 replays retrain the link; a link that is retrained works again, or goes down, which is counted
and, for a hem edge, takes its dies' blocks down; an error of a memory is counted, and where it cannot be corrected poisons its 8 bytes; a
failed router or station takes its die's blocks down. (b) R201, R209, R334, R352, R395, R407, R414: a store to the system map below its
level changes nothing; control-die memory takes its bytes; ROOT of a free context makes its CSTATE 1 and its count of cycles 0 (R372),
PCAP and FLOOR are taken in their ranges, CCARG holds its value, and a store to TADM, to CCGO or to a core's DCMD begins the step that it
names; an ACT or OP that names none is refused: CCGO then reads 3 and DSTAT 4. The outcome of a retraining is free (log entry 34), the die
of a count is log entry 33, partial stores log entry 37, reserved bits log entry 104, when an error strikes log entry 106 and the bytes of
one flit log entry 130, all the model's. -/
def Obligations.LinksAndRegisters : Prop :=
  (∀ (s : State) (die n : Nat) (l : Link), s.sys.wf = true → die < 4 →
     let field (d off : Nat) : Nat := 0x104014000 + 0x100 * d + off
     let up (t : State) (a k : Nat) : Prop := sysQ t a = Nat.min (sysQ s a + k) (2 ^ 64 - 1)
     let die' : Nat := match l with
       | .hem 1 => 2
       | .hem 3 => 1
       | .hem _ => 0
       | .stitch p => p / 4 % 4
     (∃ t, exec (.flitCrcError die n none) s = .next t ∧ up t (field die 0x30) (Nat.min n 8) ∧ (8 ≤ n → up t (field die 0x38) 1) ∧
       t = { s with sys := t.sys, upsets := if 8 ≤ n then .flit :: s.upsets else s.upsets }) ∧
     (∀ id a, 8 ≤ n → (s.accesses.find? fun x => x.id == id) = some a → (∀ x ∈ s.accesses, x.id = id → x = a) →
       ∃ t b, exec (.flitCrcError die n (some id)) s = .next t ∧ b ∈ t.accesses ∧ b.id = id ∧
         (a.op ≠ .store → b = { a with poison := true }) ∧
         (a.op = .store → a.pieces ≠ [] → ∃ p ∈ a.pieces, b = { a with
           pieces := a.pieces.map fun q => if sameFlit p.loc q.loc = true then { q with bad := true } else q })) ∧
     (∀ id r k rest, 8 ≤ n → (s.accesses.find? fun x => x.id == id) = none → s.copy? id = some r → r.packets = k :: rest → k.parts ≠ [] →
       ∃ t q j, exec (.flitCrcError die n (some id)) s = .next t ∧ t.copy? id = some q ∧ j ∈ q.packets ∧ j.num = k.num ∧ j.parts = k.parts ∧ j.bad ≠ []) ∧
     (∃ t, exec (.linkReplay l n) s = .next t ∧ up t (field die' 0x40) (Nat.min n 16) ∧
       t = { s with sys := t.sys, agenda := if 16 ≤ n then s.agenda ++ [.linkRetrain l] else s.agenda }) ∧
     (l ∈ s.linksWait ∨ l ∈ s.linksDown → exec (.linkRetrain l) s = .next s) ∧
     (l ∉ s.linksWait → l ∉ s.linksDown → ∃ t, exec (.linkRetrain l) s = .next t ∧ t.linksWait = l :: s.linksWait ∧
       (t.agenda = s.agenda ++ [.linkRetrained l] ∨ t.agenda = s.agenda ++ [.linkDown l])) ∧
     (∃ t, exec (.linkRetrained l) s = .next t ∧ t = { s with linksWait := t.linksWait } ∧ ∀ x, x ∈ t.linksWait ↔ x ∈ s.linksWait ∧ x ≠ l) ∧
     (∀ place at' fixed rest, s.upsets = .memory place at' fixed :: rest → place ≤ 2 → (place ≠ 0 → isRemote at' = false) → memoryDie place at' < 5 →
       let t := upsetStep s
       up t (field (memoryDie place at') (0x10 * place + if fixed then 0 else 8)) 1 ∧
       (fixed = true → t = { s with sys := t.sys, upsets := rest }) ∧
       (fixed = false → poisonedLoc t (if place = 0 then .pool at' else .mem at') 1 = true)) ∧
     (∀ d i rest, s.upsets = .unit d :: rest → d < 4 → i < 16 → sysQ (upsetStep s) (0x104011000 + 8 * (16 * d + i)) / 2 ^ 6 % 2 = 1) ∧
     (l ∈ s.linksDown → exec (.linkDown l) s = .next s) ∧
     (l ∉ s.linksDown → s.accesses = [] → ∃ t, exec (.linkDown l) s = .next t ∧ t.linksDown = l :: s.linksDown ∧ up t (field die' 0x48) 1 ∧
       ∀ e i, l = .hem e → i < 16 → ∀ d ∈ hemDies e, sysQ t (0x104011000 + 8 * (16 * d + i)) / 2 ^ 6 % 2 = 1)) ∧
  (∀ (s : State) (a level : Nat) (l : List Byte) (pid : BitVec 16), s.sys.wf = true →
     let store (a : Nat) (v : W64) : Instr := .registerWrite a (leBytes 8 v.toNat) level
     let power := 0x104016000
     (level < storeLevel a l.length (leNat l) → exec (.registerWrite a l level) s = .next s) ∧
     (storeLevel a l.length (leNat l) ≤ level → a + l.length ≤ 0x4000000 → 1 ≤ l.length → ∃ t, exec (.registerWrite a l level) s = .next t ∧
       t.sys.readBytes a l.length = l ∧ (∀ x, x < a ∨ a + l.length ≤ x → t.sys.read x = s.sys.read x) ∧ t = { s with sys := t.sys }) ∧
     (∀ v : W64, storeLevel (descAt pid) 8 v.toNat ≤ level → v ≠ 0 → cstate s pid = 0 → ∃ t, exec (store (descAt pid) v) s = .next t ∧
       sysQ t (descAt pid) = v.toNat ∧ cstate t pid = 1 ∧
       t = { s with sys := t.sys, vcyc := s.vcyc.filter fun c => c.1 ≠ pid }) ∧
     (∀ v : W64, storeLevel power 8 v.toNat ≤ level → ∃ t, exec (store power v) s = .next t ∧ t = { s with sys := t.sys } ∧
       sysQ t power / 2 ^ 40 % 2 ^ 12 = v.toNat / 2 ^ 40 % 2 ^ 12 ∧
       sysQ t power / 2 ^ 28 % 2 ^ 6 = (if 16 ≤ v.toNat / 2 ^ 28 % 2 ^ 6 ∧ v.toNat / 2 ^ 28 % 2 ^ 6 ≤ 32 then v.toNat / 2 ^ 28 % 2 ^ 6
         else sysQ s power / 2 ^ 28 % 2 ^ 6)) ∧
     (∀ v : W64, storeLevel 0x104012000 8 v.toNat ≤ level →
       exec (store 0x104012000 v) s = .next { s with agenda := s.agenda ++ [.tadm v] }) ∧
     (∀ v : W64, storeLevel 0x100800008 8 v.toNat ≤ level → ∃ t, exec (store 0x100800008 v) s = .next t ∧ sysQ t 0x100800008 = v.toNat ∧
       t = { s with sys := t.sys }) ∧
     (∀ v : W64, storeLevel 0x100800000 8 v.toNat ≤ level →
       let arg := sysQ s 0x100800008
       let rec' : W64 := BitVec.ofNat 64 (v.toNat % 2 ^ 57)
       let ctx : BitVec 16 := BitVec.ofNat 16 (arg / 2 ^ 16)
       let cause : BitVec 8 := BitVec.ofNat 8 (arg / 2 ^ 8)
       let seq : W32 := BitVec.ofNat 32 (arg / 2 ^ 32)
       let acts : List (Nat × Event) := [(0, .ccgoResume ctx rec'), (1, .ccgoTrap ctx rec' cause), (2, .ccgoRetire ctx rec'),
         (3, .ccgoStop ctx rec'), (4, .ccgoCresume ctx rec' seq), (5, .ccgoCend ctx rec' seq cause)]
       (∀ p ∈ acts, arg % 16 = p.1 → exec (store 0x100800000 v) s = .next { s with agenda := s.agenda ++ [p.2] }) ∧
       (5 < arg % 16 → ∃ t, exec (store 0x100800000 v) s = .next t ∧ sysQ t 0x100800000 = 3 ∧ t = { s with sys := t.sys })) ∧
     (∀ (core : Nat) (v : W64), core < 0x1000 → storeLevel (0x101000000 + 0x40 * core) 8 v.toNat ≤ level →
       let slot := v.toNat / 2 ^ 24 % 16
       let n := v.toNat / 2 ^ 32 % 2 ^ 16
       let ctx : BitVec 16 := BitVec.ofNat 16 (v.toNat / 2 ^ 48)
       let ops : List (Nat × Event) := [(0, .dcmdHalt core ctx), (1, .dcmdStop core slot ctx), (2, .dcmdStep core slot ctx n),
         (3, .dcmdRstep core slot ctx n), (4, .dcmdGo core slot ctx), (5, .dcmdDlogOn core slot ctx), (6, .dcmdDlogOff core slot ctx),
         (7, .dcmdMark core slot ctx), (8, .dcmdTrim core slot ctx)]
       (∀ p ∈ ops, v.toNat % 16 = p.1 → exec (store (0x101000000 + 0x40 * core) v) s = .next { s with agenda := s.agenda ++ [p.2] }) ∧
       (8 < v.toNat % 16 → ∃ t, exec (store (0x101000000 + 0x40 * core) v) s = .next t ∧ (t.core core).dstat = 4 ∧ t = { s with cores := t.cores })))

/-- R209, R210, R334, R352, R395 to R397, R402 to R404, R407 to R415: reset and the boot ROM, the attestation registers, tenant admission,
the power controller, requests, which set A and D of the leaves they use, and interrupts from the ports, once these are up, and the steps
of the bring-up. Log entries 7, 31, 32, 35, 36 and 111 name the free values and the model's choices in it; SHA3-512 is the standard's
function (log entry 7, PRESUMED). -/
def Obligations.DeviceSteps : Prop :=
  ∀ (s : State) (rid pasid : BitVec 16) (va v : W64) (wr : Option (List Byte)) (len vec port watts : Nat) (data : W32), s.sys.wf = true → s.hbm.wf = true →
    let att := 0x104020000
    let mr (t : State) (i : Nat) : List Byte := t.sys.readBytes (att + 0x40 * i) 64
    let boot := sysQ s (att + 0x4C8)
    let up : Prop := 0x30 ≤ boot ∧ boot < 0xE0
    let w := sysQ s 0x104016000
    let cap := Nat.min (w / 2 ^ 40 % 2 ^ 12) 2400
    let floor := w / 2 ^ 28 % 2 ^ 6
    let now := w / 2 ^ 16 % 2 ^ 6
    let step (t : State) : Nat := sysQ t 0x104016000 / 2 ^ 16 % 2 ^ 6
    let tenant := sysQ s 0x104012008 + 8 * v.toNat
    let cached (pid : BitVec 16) (e lvl pa : Nat) (dirty : Bool) : State := cacheLeaf s (Thread.make 0 4096 0 0 pid) va.toNat e lvl pa dirty
    (∃ t, exec .reset s = .next t ∧ t.hbm = s.hbm ∧ t.ts = 0 ∧ t.skew = s.skew ∧ t.threads = [] ∧ t.cores = [] ∧ t.cur.core = 4096 ∧ t.cur.priv = 3 ∧
      (imageAccepted (resetPackage s) 0 = false → imageAccepted (resetPackage s) 1 = false → t.cur.state = .free) ∧
      (imageAccepted (resetPackage s) 0 = true → t.cur.pc = BitVec.ofNat 64 (sysQ s 0x300000018) ∧ t.cur.state = .running)) ∧
    (16 ≤ v.toNat → exec (.exti v) s = .next s) ∧
    (v.toNat < 16 → ∃ t, exec (.exti v) s = .next t ∧ mr t v.toNat = sha3 (mr s v.toNat ++ s.sys.readBytes (att + 0x400) 64) ∧
      t = { s with sys := t.sys } ∧ ∀ i, i < 16 → i ≠ v.toNat → mr t i = mr s i) ∧
    (sysQ s (att + 0x4C0) = 1 → exec .qgo s = .next s) ∧
    (sysQ s (att + 0x4C0) ≠ 1 → exec .quoteComplete s = .next s ∧
      ∃ t, exec .qgo s = .next t ∧ sysQ t (att + 0x4C0) = 1 ∧ t.quote = quoteOf s ∧ .quoteComplete ∈ t.agenda) ∧
    (sysQ s (att + 0x4C0) = 1 → ∃ t, exec .quoteComplete s = .next t ∧ sysQ t (att + 0x4C0) = 0 ∧ t.quote = [] ∧
      (s.quote.length = 0x2000 → t.sys.readBytes (att + 0x1000) 0x2000 = s.quote)) ∧
    (sysQ s (att + 0x4D0) % 256 < v.toNat → v.toNat ≤ 255 → v.toNat ≤ s.imageVer →
      ∃ t, exec (.fvadv v) s = .next t ∧ sysQ t (att + 0x4D0) = v.toNat ∧ t = { s with sys := t.sys }) ∧
    (v.toNat ≤ sysQ s (att + 0x4D0) % 256 ∨ 255 < v.toNat ∨ s.imageVer < v.toNat → exec (.fvadv v) s = .next s) ∧
    (64 ≤ v.toNat → exec (.tadm v) s = .next s) ∧
    (v.toNat < 64 → ∃ t, exec (.tadm v) s = .next t ∧ t.hbm.readNat tenant 4 = 1 ∧ t.hbm.readNat (tenant + 4) 4 = s.hbm.readNat (tenant + 4) 4 ∧
      ∀ r ∈ t.revokedAt, r.2 ≠ v.toNat) ∧
    (cap < watts → floor < now → ∃ t, exec (.powerWindow watts) s = .next t ∧ step t = now - 1) ∧
    (¬ (cap < watts ∧ floor < now) → watts * 100 < cap * 95 → now < 32 → ∃ t, exec (.powerWindow watts) s = .next t ∧ step t = now + 1) ∧
    (cap < watts → now ≤ floor → ∃ t, exec (.powerWindow watts) s = .next t ∧ step t = now ∧ sysQ t 0x104016000 / 2 % 2 = 1) ∧
    (watts ≤ cap → ¬ (watts * 100 < cap * 95 ∧ now < 32) → exec (.powerWindow watts) s = .next s) ∧
    (∃ t, exec .currentLimit s = .next t ∧ (2 ≤ now → 1 ≤ step t ∧ step t < now) ∧ sysQ t 0x104016000 / 4 % 2 = 1) ∧
    (¬ up → exec (.inboundRequest rid pasid va wr len) s = .next s ∧ exec (.msi vec data) s = .next s ∧ exec (.surpriseDown port) s = .next s ∧
      exec (.aerError port v) s = .next s) ∧
    (∀ b id rest, s.upsets = .boot b id :: rest →
      (b ∈ bootNext boot → sysQ (upsetStep s) (att + 0x4C8) = b ∧ (upsetStep s).pkgId = (if b = 0x20 then id % 64 else s.pkgId) ∧
        (b = 0xE1 → (upsetStep s).threads = [] ∧ (upsetStep s).cur.state = .free ∧ (upsetStep s).agenda = [])) ∧
      (b ∉ bootNext boot → upsetStep s = { s with upsets := rest })) ∧
    (inboundPid s rid pasid = none → exec (.inboundRequest rid pasid va wr len) s = .next s) ∧
    (∀ pid l e lvl pa, up → inboundPid s rid pasid = some pid → wr = some l → l ≠ [] → va.toNat % 4096 + l.length ≤ 4096 → va.toNat + l.length ≤ 2 ^ 57 →
      walk s pid va.toNat = .leaf e lvl pa → bitAt e 10 = true → revoked s (stationOf 4 va.toNat) (bits e 56 8) = false →
      let u := cached pid e lvl pa true
      u.hbm.readNat pa 8 / 2 ^ 5 % 4 = 3 ∧ ∃ t, exec (.inboundRequest rid pasid va wr len) s = .next t ∧ HbmSet u t (leafAddr s e lvl va.toNat) l) ∧
    (∀ pid e lvl pa, up → inboundPid s rid pasid = some pid → wr = none → 0 < len → va.toNat % 4096 + len ≤ 4096 → va.toNat + len ≤ 2 ^ 57 →
      walk s pid va.toNat = .leaf e lvl pa →
      (cached pid e lvl pa false).hbm.readNat pa 8 / 2 ^ 5 % 2 = 1 ∧
        exec (.inboundRequest rid pasid va wr len) s = .next (let u := cached pid e lvl pa false
          if revoked u (stationOf 4 va.toNat) (bits e 56 8) then errCount u 4 0x58 else u)) ∧
    (∀ pid, up → inboundPid s rid pasid = some pid → wr = none → 2 ^ 57 < va.toNat + len →
      exec (.inboundRequest rid pasid va wr len) s = .next { s with
        agenda := s.agenda ++ [.faultNotification pid 0 (stopWord 0x05 0 0 0 0) va 0] }) ∧
    (let m (i : Nat) : W64 := Config.interruptEntry (s.sys.readBytes 0x104200000 4096) vec data i
     up → ∃ t, exec (.msi vec data) s = .next t ∧ HasControl s t ((m 1).setWidth 16) (4096 + (m 0).toNat % 32) (m 2) [m 3, m 4, m 5, m 6]) ∧
    (let pc := sysQ s (svcAt 0)
     let core := 4096 + sysQ s (svcAt 0 + 8) % 32
     let words (kind : Nat) (code : W64) : List W64 := [0, 1, 2, 3].map fun i => Config.deviceMessage kind port code i
     (pc = 0 → exec (.surpriseDown port) s = .next s ∧ exec (.aerError port v) s = .next s) ∧
     (pc ≠ 0 → up → (∃ t, exec (.surpriseDown port) s = .next t ∧ HasControl s t 0 core (BitVec.ofNat 64 pc) (words 0 0)) ∧
       ∃ t, exec (.aerError port v) s = .next t ∧ HasControl s t 0 core (BitVec.ofNat 64 pc) (words 1 v)))

/-! ### The machine as a whole: reset, steps, encodings and invariants -/

/-- R122, R409, R410, R414: after reset every core's table holds the rr template, only control core 0 has a thread, at firmware level, the
boot ROM's step is pending, the measurement registers read zero, and PCAP is 2400, FLOOR 16 and NOW 32. The registers without a reset
value are log entries 9 and 13, the model's choice, and the statement names none of them; that control core 0 is number 4096 in the state
is log entry 12. -/
def Obligations.ResetState : Prop :=
  let s := State.reset
  (∀ c i, i < 32 → (s.core c).table.toNat / 2 ^ (4 * i) % 16 = i % 16) ∧ s.threads = [] ∧ s.cur.core = 4096 ∧ s.cur.priv = 3 ∧
    s.agenda = [.reset] ∧ (∀ i, i < 1024 → s.sys.read (0x104020000 + i) = 0) ∧
    sysQ s 0x104016000 / 2 ^ 40 % 2 ^ 12 = 2400 ∧ sysQ s 0x104016000 / 2 ^ 28 % 2 ^ 6 = 16 ∧ sysQ s 0x104016000 / 2 ^ 16 % 2 ^ 6 = 32

/-- (a) R14, R17, R20, R48, R49, R61, R122, R123, R391: a core's turn whose slot holds a thread fetches the 8 bytes at its pc, unless they
are poisoned or behind a link that retrains or is down; a bundle that is ready runs its first word and then its second word, which reads
the registers from before the bundle, or its long form, and the thread goes on at the pc that they leave; in a ring of one frame, the
second word writes before a CALL or RET puts another frame in its place; a word above the thread's level takes PRIV, whatever its sources
hold, and one with a poisoned source POISON; a core without a thread in the slot issues nothing. (b) R14, R21, R49, R122, R167, R168,
R192, R333, R383, R384: a pending step of a unit is taken as its instruction, one whose moment is fixed before any other, and those of one
channel in the order sent; one that would see a release too early, or whose link retrains, waits (R391); one of a context that a WORLD
switch stops leaves the mesh (R341); a wait in a slot that ends after 64 cycles lets the bundle's other word run first; and a bundle that
decodes to nothing takes ILLEG with the bundle in TVAL. The order of a core's turn and of pending steps where the spec leaves it open is
the model's choice (log entry 38); the order of the checks of a bundle is log entry 92, and what a suspended bundle counts as log entry
133. -/
def Obligations.StepRunsTheDecodedBundle : Prop :=
  (∀ (s : State) (c : Nat) (rest sc : List Nat), nextChoice s = .core c rest sc →
     let s0 : State := { s with turns := rest, sched := sc, issue := none }
     let slot := tableSlot (s.core c).table (tsOf s c % 32)
     let f0 : State := { s0 with cur := { s0.cur with npc := s0.cur.pc }, pre := none, flow := .done }
     let plain : Prop := CurAlone s ∧ slotThread s c slot = some s.cur ∧ s.cur.state = .running ∧ isClass0 s s.cur = false ∧ s.cur.wait = none ∧
       s.cur.stopNext = false ∧ s.cur.turnsLeft = none ∧ s.cur.forfeit = 0 ∧ s.cur.trapNext = none ∧ s.cur.heldAsync = [] ∧ s.cur.heldStores = [] ∧
       s.cur.fetched = none ∧ s.cur.pc.toNat < 2 ^ 57
     (slotThread s c slot = none → ∃ t, exec (.arithmeticCycle c) s0 = .next t ∧ step s = .next t ∧ t.threads = s.threads ∧ t.cur = s.cur ∧ t.pool = s.pool) ∧
     (∀ l, plain → checkPtr f0 f0.cur .fetch s.cur.pc 8 0 = .ok l →
       let d := countDrops f0 [l]
       let w : W64 := BitVec.ofNat 64 (leNat (readLoc d l 8))
       let f1 : State := { d with issue := some w }
       let f : State := { f1 with cur := { f1.cur with npc := s.cur.pc + 8 } }
       let reached : Prop := poisonedLoc d l 8 = false ∧ linkBusy d (dieOf d.cur.core) l = false ∧ cutOff d (dieOf d.cur.core) l = false
       let issues (b : Bundle) : Prop := bundleOf w = some b ∧ startsLate exec f1 w = false ∧ standsBack f1 w = false ∧ dlogOf f f.cur = false ∧
         reached
       let ready (b : Bundle) : Prop := issues b ∧ ∀ i ∈ bundleInstrs b, abovePriv f i = false ∧ poisonedRead f i = none
       let ends (v : State) (b : Bundle) : Prop := step s = .next (afterBundle f v w (some b)) ∧
         (v.cur.tid = s.cur.tid → v.cur.state = .running → v.cur.stepsLeft = none → (v.part v.cur.part).worldPhase ≠ 1 →
           let t := afterBundle f v w (some b)
           t.cur.pc = v.cur.npc ∧ t.pool = v.pool ∧ t.hbm = v.hbm ∧ t.issue = none ∧ t.pre = none)
       let before (i : Instr) : Pre := { pool := f.pool, poison := f.poolPoison, cur := f.cur, seeded := seeds f i }
       let swaps (i : Instr) : Prop := carriedRegs i ≠ [] ∧ frameRing f f.cur = 1
       (reached → exec (.arithmeticCycle c) s0 = .next f1) ∧
       (∀ i a u v, ready (.pair i a) → ¬ swaps i → exec i f = .next u → u.flow = .done →
         exec a { u with pre := some (before i) } = .next v → v.flow = .done → ends v (.pair i a)) ∧
       (∀ i a u v x, ready (.pair i a) → swaps i → exec i f = .next u → u.flow = .done →
         exec a { f with pre := some (before i) } = .next v → v.flow = .done → exec i v = .next x → x.flow = .done → ends x (.pair i a)) ∧
       (∀ i v, ready (.long i) → exec i f = .next v → v.flow = .done → ends v (.long i)) ∧
       (∀ b, issues b → (∃ i ∈ bundleInstrs b, abovePriv f i = true) →
         step s = .next (afterBundle f (takeTrap (backOut f f.cur) 0x02 w 0) w (some b))) ∧
       (∀ i off, issues (.long i) → abovePriv f i = false → midBundle f.cur = false → poisonedRead f i = some off →
         step s = .next (afterBundle f (takeTrap (backOut f f.cur) 0x08 (BitVec.ofNat 64 off) 0) w (some (.long i)))))) ∧
  (∀ (s : State),
     (∀ e rest sc, nextChoice s = .event e rest sc →
       let g : State := { s with agenda := rest, sched := sc }
       let slept (t : Thread) : Prop := t.state = .running ∧ waitsPast t = true ∧ waitOver g t = false ∧ t.waitFrom + 64 ≤ s.ts
       (∃ pre post, s.agenda = pre ++ e :: post ∧ rest = pre ++ post ∧
         (∀ c, channelOf s e = some c → ∀ x ∈ pre, channelOf s x ≠ some c) ∧
         ((∃ x ∈ s.agenda, urgent x = true ∧ stepHeld s x = false) → urgent e = true ∧ ∀ x ∈ pre, urgent x = true → stepHeld s x = true)) ∧
       (stepHeld s e = true → ∃ t, step s = .next t ∧ t = { s with agenda := t.agenda, sched := sc } ∧ ∀ x, x ∈ t.agenda ↔ x = e ∨ x ∈ rest) ∧
       (∀ p, stepHeld s e = false → holdingPart s e = some p →
         step s = .next (g.modPart p fun q => { q with held := q.held ++ [e] })) ∧
       (stepHeld s e = false → holdingPart s e = none → (∀ tid t, e = .slotWaitTimeout tid → s.thread? tid = some t → ¬ slept t) → step s = exec (eventInstr e) g) ∧
       (∀ p w i a u, e = .slotWaitTimeout s.cur.tid → CurAlone s → slept s.cur → s.cur.fetched = some (p, w) → bundleOf w = some (.pair i a) →
         let f : State := { g with cur := { s.cur with npc := s.cur.pc + 8 }, pre := none, flow := .done, issue := some w }
         dlogOf f f.cur = false → poisonedRead f a = none →
         exec a { f with pre := some { pool := f.pool, poison := f.poolPoison, cur := f.cur, seeded := false } } = .next u → u.flow = .done →
         ∃ v, step s = exec (.slotWaitTimeout s.cur.tid) v ∧ v.pool = u.pool ∧ v.hbm = u.hbm ∧ v.cur.wait = u.cur.wait ∧ v.cur.pc = u.cur.pc)) ∧
     (∀ sc, nextChoice s = .tick sc → ∃ t, step s = .next t ∧ t = tick { s with sched := sc }) ∧
     (∀ c rest sc s1 w, nextChoice s = .core c rest sc → exec (.arithmeticCycle c) { s with turns := rest, sched := sc, issue := none } = .next s1 →
       s1.issue = some w → bundleOf w = none → startsLate exec s1 w = false → dlogOf s1 s1.cur = false →
       let f : State := { s1 with cur := { s1.cur with npc := s1.cur.pc + 8 }, pre := none, flow := .done }
       CanTrap f → ∃ t u, exec (.illeg w) f = .next t ∧ TrapTaken f t 0x01 w ∧ step s = .next (afterBundle f u w none) ∧
         u = takeTrap (backOut f f.cur) 0x01 w 0))

/-- R48, R51, R54, R57 to R59, R74, R80, R86, R159, R168, R253, R259, R260: by the formats, the maps and the encodings of the entries,
words written out from the encodings decode to the instructions that they stand for. -/
def Obligations.WrittenWordsDecode : Prop :=
  decodeA 0x04A63810 = .ok (.sub 5 6 7 0) ∧ decodeA 0x20210040 = .ok (.addi 1 1 4 0) ∧ decodeA 0x1D063800 = .ok (.rndc 8 6 7 0) ∧
    decodeC 0x2E649020 = .ok (.vappend 6 9 2 0 0) ∧ decodeC 0x30500000 = .ok (.baste 5 0) ∧ decodeC 0x32620000 = .ok (.tack 6 4 0) ∧
    decodeC 0x3A100000 = .ok (.fork 1 0) ∧ decodeC 0x48000050 = .ok (.barg 5 0)

/-- R48 to R61: for every well-formed C-class and A-class instruction, and for every well-formed long form, the bundle that they are
encoded to decodes to them, with every operand at every value. -/
def Obligations.BundlesDecodeBack : Prop :=
  (∀ c a : Instr, c.wordClass = .cWord → a.wordClass = .aWord → c.wf = true → a.wf = true →
    decodeBundle (BitVec.ofNat 64 (encodeNat a * 2 ^ 32 + encodeNat c)) = .ok (.pair c a)) ∧
  (∀ c : Instr, c.wordClass = .longForm → c.wf = true → decodeBundle (encode c) = .ok (.long c))

/-- Every step keeps the memories of the package in their canonical form. It is about the model's own form of memory. -/
def Obligations.StepKeepsMemoriesCanonical : Prop := ∀ s t : State, MemoriesCanonical s → step s = .next t → MemoriesCanonical t

/-- The memories of the package are in their canonical form after reset. It is about the model's own form of memory. -/
def Obligations.ResetMemoriesCanonical : Prop := MemoriesCanonical State.reset

/-- Every step keeps the numbers that the state gives to new threads above every number in use, they are so after reset, and then no
thread has the next number. Thread numbers are the model's own (log entry 97). -/
def Obligations.StepKeepsNumbersBelow : Prop :=
  (∀ s t : State, NumbersBelow s → step s = .next t → NumbersBelow t) ∧ NumbersBelow State.reset ∧
    ∀ s : State, NumbersBelow s → NumberFree s

/-! ### Threads, barriers, seams and launches (R126 to R172) -/

/-- R145 to R148, R233: an arrival at the seam unit, under the fields of the round that it opens or joins, that would merge or take an
entry, which is a release, comes again while a fence or an acquire of its thread holds it back, and a merge while an access of the thread
that it frees is still to be performed. Else it merges into an entry with its state words: the entry's MCNT becomes the sum and its DLN
the lesser, NMRG and NARR rise by 1, and the thread ends, or with the lower UNITID replaces REP and CONT, and the former representative
ends; or it takes the first free entry of its probes. C(g) of its groups falls by MCNT, and a thread that goes on is in state SEAM at PC +
8 with MPASS 0. A thread that has no arrival under way stands. That a merge comes again while it would be held is log entry 20, how the
table's pointer is checked log entry 55, reserved bits of the header log entry 110, the counter of a deadline log entry 98 and the launch
that closes a round log entry 127, all the model's; that no soft error strikes is a premise (log entry 106). -/
def Obligations.SeamArrivals : Prop :=
  ∀ (s : State) (q : SeamReq) (hdr : List Byte) (es : List (Nat × List Byte)), s.pool.wf = true → CurAlone s → s.cur.img = none →
    (∀ tid, s.thread? tid = none → exec (.seamArrival tid) s = .next s) ∧
    (∀ tid u, s.thread? tid = some u → u.seam = none → exec (.seamArrival tid) s = .next s) ∧
    (s.cur.seam = some q → nopenOf s s.cur = 0 → isPinned s s.cur = false → s.upsets = [] →
      ctxRead s s.cur.pid (addrOf q.tbl) 64 = .ok hdr →
      let fresh := roundOf hdr s.cur.pid q.tbl s.cur.lnch
      let r := if fieldOf hdr 0x14 4 = 0 then fresh else (roundAt s s.cur.pid q.tbl).getD fresh
      (groupsOf s.cur).contains r.grp = true → powerOfTwo r.cap = true → 2 ≤ r.k → r.k ≤ 32 → q.words.length ≤ r.k →
      let u := { s with seams := (s.seams.filter fun x => !(x.pid == s.cur.pid && x.tbl == q.tbl)) ++ [r] }
      let ws := q.words ++ List.replicate (r.k - q.words.length) 0
      let h := seamHash ws
      readEntries u r ((upTo (Nat.min 8 r.cap)).map fun i => (h + i) % r.cap) = .ok es →
      let held (e : Nat × List Byte) : Bool := fieldOf e.2 0xC 4 == 1
      let same (e : Nat × List Byte) : Bool := held e && (fieldOf e.2 0 4 == h && e.2.drop 0x20 == ws.flatMap fun w => leBytes 8 w.toNat)
      let merging := r.flg.testBit 0 = false
      let fits (e : Nat × List Byte) : Bool := decide (fieldOf e.2 4 4 + s.cur.mcnt.toNat ≤ 2 ^ 32 - 1)
      let partner := if merging then (es.filter same).find? fits else none
      let free := es.find? fun e => fieldOf e.2 0xC 4 == 0
      let alone : Prop := merging → es.filter same = []
      let again : Prop := exec (.seamArrival s.cur.tid) s = .next { u with agenda := s.agenda ++ [.seamArrival s.cur.tid] }
      (∀ e, partner = some e → releaseWaits u s.cur (mergeFrees u s.cur e.2) = true → again) ∧
      (∀ e, alone → free = some e → releaseWaits u s.cur none = true → again) ∧
      let counted (t : State) : Prop := ∀ l, s.launch? s.cur.lnch = some l → ∃ x, t.launch? s.cur.lnch = some x ∧
        x.cnt = (groupsOf s.cur).foldl (fun c g => countMod c g (· - s.cur.mcnt.toNat)) l.cnt
      let suspended (t : State) : Prop :=
        t.cur = { s.cur with
          state := .seam, pc := s.cur.pc + 8, npc := s.cur.pc + 8, wait := none, seam := none, idleTs := s.ts } ∧
        t.pool.readNat (wsKey s.cur + 0x180) 4 = setBits (s.pool.readNat (wsKey s.cur + 0x180) 4) 10 1 0
      ((∀ e pe ph, partner = some e → releaseWaits u s.cur (mergeFrees u s.cur e.2) = false → s.hbm.wf = true →
          (∀ p ∈ s.parts, ∀ w ∈ p.waiters, w.isLaunch = false → some w.id ≠ mergeFrees u s.cur e.2) →
          let lower : Prop := s.cur.unitid.toNat < fieldOf e.2 8 4
          (lower → mergeFrees u s.cur e.2 ≠ some s.cur.tid) →
          let size := 32 + 8 * r.k
          let a := entryAddr r e.1 % 2 ^ 57
          deviceAddr s s.cur.pid a true = .ok pe → a % 4096 + size ≤ 4096 →
          deviceAddr s s.cur.pid (addrOf q.tbl) true = .ok ph → addrOf q.tbl % 4096 + 64 ≤ 4096 →
          (∀ x, ¬ (InSpan pe size x ∧ InSpan ph 64 x) ∧ ¬ (InRecords s s.cur.pid x ∧ (InSpan pe size x ∨ InSpan ph 64 x))) →
          TablesApart s s.cur.pid (fun x => InSpan pe size x ∨ InSpan ph 64 x ∨ InRecords s s.cur.pid x) →
          ∃ t, exec (.seamArrival s.cur.tid) s = .next t ∧ counted t ∧
            t.hbm.readNat (pe + 4) 4 = fieldOf e.2 4 4 + s.cur.mcnt.toNat ∧
            t.hbm.readNat (pe + 0x18) 8 = Nat.min (fieldOf e.2 0x18 8) q.dln.toNat ∧
            t.hbm.readNat (ph + 0x18) 4 = (s.hbm.readNat (ph + 0x18) 4 + 1) % 2 ^ 32 ∧
            t.hbm.readNat (ph + 0x1C) 4 = (s.hbm.readNat (ph + 0x1C) 4 + 1) % 2 ^ 32 ∧
            (¬ lower → t.thread? s.cur.tid = none ∧
              t.hbm.readNat (pe + 8) 4 = fieldOf e.2 8 4 ∧ t.hbm.readNat (pe + 0x10) 8 = fieldOf e.2 0x10 8) ∧
            (lower → suspended t ∧ t.hbm.readNat (pe + 8) 4 = s.cur.unitid.toNat ∧ t.hbm.readNat (pe + 0x10) 8 = s.cur.recd.toNat ∧
              ∀ v, mergeFrees u s.cur e.2 = some v → t.thread? v = none)) ∧
        (∀ e m, alone → free = some e → releaseWaits u s.cur none = false →
          ctxWrite u s.cur.pid (entryAddr r e.1) (leBytes 4 h ++ leBytes 4 s.cur.mcnt.toNat ++ leBytes 4 s.cur.unitid.toNat ++ leBytes 4 1 ++
            leBytes 8 s.cur.recd.toNat ++ leBytes 8 q.dln.toNat ++ ws.flatMap fun w => leBytes 8 w.toNat) = .ok m →
          ∃ t, exec (.seamArrival s.cur.tid) s = .next t ∧ suspended t ∧ counted t)))
end

