-- ==== Sys2Proof/Laws/Memory.lean ====
section
/-!
SUPPORT. Byte memory: what a read gives after each operation, and that every operation keeps the canonical form.
-/
namespace Sys2Proof.Laws
open Sys2Proof.Machine

/-! ### Listed bytes -/

theorem cellAt_insert_self (l : List Host.Cell) (a : Nat) (v : Byte) : cellAt (cellInsert l a v) a = some v := by
  induction l with
  | nil => simp [cellInsert, cellAt]
  | cons c rest ih =>
    obtain ⟨k, w⟩ := c
    simp only [cellInsert]
    split
    · simp [cellAt]
    · split
      · simp [cellAt]
      · simp [cellAt, *]

theorem cellAt_insert_other (l : List Host.Cell) (a b : Nat) (v : Byte) (h : a ≠ b) :
    cellAt (cellInsert l a v) b = cellAt l b := by
  induction l with
  | nil => simp [cellInsert, cellAt, h]
  | cons c rest ih =>
    obtain ⟨k, w⟩ := c
    simp only [cellInsert]
    split
    · simp [cellAt, h]
    · split
      · rename_i _ hk; subst hk; simp [cellAt, h]
      · simp [cellAt, ih]

theorem cellAt_erase_other (l : List Host.Cell) (a b : Nat) (h : a ≠ b) : cellAt (cellErase l a) b = cellAt l b := by
  induction l with
  | nil => rfl
  | cons c rest ih =>
    obtain ⟨k, w⟩ := c
    simp only [cellErase]
    split
    · rename_i hk; subst hk; simp [cellAt, h]
    · split
      · rfl
      · simp [cellAt, ih]

/-- Every address of a list lies above a bound. -/
def Above (n : Nat) (l : List Host.Cell) : Prop := ∀ c ∈ l, n < c.1

theorem cellAt_above {n a : Nat} {l : List Host.Cell} (h : Above n l) (ha : a ≤ n) : cellAt l a = none := by
  induction l with
  | nil => rfl
  | cons c rest ih =>
    obtain ⟨k, w⟩ := c
    have hk : n < k := h (k, w) (by simp)
    simp only [cellAt]
    rw [if_neg (by omega)]
    exact ih fun c hc => h c (by simp [hc])

theorem cellsOk_cons {u : List (Nat × Nat × Nat)} {a : Nat} {v : Byte} {rest : List Host.Cell} :
    cellsOk u ((a, v) :: rest) = true ↔
      v ≠ 0 ∧ undefAt u a = none ∧ Above a rest ∧ cellsOk u rest = true := by
  induction rest generalizing a v with
  | nil => simp [cellsOk, Above]
  | cons c rest ih =>
    obtain ⟨b, w⟩ := c
    have hb : cellsOk u ((b, w) :: rest) = true ↔ w ≠ 0 ∧ undefAt u b = none ∧ Above b rest ∧ cellsOk u rest = true := ih
    constructor
    · intro h
      simp only [cellsOk, Bool.and_eq_true, bne_iff_ne, ne_eq, beq_iff_eq, decide_eq_true_eq] at h
      obtain ⟨⟨⟨h1, h2⟩, h3⟩, h4⟩ := h
      have h5 : cellsOk u ((b, w) :: rest) = true := by
        simp only [cellsOk, Bool.and_eq_true, bne_iff_ne, ne_eq, beq_iff_eq]; exact h4
      refine ⟨h1, h2, ?_, h5⟩
      intro c hc
      rcases List.mem_cons.mp hc with rfl | hc
      · exact h3
      · exact Nat.lt_trans h3 ((hb.mp h5).2.2.1 c hc)
    · rintro ⟨h1, h2, h3, h4⟩
      have hab : a < b := h3 (b, w) (by simp)
      have h5 := h4
      simp only [cellsOk, Bool.and_eq_true, bne_iff_ne, ne_eq, beq_iff_eq] at h5
      simp only [cellsOk, Bool.and_eq_true, bne_iff_ne, ne_eq, beq_iff_eq, decide_eq_true_eq]
      exact ⟨⟨⟨h1, h2⟩, hab⟩, h5⟩

theorem cellAt_erase_self {u : List (Nat × Nat × Nat)} {l : List Host.Cell} (h : cellsOk u l = true) (a : Nat) :
    cellAt (cellErase l a) a = none := by
  induction l with
  | nil => rfl
  | cons c rest ih =>
    obtain ⟨k, w⟩ := c
    obtain ⟨_, _, habove, hrest⟩ := cellsOk_cons.mp h
    simp only [cellErase]
    split
    · rename_i hk; subst hk; exact cellAt_above habove (Nat.le_refl _)
    · split
      · rename_i hk hlt
        exact cellAt_above (n := a) (fun c hc => by
          rcases List.mem_cons.mp hc with rfl | hc
          · exact hlt
          · exact Nat.lt_trans hlt (habove c hc)) (Nat.le_refl _)
      · simp only [cellAt]; rw [if_neg (by assumption)]; exact ih hrest

/-! ### Undefined ranges -/

theorem undefAt_append (l m : List (Nat × Nat × Nat)) (a : Nat) :
    undefAt (l ++ m) a = match undefAt l a with | some i => some i | none => undefAt m a := by
  induction l with
  | nil => rfl
  | cons r rest ih =>
    obtain ⟨lo, hi, id⟩ := r
    simp only [List.cons_append, undefAt]
    split
    · rfl
    · exact ih

theorem undefAt_rangeErase_self (r : Nat × Nat × Nat) (a : Nat) : undefAt (rangeErase r a) a = none := by
  obtain ⟨lo, hi, id⟩ := r
  simp only [rangeErase]
  split
  · split <;> split <;> simp [undefAt]
  · rename_i h; simp only [undefAt]; rw [if_neg h]

theorem undefAt_rangeErase_other (r : Nat × Nat × Nat) (a b : Nat) (h : a ≠ b) :
    undefAt (rangeErase r a) b = undefAt [r] b := by
  obtain ⟨lo, hi, id⟩ := r
  simp only [rangeErase]
  split
  · rename_i hr
    simp only [undefAt_append, undefAt]
    by_cases hb : lo ≤ b ∧ b < hi
    · rw [if_pos hb]
      by_cases hlt : b < a
      · rw [if_pos (by omega)]; simp only [undefAt]; rw [if_pos (by omega)]
      · have : undefAt (if lo < a then [(lo, a, id)] else []) b = none := by
          split
          · simp only [undefAt]; rw [if_neg (by omega)]
          · rfl
        rw [this, if_pos (by omega)]; simp only [undefAt]; rw [if_pos (by omega)]
    · rw [if_neg hb]
      have h1 : undefAt (if lo < a then [(lo, a, id)] else []) b = none := by
        split
        · simp only [undefAt]; rw [if_neg (by omega)]
        · rfl
      have h2 : undefAt (if a + 1 < hi then [(a + 1, hi, id)] else []) b = none := by
        split
        · simp only [undefAt]; rw [if_neg (by omega)]
        · rfl
      rw [h1, h2]
  · rfl

theorem undefAt_erase_self (u : List (Nat × Nat × Nat)) (a : Nat) : undefAt (undefErase u a) a = none := by
  induction u with
  | nil => rfl
  | cons r rest ih => simp only [undefErase, undefAt_append, undefAt_rangeErase_self, ih]

theorem undefAt_erase_other (u : List (Nat × Nat × Nat)) (a b : Nat) (h : a ≠ b) :
    undefAt (undefErase u a) b = undefAt u b := by
  induction u with
  | nil => rfl
  | cons r rest ih =>
    obtain ⟨lo, hi, id⟩ := r
    simp only [undefErase, undefAt_append, undefAt_rangeErase_other _ _ _ h, ih]
    simp only [undefAt]
    split <;> simp_all

theorem undefAt_erase_none {u : List (Nat × Nat × Nat)} {a b : Nat} (h : undefAt u b = none) :
    undefAt (undefErase u a) b = none := by
  by_cases hab : a = b
  · subst hab; exact undefAt_erase_self u a
  · rw [undefAt_erase_other u a b hab]; exact h

/-! ### One byte -/

/-- A read after a write elsewhere gives what it gave before. -/
theorem read_write_other (m : Memory) (a b : Nat) (v : Byte) (h : a ≠ b) : (m.write a v).read b = m.read b := by
  have hc : cellAt (m.write a v).cells b = cellAt m.cells b := by
    simp only [Memory.write]
    split
    · exact cellAt_erase_other _ _ _ h
    · exact cellAt_insert_other _ _ _ _ h
  simp only [Memory.read, hc, show (m.write a v).undef = undefErase m.undef a from rfl, undefAt_erase_other _ _ _ h]

/-- A read after a write gives the byte written. -/
theorem read_write_self {m : Memory} (hm : m.wf = true) (a : Nat) (v : Byte) : (m.write a v).read a = v := by
  by_cases hv : v = 0
  · subst hv
    simp only [Memory.read, Memory.write, if_true, cellAt_erase_self hm, undefAt_erase_self]
  · simp only [Memory.read, Memory.write, if_neg hv, cellAt_insert_self]

theorem above_erase {n : Nat} {l : List Host.Cell} (h : Above n l) (a : Nat) : Above n (cellErase l a) := by
  induction l with
  | nil => exact h
  | cons c rest ih =>
    obtain ⟨k, w⟩ := c
    have hr : Above n rest := fun c hc => h c (by simp [hc])
    simp only [cellErase]
    split
    · exact hr
    · split
      · exact h
      · intro c hc
        rcases List.mem_cons.mp hc with rfl | hc
        · exact h _ (by simp)
        · exact ih hr c hc

theorem above_insert {n : Nat} {l : List Host.Cell} (h : Above n l) {a : Nat} (ha : n < a) (v : Byte) :
    Above n (cellInsert l a v) := by
  induction l with
  | nil => intro c hc; simp [cellInsert] at hc; subst hc; exact ha
  | cons c rest ih =>
    obtain ⟨k, w⟩ := c
    have hr : Above n rest := fun c hc => h c (by simp [hc])
    simp only [cellInsert]
    split
    · intro c hc
      rcases List.mem_cons.mp hc with rfl | hc
      · exact ha
      · exact h c hc
    · split
      · intro c hc
        rcases List.mem_cons.mp hc with rfl | hc
        · exact ha
        · exact hr c hc
      · intro c hc
        rcases List.mem_cons.mp hc with rfl | hc
        · exact h _ (by simp)
        · exact ih hr c hc

theorem cellsOk_mono {u u' : List (Nat × Nat × Nat)} (hu : ∀ b, undefAt u b = none → undefAt u' b = none)
    {l : List Host.Cell} (h : cellsOk u l = true) : cellsOk u' l = true := by
  induction l with
  | nil => rfl
  | cons c rest ih =>
    obtain ⟨k, w⟩ := c
    obtain ⟨h1, h2, h3, h4⟩ := cellsOk_cons.mp h
    exact cellsOk_cons.mpr ⟨h1, hu k h2, h3, ih h4⟩

theorem cellsOk_erase {u : List (Nat × Nat × Nat)} {l : List Host.Cell} (h : cellsOk u l = true) (a : Nat) :
    cellsOk u (cellErase l a) = true := by
  induction l with
  | nil => rfl
  | cons c rest ih =>
    obtain ⟨k, w⟩ := c
    obtain ⟨h1, h2, h3, h4⟩ := cellsOk_cons.mp h
    simp only [cellErase]
    split
    · exact h4
    · split
      · exact h
      · exact cellsOk_cons.mpr ⟨h1, h2, above_erase h3 a, ih h4⟩

theorem cellsOk_insert {u : List (Nat × Nat × Nat)} {l : List Host.Cell} (h : cellsOk u l = true) {a : Nat} {v : Byte}
    (hv : v ≠ 0) (ha : undefAt u a = none) : cellsOk u (cellInsert l a v) = true := by
  induction l with
  | nil => exact cellsOk_cons.mpr ⟨hv, ha, fun c hc => by simp at hc, rfl⟩
  | cons c rest ih =>
    obtain ⟨k, w⟩ := c
    obtain ⟨h1, h2, h3, h4⟩ := cellsOk_cons.mp h
    simp only [cellInsert]
    split
    · rename_i hlt
      refine cellsOk_cons.mpr ⟨hv, ha, ?_, h⟩
      intro c hc
      rcases List.mem_cons.mp hc with rfl | hc
      · exact hlt
      · exact Nat.lt_trans hlt (h3 c hc)
    · split
      · rename_i hk; subst hk; exact cellsOk_cons.mpr ⟨hv, ha, h3, h4⟩
      · exact cellsOk_cons.mpr ⟨h1, h2, above_insert h3 (by omega) v, ih h4⟩

/-- A write of one byte keeps the canonical form. -/
theorem write_wf {m : Memory} (hm : m.wf = true) (a : Nat) (v : Byte) : (m.write a v).wf = true := by
  have h0 : cellsOk (undefErase m.undef a) m.cells = true := cellsOk_mono (fun _ => undefAt_erase_none) hm
  by_cases hv : v = 0
  · simp only [Memory.wf, Memory.write, if_pos hv]; exact cellsOk_erase h0 a
  · simp only [Memory.wf, Memory.write, if_neg hv]; exact cellsOk_insert h0 hv (undefAt_erase_self _ _)

/-! ### Several bytes -/

theorem writeBytes_wf {m : Memory} (hm : m.wf = true) (a : Nat) (l : List Byte) : (m.writeBytes a l).wf = true := by
  induction l generalizing m a with
  | nil => exact hm
  | cons b rest ih => exact ih (write_wf hm a b) (a + 1)

theorem writeNat_wf {m : Memory} (hm : m.wf = true) (a n v : Nat) : (m.writeNat a n v).wf = true :=
  writeBytes_wf hm a _

/-- Bytes outside a write read as before. -/
theorem read_writeBytes_other (m : Memory) (a : Nat) (l : List Byte) (b : Nat) (h : b < a ∨ a + l.length ≤ b) :
    (m.writeBytes a l).read b = m.read b := by
  induction l generalizing m a with
  | nil => rfl
  | cons x rest ih =>
    simp only [List.length_cons] at h
    simp only [Memory.writeBytes]
    rw [ih (m.write a x) (a + 1) (by omega), read_write_other _ _ _ _ (by omega)]

theorem length_leBytes (n v : Nat) : (leBytes n v).length = n := by
  induction n generalizing v with
  | zero => rfl
  | succ n ih => simp [leBytes, ih]

theorem read_writeNat_other (m : Memory) (a n v b : Nat) (h : b < a ∨ a + n ≤ b) :
    (m.writeNat a n v).read b = m.read b :=
  read_writeBytes_other m a _ b (by rw [length_leBytes]; exact h)

theorem readBytes_eq_of {m m' : Memory} (a n : Nat) (h : ∀ b, a ≤ b → b < a + n → m'.read b = m.read b) :
    m'.readBytes a n = m.readBytes a n := by
  induction n generalizing a with
  | zero => rfl
  | succ n ih =>
    simp only [Memory.readBytes]
    rw [h a (Nat.le_refl _) (by omega), ih (a + 1) fun b h1 h2 => h b (by omega) (by omega)]

/-- A value outside a write reads as before. -/
theorem readNat_writeNat_other (m : Memory) (a n v b k : Nat) (h : b + k ≤ a ∨ a + n ≤ b) :
    (m.writeNat a n v).readNat b k = m.readNat b k := by
  unfold Memory.readNat
  rw [readBytes_eq_of b k fun x h1 h2 => read_writeNat_other m a n v x (by omega)]

/-- Bytes read after a write give the bytes written. -/
theorem readBytes_writeBytes_self {m : Memory} (hm : m.wf = true) (a : Nat) (l : List Byte) :
    (m.writeBytes a l).readBytes a l.length = l := by
  induction l generalizing m a with
  | nil => rfl
  | cons b rest ih =>
    simp only [Memory.writeBytes, List.length_cons, Memory.readBytes]
    rw [read_writeBytes_other _ _ _ _ (by omega), read_write_self hm, ih (write_wf hm a b)]

theorem leNat_leBytes (n v : Nat) : leNat (leBytes n v) = v % 256 ^ n := by
  induction n generalizing v with
  | zero => simp [leBytes, leNat, Nat.mod_one]
  | succ n ih =>
    have h : 256 ^ (n + 1) = 256 * 256 ^ n := by rw [Nat.pow_succ, Nat.mul_comm]
    rw [leBytes, leNat, ih, BitVec.toNat_ofNat, h, Nat.mod_mul]

/-- A value read after a write gives the low bytes written. -/
theorem readNat_writeNat_self {m : Memory} (hm : m.wf = true) (a n v : Nat) :
    (m.writeNat a n v).readNat a n = v % 256 ^ n := by
  unfold Memory.readNat Memory.writeNat
  have h := readBytes_writeBytes_self hm a (leBytes n v)
  rw [length_leBytes] at h
  rw [h, leNat_leBytes]

/-! ### Ranges -/

theorem cellsOk_filter {u : List (Nat × Nat × Nat)} {l : List Host.Cell} (p : Host.Cell → Bool)
    (h : cellsOk u l = true) : cellsOk u (l.filter p) = true := by
  induction l with
  | nil => rfl
  | cons c rest ih =>
    obtain ⟨k, w⟩ := c
    obtain ⟨h1, h2, h3, h4⟩ := cellsOk_cons.mp h
    simp only [List.filter_cons]
    split
    · exact cellsOk_cons.mpr ⟨h1, h2, fun c hc => h3 c (List.mem_of_mem_filter hc), ih h4⟩
    · exact ih h4

theorem cellsOk_filter_mono {u u' : List (Nat × Nat × Nat)} {l : List Host.Cell} {p : Host.Cell → Bool}
    (hu : ∀ c ∈ l, p c = true → undefAt u c.1 = none → undefAt u' c.1 = none) (h : cellsOk u l = true) :
    cellsOk u' (l.filter p) = true := by
  induction l with
  | nil => rfl
  | cons c rest ih =>
    obtain ⟨k, w⟩ := c
    obtain ⟨h1, h2, h3, h4⟩ := cellsOk_cons.mp h
    have ih' := ih (fun c hc => hu c (by simp [hc])) h4
    simp only [List.filter_cons]
    split
    · rename_i hp
      exact cellsOk_cons.mpr
        ⟨h1, hu (k, w) (by simp) hp h2, fun c hc => h3 c (List.mem_of_mem_filter hc), ih'⟩
    · exact ih'

/-- The part of the undefined ranges outside `lo` to `hi`. -/
def cutRanges (u : List (Nat × Nat × Nat)) (lo hi : Nat) : List (Nat × Nat × Nat) :=
  u.flatMap fun r =>
    (if r.1 < min r.2.1 lo then [(r.1, min r.2.1 lo, r.2.2)] else []) ++
    (if max r.1 hi < r.2.1 then [(max r.1 hi, r.2.1, r.2.2)] else [])

theorem undefAt_cutRanges {u : List (Nat × Nat × Nat)} {lo hi a : Nat} (h : undefAt u a = none) :
    undefAt (cutRanges u lo hi) a = none := by
  induction u with
  | nil => rfl
  | cons r rest ih =>
    obtain ⟨x, y, id⟩ := r
    simp only [undefAt] at h
    split at h
    · simp at h
    · rename_i hr
      have h1 : undefAt (if x < min y lo then [(x, min y lo, id)] else []) a = none := by
        split
        · simp only [undefAt]; rw [if_neg (by omega)]
        · rfl
      have h2 : undefAt (if max x hi < y then [(max x hi, y, id)] else []) a = none := by
        split
        · simp only [undefAt]; rw [if_neg (by omega)]
        · rfl
      simp only [cutRanges, List.flatMap_cons, undefAt_append, h1, h2]
      exact ih h

theorem clear_wf {m : Memory} (hm : m.wf = true) (lo hi : Nat) : (m.clear lo hi).wf = true :=
  cellsOk_filter_mono (fun _ _ _ h => undefAt_cutRanges (lo := lo) (hi := hi) h) hm

theorem forget_wf {m : Memory} (hm : m.wf = true) (lo hi id : Nat) : (m.forget lo hi id).wf = true := by
  simp only [Memory.forget]
  split
  · refine cellsOk_filter_mono (u := m.undef) (fun c _ hp h => ?_) hm
    have h1 := undefAt_cutRanges (lo := lo) (hi := hi) h
    simp only [decide_not, Bool.not_eq_true', decide_eq_false_iff_not] at hp
    show undefAt (cutRanges m.undef lo hi ++ [(lo, hi, id)]) c.1 = none
    rw [undefAt_append, h1]
    simp only [undefAt]
    rw [if_neg hp]
  · exact hm

theorem foldl_write_wf {l : List Host.Cell} (f : Host.Cell → Nat) {m : Memory} (hm : m.wf = true) :
    (l.foldl (fun d c => d.write (f c) c.2) m).wf = true := by
  induction l generalizing m with
  | nil => exact hm
  | cons c rest ih => exact ih (write_wf hm _ _)

theorem copyFrom_wf {m : Memory} (hm : m.wf = true) (da : Nat) (src : Memory) (sa n : Nat) :
    (m.copyFrom da src sa n).wf = true := by
  simp only [Memory.copyFrom]
  split
  · exact foldl_write_wf _ (clear_wf hm _ _)
  · exact writeBytes_wf hm _ _

theorem empty_wf : Memory.empty.wf = true := rfl

/-- A byte that a memory with nothing listed holds is zero. -/
theorem read_empty (a : Nat) : Memory.empty.read a = 0 := rfl

end Sys2Proof.Laws
end

