-- ==== Sys2Proof/Laws/Registers.lean ====
section
/-!
SUPPORT. What each shared write of a register does, once for all callers: the bytes it sets and that nothing else changes.
-/
namespace Sys2Proof.Laws
open Sys2Proof Sys2Proof.Machine Sys2Proof.Safety

theorem readBytes_length (m : Memory) (a n : Nat) : (m.readBytes a n).length = n := by
  induction n generalizing a with
  | zero => rfl
  | succ n ih => simp [Memory.readBytes, ih]

theorem mem_unpoison {l : List Nat} {lo n g : Nat} :
    g ∈ unpoison l lo n ↔ g ∈ l ∧ ¬ (lo ≤ 8 * g ∧ 8 * g + 8 ≤ lo + n) := by
  simp only [unpoison, List.mem_filter, decide_eq_true_eq]

/-- Bytes written to the pools. -/
theorem putPoolBytes_set {s : State} (h : s.pool.wf = true) (a : Nat) (l : List Byte) :
    PoolSet s (putPoolBytes s a l) a l :=
  ⟨readBytes_writeBytes_self h a l, fun _ hb => read_writeBytes_other _ _ _ _ hb, writeBytes_wf h a l, fun _ => mem_unpoison, rfl⟩

/-- A value written to the pools. -/
theorem putPool_set {s : State} (h : s.pool.wf = true) (a n v : Nat) : PoolSet s (putPool s a n v) a (leBytes n v) := by
  have h1 := putPoolBytes_set h a (leBytes n v)
  simp only [putPoolBytes, length_leBytes] at h1
  exact h1

/-- A general register. -/
theorem setX_set {s : State} (h : s.pool.wf = true) (d : Nat) (v : W64) : XSet s (setX s d v) d v := by
  unfold XSet setX
  split
  · rfl
  · exact putPool_set h _ _ _

/-- An interval register. -/
theorem setIv_set {s : State} (h : s.pool.wf = true) (d : Nat) (i : Ival) : IvSet s (setIv s d i) d i :=
  putPool_set h _ _ _

/-- A vector register. -/
theorem setV_set {s : State} (h : s.pool.wf = true) (d : Nat) (l : List Nat) : VSet s (setV s d l) d l :=
  putPoolBytes_set h _ _

/-- A word of the status block. -/
theorem setSt_set {s : State} (h : s.pool.wf = true) (off v : Nat) : StatSet s (setSt s off 4 v) off v :=
  putPool_set h _ _ _

/-- A predicate. -/
theorem setP_set {s : State} (h : s.pool.wf = true) (n : Nat) (b : Bool) : PredSet s (setP s n b) n b := by
  unfold PredSet setP
  split
  · rfl
  · exact setSt_set h _ _

/-- Flags that raise no trap are ORed into FFLAGS, and the instruction goes on (R26, R63). -/
theorem raiseFlags_noTrap {s : State} (h : s.pool.wf = true) {f : Flags} (hf : NoTrap s f) (k : State → State) :
    ∃ u, FlagsOr s u f ∧ raiseFlags s f k = k u := by
  have hf' : f &&& BitVec.ofNat 5 (bits (fmode s) 3 5) = 0 := hf
  unfold raiseFlags FlagsOr
  rw [if_neg (by simp [hf'])]
  by_cases h0 : f = 0
  · simp [h0]
  · simp only [h0, if_false]; exact ⟨_, setSt_set h _ _, rfl⟩

/-- A legal FMODE lets a rounding instruction go on (R10). -/
theorem roundingMode_legal {s : State} {rm : Rm} (h : Rounds s rm) (k : Rm → State) : roundingMode s k = k rm := by
  unfold roundingMode
  rw [h.1]
  simp [h.2]

/-- A true guard runs the instruction (R15). -/
theorem guarded_true {s : State} {g : BitVec 4} (h : guardOn s g = true) (k : State → State) : guarded g s k = k s := by
  simp [guarded, h]

/-- A false guard leaves everything as it is (R15). -/
theorem guarded_false {s : State} {g : BitVec 4} (h : guardOn s g = false) (k : State → State) : guarded g s k = s := by
  simp [guarded, h]

/-- A legal target lets a transfer go on (R94). -/
theorem checkTarget_legal {s : State} {t : W64} (h1 : bits t.toNat 57 7 = 0) (h2 : bits t.toNat 0 3 = 0) (k : State → State) :
    checkTarget s t k = k s := by
  simp [checkTarget, h1, h2]

/-- A level that is high enough lets a privileged instruction go on (R16). -/
theorem needLevel_high {s : State} {lvl : Nat} (h : lvl ≤ s.cur.priv) (k : State → State) : needLevel lvl s k = k s := by
  simp [needLevel, Nat.not_lt.mpr h]

/-- Too low a level takes PRIV with the bundle in TVAL (R16, R361). -/
theorem needLevel_low {s : State} {lvl : Nat} (h : s.cur.priv < lvl) (k : State → State) :
    needLevel lvl s k = trap s cPRIV (bundleNow s) := by
  simp [needLevel, h]

theorem FlagsOr.wf {s t : State} {f : Flags} (h : FlagsOr s t f) (hs : s.pool.wf = true) : t.pool.wf = true := by
  unfold FlagsOr at h
  split at h
  · rw [h]; exact hs
  · exact h.2.2.1

end Sys2Proof.Laws
end

