-- ==== Sys2Proof/Laws/State.lean ====
section
/-!
SUPPORT. The fields of the state after each shared update, one lemma a field, so that no proof unfolds a record update.
-/
namespace Sys2Proof.Machine

/-! ### Change the current thread. -/

section
variable (s : State) (f : Thread → Thread)
@[simp] theorem State.modCur_ts : (s.modCur f).ts = s.ts := rfl
@[simp] theorem State.modCur_skew : (s.modCur f).skew = s.skew := rfl
@[simp] theorem State.modCur_cur : (s.modCur f).cur = f s.cur := rfl
@[simp] theorem State.modCur_threads : (s.modCur f).threads = s.threads := rfl
@[simp] theorem State.modCur_cores : (s.modCur f).cores = s.cores := rfl
@[simp] theorem State.modCur_pool : (s.modCur f).pool = s.pool := rfl
@[simp] theorem State.modCur_hbm : (s.modCur f).hbm = s.hbm := rfl
@[simp] theorem State.modCur_sys : (s.modCur f).sys = s.sys := rfl
@[simp] theorem State.modCur_poolPoison : (s.modCur f).poolPoison = s.poolPoison := rfl
@[simp] theorem State.modCur_hbmPoison : (s.modCur f).hbmPoison = s.hbmPoison := rfl
@[simp] theorem State.modCur_accesses : (s.modCur f).accesses = s.accesses := rfl
@[simp] theorem State.modCur_tlb : (s.modCur f).tlb = s.tlb := rfl
@[simp] theorem State.modCur_ro : (s.modCur f).ro = s.ro := rfl
@[simp] theorem State.modCur_roNext : (s.modCur f).roNext = s.roNext := rfl
@[simp] theorem State.modCur_opens : (s.modCur f).opens = s.opens := rfl
@[simp] theorem State.modCur_launches : (s.modCur f).launches = s.launches := rfl
@[simp] theorem State.modCur_ended : (s.modCur f).ended = s.ended := rfl
@[simp] theorem State.modCur_parts : (s.modCur f).parts = s.parts := rfl
@[simp] theorem State.modCur_saved : (s.modCur f).saved = s.saved := rfl
@[simp] theorem State.modCur_seams : (s.modCur f).seams = s.seams := rfl
@[simp] theorem State.modCur_logBlocks : (s.modCur f).logBlocks = s.logBlocks := rfl
@[simp] theorem State.modCur_copies : (s.modCur f).copies = s.copies := rfl
@[simp] theorem State.modCur_sums : (s.modCur f).sums = s.sums := rfl
@[simp] theorem State.modCur_measure : (s.modCur f).measure = s.measure := rfl
@[simp] theorem State.modCur_invals : (s.modCur f).invals = s.invals := rfl
@[simp] theorem State.modCur_kills : (s.modCur f).kills = s.kills := rfl
@[simp] theorem State.modCur_revokedAt : (s.modCur f).revokedAt = s.revokedAt := rfl
@[simp] theorem State.modCur_wnext : (s.modCur f).wnext = s.wnext := rfl
@[simp] theorem State.modCur_vcyc : (s.modCur f).vcyc = s.vcyc := rfl
@[simp] theorem State.modCur_budgets : (s.modCur f).budgets = s.budgets := rfl
@[simp] theorem State.modCur_linksDown : (s.modCur f).linksDown = s.linksDown := rfl
@[simp] theorem State.modCur_linksWait : (s.modCur f).linksWait = s.linksWait := rfl
@[simp] theorem State.modCur_mxLast : (s.modCur f).mxLast = s.mxLast := rfl
@[simp] theorem State.modCur_debugNotices : (s.modCur f).debugNotices = s.debugNotices := rfl
@[simp] theorem State.modCur_imageVer : (s.modCur f).imageVer = s.imageVer := rfl
@[simp] theorem State.modCur_pkgId : (s.modCur f).pkgId = s.pkgId := rfl
@[simp] theorem State.modCur_quote : (s.modCur f).quote = s.quote := rfl
@[simp] theorem State.modCur_agenda : (s.modCur f).agenda = s.agenda := rfl
@[simp] theorem State.modCur_turns : (s.modCur f).turns = s.turns := rfl
@[simp] theorem State.modCur_issue : (s.modCur f).issue = s.issue := rfl
@[simp] theorem State.modCur_sched : (s.modCur f).sched = s.sched := rfl
@[simp] theorem State.modCur_upsets : (s.modCur f).upsets = s.upsets := rfl
@[simp] theorem State.modCur_ahead : (s.modCur f).ahead = s.ahead := rfl
@[simp] theorem State.modCur_choices : (s.modCur f).choices = s.choices := rfl
@[simp] theorem State.modCur_drawn : (s.modCur f).drawn = s.drawn := rfl
@[simp] theorem State.modCur_freeNext : (s.modCur f).freeNext = s.freeNext := rfl
@[simp] theorem State.modCur_nextTid : (s.modCur f).nextTid = s.nextTid := rfl
@[simp] theorem State.modCur_nextId : (s.modCur f).nextId = s.nextId := rfl
@[simp] theorem State.modCur_nextEnq : (s.modCur f).nextEnq = s.nextEnq := rfl
@[simp] theorem State.modCur_pre : (s.modCur f).pre = s.pre := rfl
@[simp] theorem State.modCur_flow : (s.modCur f).flow = s.flow := rfl
end

/-! ### Steps added to the agenda. -/

section
variable (s : State) (l : List Event)
@[simp] theorem State.later_ts : (s.later l).ts = s.ts := rfl
@[simp] theorem State.later_skew : (s.later l).skew = s.skew := rfl
@[simp] theorem State.later_cur : (s.later l).cur = s.cur := rfl
@[simp] theorem State.later_threads : (s.later l).threads = s.threads := rfl
@[simp] theorem State.later_cores : (s.later l).cores = s.cores := rfl
@[simp] theorem State.later_pool : (s.later l).pool = s.pool := rfl
@[simp] theorem State.later_hbm : (s.later l).hbm = s.hbm := rfl
@[simp] theorem State.later_sys : (s.later l).sys = s.sys := rfl
@[simp] theorem State.later_poolPoison : (s.later l).poolPoison = s.poolPoison := rfl
@[simp] theorem State.later_hbmPoison : (s.later l).hbmPoison = s.hbmPoison := rfl
@[simp] theorem State.later_accesses : (s.later l).accesses = s.accesses := rfl
@[simp] theorem State.later_tlb : (s.later l).tlb = s.tlb := rfl
@[simp] theorem State.later_ro : (s.later l).ro = s.ro := rfl
@[simp] theorem State.later_roNext : (s.later l).roNext = s.roNext := rfl
@[simp] theorem State.later_opens : (s.later l).opens = s.opens := rfl
@[simp] theorem State.later_launches : (s.later l).launches = s.launches := rfl
@[simp] theorem State.later_ended : (s.later l).ended = s.ended := rfl
@[simp] theorem State.later_parts : (s.later l).parts = s.parts := rfl
@[simp] theorem State.later_saved : (s.later l).saved = s.saved := rfl
@[simp] theorem State.later_seams : (s.later l).seams = s.seams := rfl
@[simp] theorem State.later_logBlocks : (s.later l).logBlocks = s.logBlocks := rfl
@[simp] theorem State.later_copies : (s.later l).copies = s.copies := rfl
@[simp] theorem State.later_sums : (s.later l).sums = s.sums := rfl
@[simp] theorem State.later_measure : (s.later l).measure = s.measure := rfl
@[simp] theorem State.later_invals : (s.later l).invals = s.invals := rfl
@[simp] theorem State.later_kills : (s.later l).kills = s.kills := rfl
@[simp] theorem State.later_revokedAt : (s.later l).revokedAt = s.revokedAt := rfl
@[simp] theorem State.later_wnext : (s.later l).wnext = s.wnext := rfl
@[simp] theorem State.later_vcyc : (s.later l).vcyc = s.vcyc := rfl
@[simp] theorem State.later_budgets : (s.later l).budgets = s.budgets := rfl
@[simp] theorem State.later_linksDown : (s.later l).linksDown = s.linksDown := rfl
@[simp] theorem State.later_linksWait : (s.later l).linksWait = s.linksWait := rfl
@[simp] theorem State.later_mxLast : (s.later l).mxLast = s.mxLast := rfl
@[simp] theorem State.later_debugNotices : (s.later l).debugNotices = s.debugNotices := rfl
@[simp] theorem State.later_imageVer : (s.later l).imageVer = s.imageVer := rfl
@[simp] theorem State.later_pkgId : (s.later l).pkgId = s.pkgId := rfl
@[simp] theorem State.later_quote : (s.later l).quote = s.quote := rfl
@[simp] theorem State.later_agenda : (s.later l).agenda = s.agenda ++ l := rfl
@[simp] theorem State.later_turns : (s.later l).turns = s.turns := rfl
@[simp] theorem State.later_issue : (s.later l).issue = s.issue := rfl
@[simp] theorem State.later_sched : (s.later l).sched = s.sched := rfl
@[simp] theorem State.later_upsets : (s.later l).upsets = s.upsets := rfl
@[simp] theorem State.later_ahead : (s.later l).ahead = s.ahead := rfl
@[simp] theorem State.later_choices : (s.later l).choices = s.choices := rfl
@[simp] theorem State.later_drawn : (s.later l).drawn = s.drawn := rfl
@[simp] theorem State.later_freeNext : (s.later l).freeNext = s.freeNext := rfl
@[simp] theorem State.later_nextTid : (s.later l).nextTid = s.nextTid := rfl
@[simp] theorem State.later_nextId : (s.later l).nextId = s.nextId := rfl
@[simp] theorem State.later_nextEnq : (s.later l).nextEnq = s.nextEnq := rfl
@[simp] theorem State.later_pre : (s.later l).pre = s.pre := rfl
@[simp] theorem State.later_flow : (s.later l).flow = s.flow := rfl
end

/-! ### A core changed. -/

section
variable (s : State) (c : Nat) (f : CoreSt → CoreSt)
@[simp] theorem State.modCore_ts : (s.modCore c f).ts = s.ts := rfl
@[simp] theorem State.modCore_skew : (s.modCore c f).skew = s.skew := rfl
@[simp] theorem State.modCore_cur : (s.modCore c f).cur = s.cur := rfl
@[simp] theorem State.modCore_threads : (s.modCore c f).threads = s.threads := rfl
@[simp] theorem State.modCore_cores : (s.modCore c f).cores = assocPut s.cores c (f (s.core c)) := rfl
@[simp] theorem State.modCore_pool : (s.modCore c f).pool = s.pool := rfl
@[simp] theorem State.modCore_hbm : (s.modCore c f).hbm = s.hbm := rfl
@[simp] theorem State.modCore_sys : (s.modCore c f).sys = s.sys := rfl
@[simp] theorem State.modCore_poolPoison : (s.modCore c f).poolPoison = s.poolPoison := rfl
@[simp] theorem State.modCore_hbmPoison : (s.modCore c f).hbmPoison = s.hbmPoison := rfl
@[simp] theorem State.modCore_accesses : (s.modCore c f).accesses = s.accesses := rfl
@[simp] theorem State.modCore_tlb : (s.modCore c f).tlb = s.tlb := rfl
@[simp] theorem State.modCore_ro : (s.modCore c f).ro = s.ro := rfl
@[simp] theorem State.modCore_roNext : (s.modCore c f).roNext = s.roNext := rfl
@[simp] theorem State.modCore_opens : (s.modCore c f).opens = s.opens := rfl
@[simp] theorem State.modCore_launches : (s.modCore c f).launches = s.launches := rfl
@[simp] theorem State.modCore_ended : (s.modCore c f).ended = s.ended := rfl
@[simp] theorem State.modCore_parts : (s.modCore c f).parts = s.parts := rfl
@[simp] theorem State.modCore_saved : (s.modCore c f).saved = s.saved := rfl
@[simp] theorem State.modCore_seams : (s.modCore c f).seams = s.seams := rfl
@[simp] theorem State.modCore_logBlocks : (s.modCore c f).logBlocks = s.logBlocks := rfl
@[simp] theorem State.modCore_copies : (s.modCore c f).copies = s.copies := rfl
@[simp] theorem State.modCore_sums : (s.modCore c f).sums = s.sums := rfl
@[simp] theorem State.modCore_measure : (s.modCore c f).measure = s.measure := rfl
@[simp] theorem State.modCore_invals : (s.modCore c f).invals = s.invals := rfl
@[simp] theorem State.modCore_kills : (s.modCore c f).kills = s.kills := rfl
@[simp] theorem State.modCore_revokedAt : (s.modCore c f).revokedAt = s.revokedAt := rfl
@[simp] theorem State.modCore_wnext : (s.modCore c f).wnext = s.wnext := rfl
@[simp] theorem State.modCore_vcyc : (s.modCore c f).vcyc = s.vcyc := rfl
@[simp] theorem State.modCore_budgets : (s.modCore c f).budgets = s.budgets := rfl
@[simp] theorem State.modCore_linksDown : (s.modCore c f).linksDown = s.linksDown := rfl
@[simp] theorem State.modCore_linksWait : (s.modCore c f).linksWait = s.linksWait := rfl
@[simp] theorem State.modCore_mxLast : (s.modCore c f).mxLast = s.mxLast := rfl
@[simp] theorem State.modCore_debugNotices : (s.modCore c f).debugNotices = s.debugNotices := rfl
@[simp] theorem State.modCore_imageVer : (s.modCore c f).imageVer = s.imageVer := rfl
@[simp] theorem State.modCore_pkgId : (s.modCore c f).pkgId = s.pkgId := rfl
@[simp] theorem State.modCore_quote : (s.modCore c f).quote = s.quote := rfl
@[simp] theorem State.modCore_agenda : (s.modCore c f).agenda = s.agenda := rfl
@[simp] theorem State.modCore_turns : (s.modCore c f).turns = s.turns := rfl
@[simp] theorem State.modCore_issue : (s.modCore c f).issue = s.issue := rfl
@[simp] theorem State.modCore_sched : (s.modCore c f).sched = s.sched := rfl
@[simp] theorem State.modCore_upsets : (s.modCore c f).upsets = s.upsets := rfl
@[simp] theorem State.modCore_ahead : (s.modCore c f).ahead = s.ahead := rfl
@[simp] theorem State.modCore_choices : (s.modCore c f).choices = s.choices := rfl
@[simp] theorem State.modCore_drawn : (s.modCore c f).drawn = s.drawn := rfl
@[simp] theorem State.modCore_freeNext : (s.modCore c f).freeNext = s.freeNext := rfl
@[simp] theorem State.modCore_nextTid : (s.modCore c f).nextTid = s.nextTid := rfl
@[simp] theorem State.modCore_nextId : (s.modCore c f).nextId = s.nextId := rfl
@[simp] theorem State.modCore_nextEnq : (s.modCore c f).nextEnq = s.nextEnq := rfl
@[simp] theorem State.modCore_pre : (s.modCore c f).pre = s.pre := rfl
@[simp] theorem State.modCore_flow : (s.modCore c f).flow = s.flow := rfl
end

/-! ### A partition changed. -/

section
variable (s : State) (p : Nat) (f : PartSt → PartSt)
@[simp] theorem State.modPart_ts : (s.modPart p f).ts = s.ts := rfl
@[simp] theorem State.modPart_skew : (s.modPart p f).skew = s.skew := rfl
@[simp] theorem State.modPart_cur : (s.modPart p f).cur = s.cur := rfl
@[simp] theorem State.modPart_threads : (s.modPart p f).threads = s.threads := rfl
@[simp] theorem State.modPart_cores : (s.modPart p f).cores = s.cores := rfl
@[simp] theorem State.modPart_pool : (s.modPart p f).pool = s.pool := rfl
@[simp] theorem State.modPart_hbm : (s.modPart p f).hbm = s.hbm := rfl
@[simp] theorem State.modPart_sys : (s.modPart p f).sys = s.sys := rfl
@[simp] theorem State.modPart_poolPoison : (s.modPart p f).poolPoison = s.poolPoison := rfl
@[simp] theorem State.modPart_hbmPoison : (s.modPart p f).hbmPoison = s.hbmPoison := rfl
@[simp] theorem State.modPart_accesses : (s.modPart p f).accesses = s.accesses := rfl
@[simp] theorem State.modPart_tlb : (s.modPart p f).tlb = s.tlb := rfl
@[simp] theorem State.modPart_ro : (s.modPart p f).ro = s.ro := rfl
@[simp] theorem State.modPart_roNext : (s.modPart p f).roNext = s.roNext := rfl
@[simp] theorem State.modPart_opens : (s.modPart p f).opens = s.opens := rfl
@[simp] theorem State.modPart_launches : (s.modPart p f).launches = s.launches := rfl
@[simp] theorem State.modPart_ended : (s.modPart p f).ended = s.ended := rfl
@[simp] theorem State.modPart_parts : (s.modPart p f).parts = f (s.part p) :: s.parts.filter fun x => x.part ≠ p := rfl
@[simp] theorem State.modPart_saved : (s.modPart p f).saved = s.saved := rfl
@[simp] theorem State.modPart_seams : (s.modPart p f).seams = s.seams := rfl
@[simp] theorem State.modPart_logBlocks : (s.modPart p f).logBlocks = s.logBlocks := rfl
@[simp] theorem State.modPart_copies : (s.modPart p f).copies = s.copies := rfl
@[simp] theorem State.modPart_sums : (s.modPart p f).sums = s.sums := rfl
@[simp] theorem State.modPart_measure : (s.modPart p f).measure = s.measure := rfl
@[simp] theorem State.modPart_invals : (s.modPart p f).invals = s.invals := rfl
@[simp] theorem State.modPart_kills : (s.modPart p f).kills = s.kills := rfl
@[simp] theorem State.modPart_revokedAt : (s.modPart p f).revokedAt = s.revokedAt := rfl
@[simp] theorem State.modPart_wnext : (s.modPart p f).wnext = s.wnext := rfl
@[simp] theorem State.modPart_vcyc : (s.modPart p f).vcyc = s.vcyc := rfl
@[simp] theorem State.modPart_budgets : (s.modPart p f).budgets = s.budgets := rfl
@[simp] theorem State.modPart_linksDown : (s.modPart p f).linksDown = s.linksDown := rfl
@[simp] theorem State.modPart_linksWait : (s.modPart p f).linksWait = s.linksWait := rfl
@[simp] theorem State.modPart_mxLast : (s.modPart p f).mxLast = s.mxLast := rfl
@[simp] theorem State.modPart_debugNotices : (s.modPart p f).debugNotices = s.debugNotices := rfl
@[simp] theorem State.modPart_imageVer : (s.modPart p f).imageVer = s.imageVer := rfl
@[simp] theorem State.modPart_pkgId : (s.modPart p f).pkgId = s.pkgId := rfl
@[simp] theorem State.modPart_quote : (s.modPart p f).quote = s.quote := rfl
@[simp] theorem State.modPart_agenda : (s.modPart p f).agenda = s.agenda := rfl
@[simp] theorem State.modPart_turns : (s.modPart p f).turns = s.turns := rfl
@[simp] theorem State.modPart_issue : (s.modPart p f).issue = s.issue := rfl
@[simp] theorem State.modPart_sched : (s.modPart p f).sched = s.sched := rfl
@[simp] theorem State.modPart_upsets : (s.modPart p f).upsets = s.upsets := rfl
@[simp] theorem State.modPart_ahead : (s.modPart p f).ahead = s.ahead := rfl
@[simp] theorem State.modPart_choices : (s.modPart p f).choices = s.choices := rfl
@[simp] theorem State.modPart_drawn : (s.modPart p f).drawn = s.drawn := rfl
@[simp] theorem State.modPart_freeNext : (s.modPart p f).freeNext = s.freeNext := rfl
@[simp] theorem State.modPart_nextTid : (s.modPart p f).nextTid = s.nextTid := rfl
@[simp] theorem State.modPart_nextId : (s.modPart p f).nextId = s.nextId := rfl
@[simp] theorem State.modPart_nextEnq : (s.modPart p f).nextEnq = s.nextEnq := rfl
@[simp] theorem State.modPart_pre : (s.modPart p f).pre = s.pre := rfl
@[simp] theorem State.modPart_flow : (s.modPart p f).flow = s.flow := rfl
end

/-! ### A Measure engine changed. -/

section
variable (s : State) (c : Nat) (f : Measure → Measure)
@[simp] theorem State.modMeasure_ts : (s.modMeasure c f).ts = s.ts := rfl
@[simp] theorem State.modMeasure_skew : (s.modMeasure c f).skew = s.skew := rfl
@[simp] theorem State.modMeasure_cur : (s.modMeasure c f).cur = s.cur := rfl
@[simp] theorem State.modMeasure_threads : (s.modMeasure c f).threads = s.threads := rfl
@[simp] theorem State.modMeasure_cores : (s.modMeasure c f).cores = s.cores := rfl
@[simp] theorem State.modMeasure_pool : (s.modMeasure c f).pool = s.pool := rfl
@[simp] theorem State.modMeasure_hbm : (s.modMeasure c f).hbm = s.hbm := rfl
@[simp] theorem State.modMeasure_sys : (s.modMeasure c f).sys = s.sys := rfl
@[simp] theorem State.modMeasure_poolPoison : (s.modMeasure c f).poolPoison = s.poolPoison := rfl
@[simp] theorem State.modMeasure_hbmPoison : (s.modMeasure c f).hbmPoison = s.hbmPoison := rfl
@[simp] theorem State.modMeasure_accesses : (s.modMeasure c f).accesses = s.accesses := rfl
@[simp] theorem State.modMeasure_tlb : (s.modMeasure c f).tlb = s.tlb := rfl
@[simp] theorem State.modMeasure_ro : (s.modMeasure c f).ro = s.ro := rfl
@[simp] theorem State.modMeasure_roNext : (s.modMeasure c f).roNext = s.roNext := rfl
@[simp] theorem State.modMeasure_opens : (s.modMeasure c f).opens = s.opens := rfl
@[simp] theorem State.modMeasure_launches : (s.modMeasure c f).launches = s.launches := rfl
@[simp] theorem State.modMeasure_ended : (s.modMeasure c f).ended = s.ended := rfl
@[simp] theorem State.modMeasure_parts : (s.modMeasure c f).parts = s.parts := rfl
@[simp] theorem State.modMeasure_saved : (s.modMeasure c f).saved = s.saved := rfl
@[simp] theorem State.modMeasure_seams : (s.modMeasure c f).seams = s.seams := rfl
@[simp] theorem State.modMeasure_logBlocks : (s.modMeasure c f).logBlocks = s.logBlocks := rfl
@[simp] theorem State.modMeasure_copies : (s.modMeasure c f).copies = s.copies := rfl
@[simp] theorem State.modMeasure_sums : (s.modMeasure c f).sums = s.sums := rfl
@[simp] theorem State.modMeasure_measure : (s.modMeasure c f).measure = f (s.measureOf c) :: s.measure.filter fun m => m.cluster ≠ c := rfl
@[simp] theorem State.modMeasure_invals : (s.modMeasure c f).invals = s.invals := rfl
@[simp] theorem State.modMeasure_kills : (s.modMeasure c f).kills = s.kills := rfl
@[simp] theorem State.modMeasure_revokedAt : (s.modMeasure c f).revokedAt = s.revokedAt := rfl
@[simp] theorem State.modMeasure_wnext : (s.modMeasure c f).wnext = s.wnext := rfl
@[simp] theorem State.modMeasure_vcyc : (s.modMeasure c f).vcyc = s.vcyc := rfl
@[simp] theorem State.modMeasure_budgets : (s.modMeasure c f).budgets = s.budgets := rfl
@[simp] theorem State.modMeasure_linksDown : (s.modMeasure c f).linksDown = s.linksDown := rfl
@[simp] theorem State.modMeasure_linksWait : (s.modMeasure c f).linksWait = s.linksWait := rfl
@[simp] theorem State.modMeasure_mxLast : (s.modMeasure c f).mxLast = s.mxLast := rfl
@[simp] theorem State.modMeasure_debugNotices : (s.modMeasure c f).debugNotices = s.debugNotices := rfl
@[simp] theorem State.modMeasure_imageVer : (s.modMeasure c f).imageVer = s.imageVer := rfl
@[simp] theorem State.modMeasure_pkgId : (s.modMeasure c f).pkgId = s.pkgId := rfl
@[simp] theorem State.modMeasure_quote : (s.modMeasure c f).quote = s.quote := rfl
@[simp] theorem State.modMeasure_agenda : (s.modMeasure c f).agenda = s.agenda := rfl
@[simp] theorem State.modMeasure_turns : (s.modMeasure c f).turns = s.turns := rfl
@[simp] theorem State.modMeasure_issue : (s.modMeasure c f).issue = s.issue := rfl
@[simp] theorem State.modMeasure_sched : (s.modMeasure c f).sched = s.sched := rfl
@[simp] theorem State.modMeasure_upsets : (s.modMeasure c f).upsets = s.upsets := rfl
@[simp] theorem State.modMeasure_ahead : (s.modMeasure c f).ahead = s.ahead := rfl
@[simp] theorem State.modMeasure_choices : (s.modMeasure c f).choices = s.choices := rfl
@[simp] theorem State.modMeasure_drawn : (s.modMeasure c f).drawn = s.drawn := rfl
@[simp] theorem State.modMeasure_freeNext : (s.modMeasure c f).freeNext = s.freeNext := rfl
@[simp] theorem State.modMeasure_nextTid : (s.modMeasure c f).nextTid = s.nextTid := rfl
@[simp] theorem State.modMeasure_nextId : (s.modMeasure c f).nextId = s.nextId := rfl
@[simp] theorem State.modMeasure_nextEnq : (s.modMeasure c f).nextEnq = s.nextEnq := rfl
@[simp] theorem State.modMeasure_pre : (s.modMeasure c f).pre = s.pre := rfl
@[simp] theorem State.modMeasure_flow : (s.modMeasure c f).flow = s.flow := rfl
end

/-! ### A number written to the pools. -/

section
variable (s : State) (a n v : Nat)
@[simp] theorem putPool_ts : (putPool s a n v).ts = s.ts := rfl
@[simp] theorem putPool_skew : (putPool s a n v).skew = s.skew := rfl
@[simp] theorem putPool_cur : (putPool s a n v).cur = s.cur := rfl
@[simp] theorem putPool_threads : (putPool s a n v).threads = s.threads := rfl
@[simp] theorem putPool_cores : (putPool s a n v).cores = s.cores := rfl
@[simp] theorem putPool_pool : (putPool s a n v).pool = s.pool.writeNat a n v := rfl
@[simp] theorem putPool_hbm : (putPool s a n v).hbm = s.hbm := rfl
@[simp] theorem putPool_sys : (putPool s a n v).sys = s.sys := rfl
@[simp] theorem putPool_poolPoison : (putPool s a n v).poolPoison = unpoison s.poolPoison a n := rfl
@[simp] theorem putPool_hbmPoison : (putPool s a n v).hbmPoison = s.hbmPoison := rfl
@[simp] theorem putPool_accesses : (putPool s a n v).accesses = s.accesses := rfl
@[simp] theorem putPool_tlb : (putPool s a n v).tlb = s.tlb := rfl
@[simp] theorem putPool_ro : (putPool s a n v).ro = s.ro := rfl
@[simp] theorem putPool_roNext : (putPool s a n v).roNext = s.roNext := rfl
@[simp] theorem putPool_opens : (putPool s a n v).opens = s.opens := rfl
@[simp] theorem putPool_launches : (putPool s a n v).launches = s.launches := rfl
@[simp] theorem putPool_ended : (putPool s a n v).ended = s.ended := rfl
@[simp] theorem putPool_parts : (putPool s a n v).parts = s.parts := rfl
@[simp] theorem putPool_saved : (putPool s a n v).saved = s.saved := rfl
@[simp] theorem putPool_seams : (putPool s a n v).seams = s.seams := rfl
@[simp] theorem putPool_logBlocks : (putPool s a n v).logBlocks = s.logBlocks := rfl
@[simp] theorem putPool_copies : (putPool s a n v).copies = s.copies := rfl
@[simp] theorem putPool_sums : (putPool s a n v).sums = s.sums := rfl
@[simp] theorem putPool_measure : (putPool s a n v).measure = s.measure := rfl
@[simp] theorem putPool_invals : (putPool s a n v).invals = s.invals := rfl
@[simp] theorem putPool_kills : (putPool s a n v).kills = s.kills := rfl
@[simp] theorem putPool_revokedAt : (putPool s a n v).revokedAt = s.revokedAt := rfl
@[simp] theorem putPool_wnext : (putPool s a n v).wnext = s.wnext := rfl
@[simp] theorem putPool_vcyc : (putPool s a n v).vcyc = s.vcyc := rfl
@[simp] theorem putPool_budgets : (putPool s a n v).budgets = s.budgets := rfl
@[simp] theorem putPool_linksDown : (putPool s a n v).linksDown = s.linksDown := rfl
@[simp] theorem putPool_linksWait : (putPool s a n v).linksWait = s.linksWait := rfl
@[simp] theorem putPool_mxLast : (putPool s a n v).mxLast = s.mxLast := rfl
@[simp] theorem putPool_debugNotices : (putPool s a n v).debugNotices = s.debugNotices := rfl
@[simp] theorem putPool_imageVer : (putPool s a n v).imageVer = s.imageVer := rfl
@[simp] theorem putPool_pkgId : (putPool s a n v).pkgId = s.pkgId := rfl
@[simp] theorem putPool_quote : (putPool s a n v).quote = s.quote := rfl
@[simp] theorem putPool_agenda : (putPool s a n v).agenda = s.agenda := rfl
@[simp] theorem putPool_turns : (putPool s a n v).turns = s.turns := rfl
@[simp] theorem putPool_issue : (putPool s a n v).issue = s.issue := rfl
@[simp] theorem putPool_sched : (putPool s a n v).sched = s.sched := rfl
@[simp] theorem putPool_upsets : (putPool s a n v).upsets = s.upsets := rfl
@[simp] theorem putPool_ahead : (putPool s a n v).ahead = s.ahead := rfl
@[simp] theorem putPool_choices : (putPool s a n v).choices = s.choices := rfl
@[simp] theorem putPool_drawn : (putPool s a n v).drawn = s.drawn := rfl
@[simp] theorem putPool_freeNext : (putPool s a n v).freeNext = s.freeNext := rfl
@[simp] theorem putPool_nextTid : (putPool s a n v).nextTid = s.nextTid := rfl
@[simp] theorem putPool_nextId : (putPool s a n v).nextId = s.nextId := rfl
@[simp] theorem putPool_nextEnq : (putPool s a n v).nextEnq = s.nextEnq := rfl
@[simp] theorem putPool_pre : (putPool s a n v).pre = s.pre := rfl
@[simp] theorem putPool_flow : (putPool s a n v).flow = s.flow := rfl
end

/-! ### Bytes written to the pools. -/

section
variable (s : State) (a : Nat) (l : List Byte)
@[simp] theorem putPoolBytes_ts : (putPoolBytes s a l).ts = s.ts := rfl
@[simp] theorem putPoolBytes_skew : (putPoolBytes s a l).skew = s.skew := rfl
@[simp] theorem putPoolBytes_cur : (putPoolBytes s a l).cur = s.cur := rfl
@[simp] theorem putPoolBytes_threads : (putPoolBytes s a l).threads = s.threads := rfl
@[simp] theorem putPoolBytes_cores : (putPoolBytes s a l).cores = s.cores := rfl
@[simp] theorem putPoolBytes_pool : (putPoolBytes s a l).pool = s.pool.writeBytes a l := rfl
@[simp] theorem putPoolBytes_hbm : (putPoolBytes s a l).hbm = s.hbm := rfl
@[simp] theorem putPoolBytes_sys : (putPoolBytes s a l).sys = s.sys := rfl
@[simp] theorem putPoolBytes_poolPoison : (putPoolBytes s a l).poolPoison = unpoison s.poolPoison a l.length := rfl
@[simp] theorem putPoolBytes_hbmPoison : (putPoolBytes s a l).hbmPoison = s.hbmPoison := rfl
@[simp] theorem putPoolBytes_accesses : (putPoolBytes s a l).accesses = s.accesses := rfl
@[simp] theorem putPoolBytes_tlb : (putPoolBytes s a l).tlb = s.tlb := rfl
@[simp] theorem putPoolBytes_ro : (putPoolBytes s a l).ro = s.ro := rfl
@[simp] theorem putPoolBytes_roNext : (putPoolBytes s a l).roNext = s.roNext := rfl
@[simp] theorem putPoolBytes_opens : (putPoolBytes s a l).opens = s.opens := rfl
@[simp] theorem putPoolBytes_launches : (putPoolBytes s a l).launches = s.launches := rfl
@[simp] theorem putPoolBytes_ended : (putPoolBytes s a l).ended = s.ended := rfl
@[simp] theorem putPoolBytes_parts : (putPoolBytes s a l).parts = s.parts := rfl
@[simp] theorem putPoolBytes_saved : (putPoolBytes s a l).saved = s.saved := rfl
@[simp] theorem putPoolBytes_seams : (putPoolBytes s a l).seams = s.seams := rfl
@[simp] theorem putPoolBytes_logBlocks : (putPoolBytes s a l).logBlocks = s.logBlocks := rfl
@[simp] theorem putPoolBytes_copies : (putPoolBytes s a l).copies = s.copies := rfl
@[simp] theorem putPoolBytes_sums : (putPoolBytes s a l).sums = s.sums := rfl
@[simp] theorem putPoolBytes_measure : (putPoolBytes s a l).measure = s.measure := rfl
@[simp] theorem putPoolBytes_invals : (putPoolBytes s a l).invals = s.invals := rfl
@[simp] theorem putPoolBytes_kills : (putPoolBytes s a l).kills = s.kills := rfl
@[simp] theorem putPoolBytes_revokedAt : (putPoolBytes s a l).revokedAt = s.revokedAt := rfl
@[simp] theorem putPoolBytes_wnext : (putPoolBytes s a l).wnext = s.wnext := rfl
@[simp] theorem putPoolBytes_vcyc : (putPoolBytes s a l).vcyc = s.vcyc := rfl
@[simp] theorem putPoolBytes_budgets : (putPoolBytes s a l).budgets = s.budgets := rfl
@[simp] theorem putPoolBytes_linksDown : (putPoolBytes s a l).linksDown = s.linksDown := rfl
@[simp] theorem putPoolBytes_linksWait : (putPoolBytes s a l).linksWait = s.linksWait := rfl
@[simp] theorem putPoolBytes_mxLast : (putPoolBytes s a l).mxLast = s.mxLast := rfl
@[simp] theorem putPoolBytes_debugNotices : (putPoolBytes s a l).debugNotices = s.debugNotices := rfl
@[simp] theorem putPoolBytes_imageVer : (putPoolBytes s a l).imageVer = s.imageVer := rfl
@[simp] theorem putPoolBytes_pkgId : (putPoolBytes s a l).pkgId = s.pkgId := rfl
@[simp] theorem putPoolBytes_quote : (putPoolBytes s a l).quote = s.quote := rfl
@[simp] theorem putPoolBytes_agenda : (putPoolBytes s a l).agenda = s.agenda := rfl
@[simp] theorem putPoolBytes_turns : (putPoolBytes s a l).turns = s.turns := rfl
@[simp] theorem putPoolBytes_issue : (putPoolBytes s a l).issue = s.issue := rfl
@[simp] theorem putPoolBytes_sched : (putPoolBytes s a l).sched = s.sched := rfl
@[simp] theorem putPoolBytes_upsets : (putPoolBytes s a l).upsets = s.upsets := rfl
@[simp] theorem putPoolBytes_ahead : (putPoolBytes s a l).ahead = s.ahead := rfl
@[simp] theorem putPoolBytes_choices : (putPoolBytes s a l).choices = s.choices := rfl
@[simp] theorem putPoolBytes_drawn : (putPoolBytes s a l).drawn = s.drawn := rfl
@[simp] theorem putPoolBytes_freeNext : (putPoolBytes s a l).freeNext = s.freeNext := rfl
@[simp] theorem putPoolBytes_nextTid : (putPoolBytes s a l).nextTid = s.nextTid := rfl
@[simp] theorem putPoolBytes_nextId : (putPoolBytes s a l).nextId = s.nextId := rfl
@[simp] theorem putPoolBytes_nextEnq : (putPoolBytes s a l).nextEnq = s.nextEnq := rfl
@[simp] theorem putPoolBytes_pre : (putPoolBytes s a l).pre = s.pre := rfl
@[simp] theorem putPoolBytes_flow : (putPoolBytes s a l).flow = s.flow := rfl
end

/-! ### An access in flight changed. -/

section
variable (s : State) (id : Nat) (f : Access → Access)
@[simp] theorem modAccess_ts : (modAccess s id f).ts = s.ts := rfl
@[simp] theorem modAccess_skew : (modAccess s id f).skew = s.skew := rfl
@[simp] theorem modAccess_cur : (modAccess s id f).cur = s.cur := rfl
@[simp] theorem modAccess_threads : (modAccess s id f).threads = s.threads := rfl
@[simp] theorem modAccess_cores : (modAccess s id f).cores = s.cores := rfl
@[simp] theorem modAccess_pool : (modAccess s id f).pool = s.pool := rfl
@[simp] theorem modAccess_hbm : (modAccess s id f).hbm = s.hbm := rfl
@[simp] theorem modAccess_sys : (modAccess s id f).sys = s.sys := rfl
@[simp] theorem modAccess_poolPoison : (modAccess s id f).poolPoison = s.poolPoison := rfl
@[simp] theorem modAccess_hbmPoison : (modAccess s id f).hbmPoison = s.hbmPoison := rfl
@[simp] theorem modAccess_accesses : (modAccess s id f).accesses = s.accesses.map fun a => if a.id = id then f a else a := rfl
@[simp] theorem modAccess_tlb : (modAccess s id f).tlb = s.tlb := rfl
@[simp] theorem modAccess_ro : (modAccess s id f).ro = s.ro := rfl
@[simp] theorem modAccess_roNext : (modAccess s id f).roNext = s.roNext := rfl
@[simp] theorem modAccess_opens : (modAccess s id f).opens = s.opens := rfl
@[simp] theorem modAccess_launches : (modAccess s id f).launches = s.launches := rfl
@[simp] theorem modAccess_ended : (modAccess s id f).ended = s.ended := rfl
@[simp] theorem modAccess_parts : (modAccess s id f).parts = s.parts := rfl
@[simp] theorem modAccess_saved : (modAccess s id f).saved = s.saved := rfl
@[simp] theorem modAccess_seams : (modAccess s id f).seams = s.seams := rfl
@[simp] theorem modAccess_logBlocks : (modAccess s id f).logBlocks = s.logBlocks := rfl
@[simp] theorem modAccess_copies : (modAccess s id f).copies = s.copies := rfl
@[simp] theorem modAccess_sums : (modAccess s id f).sums = s.sums := rfl
@[simp] theorem modAccess_measure : (modAccess s id f).measure = s.measure := rfl
@[simp] theorem modAccess_invals : (modAccess s id f).invals = s.invals := rfl
@[simp] theorem modAccess_kills : (modAccess s id f).kills = s.kills := rfl
@[simp] theorem modAccess_revokedAt : (modAccess s id f).revokedAt = s.revokedAt := rfl
@[simp] theorem modAccess_wnext : (modAccess s id f).wnext = s.wnext := rfl
@[simp] theorem modAccess_vcyc : (modAccess s id f).vcyc = s.vcyc := rfl
@[simp] theorem modAccess_budgets : (modAccess s id f).budgets = s.budgets := rfl
@[simp] theorem modAccess_linksDown : (modAccess s id f).linksDown = s.linksDown := rfl
@[simp] theorem modAccess_linksWait : (modAccess s id f).linksWait = s.linksWait := rfl
@[simp] theorem modAccess_mxLast : (modAccess s id f).mxLast = s.mxLast := rfl
@[simp] theorem modAccess_debugNotices : (modAccess s id f).debugNotices = s.debugNotices := rfl
@[simp] theorem modAccess_imageVer : (modAccess s id f).imageVer = s.imageVer := rfl
@[simp] theorem modAccess_pkgId : (modAccess s id f).pkgId = s.pkgId := rfl
@[simp] theorem modAccess_quote : (modAccess s id f).quote = s.quote := rfl
@[simp] theorem modAccess_agenda : (modAccess s id f).agenda = s.agenda := rfl
@[simp] theorem modAccess_turns : (modAccess s id f).turns = s.turns := rfl
@[simp] theorem modAccess_issue : (modAccess s id f).issue = s.issue := rfl
@[simp] theorem modAccess_sched : (modAccess s id f).sched = s.sched := rfl
@[simp] theorem modAccess_upsets : (modAccess s id f).upsets = s.upsets := rfl
@[simp] theorem modAccess_ahead : (modAccess s id f).ahead = s.ahead := rfl
@[simp] theorem modAccess_choices : (modAccess s id f).choices = s.choices := rfl
@[simp] theorem modAccess_drawn : (modAccess s id f).drawn = s.drawn := rfl
@[simp] theorem modAccess_freeNext : (modAccess s id f).freeNext = s.freeNext := rfl
@[simp] theorem modAccess_nextTid : (modAccess s id f).nextTid = s.nextTid := rfl
@[simp] theorem modAccess_nextId : (modAccess s id f).nextId = s.nextId := rfl
@[simp] theorem modAccess_nextEnq : (modAccess s id f).nextEnq = s.nextEnq := rfl
@[simp] theorem modAccess_pre : (modAccess s id f).pre = s.pre := rfl
@[simp] theorem modAccess_flow : (modAccess s id f).flow = s.flow := rfl
end

/-! ### Turns forfeited. -/

section
variable (s : State) (n : Nat)
@[simp] theorem forfeits_ts : (forfeits n s).ts = s.ts := rfl
@[simp] theorem forfeits_skew : (forfeits n s).skew = s.skew := rfl
@[simp] theorem forfeits_cur : (forfeits n s).cur = { s.cur with forfeit := s.cur.forfeit + n } := rfl
@[simp] theorem forfeits_threads : (forfeits n s).threads = s.threads := rfl
@[simp] theorem forfeits_cores : (forfeits n s).cores = s.cores := rfl
@[simp] theorem forfeits_pool : (forfeits n s).pool = s.pool := rfl
@[simp] theorem forfeits_hbm : (forfeits n s).hbm = s.hbm := rfl
@[simp] theorem forfeits_sys : (forfeits n s).sys = s.sys := rfl
@[simp] theorem forfeits_poolPoison : (forfeits n s).poolPoison = s.poolPoison := rfl
@[simp] theorem forfeits_hbmPoison : (forfeits n s).hbmPoison = s.hbmPoison := rfl
@[simp] theorem forfeits_accesses : (forfeits n s).accesses = s.accesses := rfl
@[simp] theorem forfeits_tlb : (forfeits n s).tlb = s.tlb := rfl
@[simp] theorem forfeits_ro : (forfeits n s).ro = s.ro := rfl
@[simp] theorem forfeits_roNext : (forfeits n s).roNext = s.roNext := rfl
@[simp] theorem forfeits_opens : (forfeits n s).opens = s.opens := rfl
@[simp] theorem forfeits_launches : (forfeits n s).launches = s.launches := rfl
@[simp] theorem forfeits_ended : (forfeits n s).ended = s.ended := rfl
@[simp] theorem forfeits_parts : (forfeits n s).parts = s.parts := rfl
@[simp] theorem forfeits_saved : (forfeits n s).saved = s.saved := rfl
@[simp] theorem forfeits_seams : (forfeits n s).seams = s.seams := rfl
@[simp] theorem forfeits_logBlocks : (forfeits n s).logBlocks = s.logBlocks := rfl
@[simp] theorem forfeits_copies : (forfeits n s).copies = s.copies := rfl
@[simp] theorem forfeits_sums : (forfeits n s).sums = s.sums := rfl
@[simp] theorem forfeits_measure : (forfeits n s).measure = s.measure := rfl
@[simp] theorem forfeits_invals : (forfeits n s).invals = s.invals := rfl
@[simp] theorem forfeits_kills : (forfeits n s).kills = s.kills := rfl
@[simp] theorem forfeits_revokedAt : (forfeits n s).revokedAt = s.revokedAt := rfl
@[simp] theorem forfeits_wnext : (forfeits n s).wnext = s.wnext := rfl
@[simp] theorem forfeits_vcyc : (forfeits n s).vcyc = s.vcyc := rfl
@[simp] theorem forfeits_budgets : (forfeits n s).budgets = s.budgets := rfl
@[simp] theorem forfeits_linksDown : (forfeits n s).linksDown = s.linksDown := rfl
@[simp] theorem forfeits_linksWait : (forfeits n s).linksWait = s.linksWait := rfl
@[simp] theorem forfeits_mxLast : (forfeits n s).mxLast = s.mxLast := rfl
@[simp] theorem forfeits_debugNotices : (forfeits n s).debugNotices = s.debugNotices := rfl
@[simp] theorem forfeits_imageVer : (forfeits n s).imageVer = s.imageVer := rfl
@[simp] theorem forfeits_pkgId : (forfeits n s).pkgId = s.pkgId := rfl
@[simp] theorem forfeits_quote : (forfeits n s).quote = s.quote := rfl
@[simp] theorem forfeits_agenda : (forfeits n s).agenda = s.agenda := rfl
@[simp] theorem forfeits_turns : (forfeits n s).turns = s.turns := rfl
@[simp] theorem forfeits_issue : (forfeits n s).issue = s.issue := rfl
@[simp] theorem forfeits_sched : (forfeits n s).sched = s.sched := rfl
@[simp] theorem forfeits_upsets : (forfeits n s).upsets = s.upsets := rfl
@[simp] theorem forfeits_ahead : (forfeits n s).ahead = s.ahead := rfl
@[simp] theorem forfeits_choices : (forfeits n s).choices = s.choices := rfl
@[simp] theorem forfeits_drawn : (forfeits n s).drawn = s.drawn := rfl
@[simp] theorem forfeits_freeNext : (forfeits n s).freeNext = s.freeNext := rfl
@[simp] theorem forfeits_nextTid : (forfeits n s).nextTid = s.nextTid := rfl
@[simp] theorem forfeits_nextId : (forfeits n s).nextId = s.nextId := rfl
@[simp] theorem forfeits_nextEnq : (forfeits n s).nextEnq = s.nextEnq := rfl
@[simp] theorem forfeits_pre : (forfeits n s).pre = s.pre := rfl
@[simp] theorem forfeits_flow : (forfeits n s).flow = s.flow := rfl
end

/-! ### A bundle that waits. -/

section
variable (s : State) (w : Wait)
@[simp] theorem stall_ts : (stall s w).ts = s.ts := rfl
@[simp] theorem stall_skew : (stall s w).skew = s.skew := rfl
@[simp] theorem stall_cur : (stall s w).cur = { s.cur with npc := s.cur.pc, wait := some w, waitFrom := if s.cur.wait.isSome then s.cur.waitFrom else s.ts } := rfl
@[simp] theorem stall_threads : (stall s w).threads = s.threads := rfl
@[simp] theorem stall_cores : (stall s w).cores = s.cores := rfl
@[simp] theorem stall_pool : (stall s w).pool = s.pool := rfl
@[simp] theorem stall_hbm : (stall s w).hbm = s.hbm := rfl
@[simp] theorem stall_sys : (stall s w).sys = s.sys := rfl
@[simp] theorem stall_poolPoison : (stall s w).poolPoison = s.poolPoison := rfl
@[simp] theorem stall_hbmPoison : (stall s w).hbmPoison = s.hbmPoison := rfl
@[simp] theorem stall_accesses : (stall s w).accesses = s.accesses := rfl
@[simp] theorem stall_tlb : (stall s w).tlb = s.tlb := rfl
@[simp] theorem stall_ro : (stall s w).ro = s.ro := rfl
@[simp] theorem stall_roNext : (stall s w).roNext = s.roNext := rfl
@[simp] theorem stall_opens : (stall s w).opens = s.opens := rfl
@[simp] theorem stall_launches : (stall s w).launches = s.launches := rfl
@[simp] theorem stall_ended : (stall s w).ended = s.ended := rfl
@[simp] theorem stall_parts : (stall s w).parts = s.parts := rfl
@[simp] theorem stall_saved : (stall s w).saved = s.saved := rfl
@[simp] theorem stall_seams : (stall s w).seams = s.seams := rfl
@[simp] theorem stall_logBlocks : (stall s w).logBlocks = s.logBlocks := rfl
@[simp] theorem stall_copies : (stall s w).copies = s.copies := rfl
@[simp] theorem stall_sums : (stall s w).sums = s.sums := rfl
@[simp] theorem stall_measure : (stall s w).measure = s.measure := rfl
@[simp] theorem stall_invals : (stall s w).invals = s.invals := rfl
@[simp] theorem stall_kills : (stall s w).kills = s.kills := rfl
@[simp] theorem stall_revokedAt : (stall s w).revokedAt = s.revokedAt := rfl
@[simp] theorem stall_wnext : (stall s w).wnext = s.wnext := rfl
@[simp] theorem stall_vcyc : (stall s w).vcyc = s.vcyc := rfl
@[simp] theorem stall_budgets : (stall s w).budgets = s.budgets := rfl
@[simp] theorem stall_linksDown : (stall s w).linksDown = s.linksDown := rfl
@[simp] theorem stall_linksWait : (stall s w).linksWait = s.linksWait := rfl
@[simp] theorem stall_mxLast : (stall s w).mxLast = s.mxLast := rfl
@[simp] theorem stall_debugNotices : (stall s w).debugNotices = s.debugNotices := rfl
@[simp] theorem stall_imageVer : (stall s w).imageVer = s.imageVer := rfl
@[simp] theorem stall_pkgId : (stall s w).pkgId = s.pkgId := rfl
@[simp] theorem stall_quote : (stall s w).quote = s.quote := rfl
@[simp] theorem stall_agenda : (stall s w).agenda = s.agenda := rfl
@[simp] theorem stall_turns : (stall s w).turns = s.turns := rfl
@[simp] theorem stall_issue : (stall s w).issue = s.issue := rfl
@[simp] theorem stall_sched : (stall s w).sched = s.sched := rfl
@[simp] theorem stall_upsets : (stall s w).upsets = s.upsets := rfl
@[simp] theorem stall_ahead : (stall s w).ahead = s.ahead := rfl
@[simp] theorem stall_choices : (stall s w).choices = s.choices := rfl
@[simp] theorem stall_drawn : (stall s w).drawn = s.drawn := rfl
@[simp] theorem stall_freeNext : (stall s w).freeNext = s.freeNext := rfl
@[simp] theorem stall_nextTid : (stall s w).nextTid = s.nextTid := rfl
@[simp] theorem stall_nextId : (stall s w).nextId = s.nextId := rfl
@[simp] theorem stall_nextEnq : (stall s w).nextEnq = s.nextEnq := rfl
@[simp] theorem stall_pre : (stall s w).pre = s.pre := rfl
@[simp] theorem stall_flow : (stall s w).flow = .stalled := rfl
end

/-! ### A bundle that issues again later. -/

section
variable (s : State)
@[simp] theorem retry_ts : (retry s).ts = s.ts := rfl
@[simp] theorem retry_skew : (retry s).skew = s.skew := rfl
@[simp] theorem retry_cur : (retry s).cur = { s.cur with npc := s.cur.pc } := rfl
@[simp] theorem retry_threads : (retry s).threads = s.threads := rfl
@[simp] theorem retry_cores : (retry s).cores = s.cores := rfl
@[simp] theorem retry_pool : (retry s).pool = s.pool := rfl
@[simp] theorem retry_hbm : (retry s).hbm = s.hbm := rfl
@[simp] theorem retry_sys : (retry s).sys = s.sys := rfl
@[simp] theorem retry_poolPoison : (retry s).poolPoison = s.poolPoison := rfl
@[simp] theorem retry_hbmPoison : (retry s).hbmPoison = s.hbmPoison := rfl
@[simp] theorem retry_accesses : (retry s).accesses = s.accesses := rfl
@[simp] theorem retry_tlb : (retry s).tlb = s.tlb := rfl
@[simp] theorem retry_ro : (retry s).ro = s.ro := rfl
@[simp] theorem retry_roNext : (retry s).roNext = s.roNext := rfl
@[simp] theorem retry_opens : (retry s).opens = s.opens := rfl
@[simp] theorem retry_launches : (retry s).launches = s.launches := rfl
@[simp] theorem retry_ended : (retry s).ended = s.ended := rfl
@[simp] theorem retry_parts : (retry s).parts = s.parts := rfl
@[simp] theorem retry_saved : (retry s).saved = s.saved := rfl
@[simp] theorem retry_seams : (retry s).seams = s.seams := rfl
@[simp] theorem retry_logBlocks : (retry s).logBlocks = s.logBlocks := rfl
@[simp] theorem retry_copies : (retry s).copies = s.copies := rfl
@[simp] theorem retry_sums : (retry s).sums = s.sums := rfl
@[simp] theorem retry_measure : (retry s).measure = s.measure := rfl
@[simp] theorem retry_invals : (retry s).invals = s.invals := rfl
@[simp] theorem retry_kills : (retry s).kills = s.kills := rfl
@[simp] theorem retry_revokedAt : (retry s).revokedAt = s.revokedAt := rfl
@[simp] theorem retry_wnext : (retry s).wnext = s.wnext := rfl
@[simp] theorem retry_vcyc : (retry s).vcyc = s.vcyc := rfl
@[simp] theorem retry_budgets : (retry s).budgets = s.budgets := rfl
@[simp] theorem retry_linksDown : (retry s).linksDown = s.linksDown := rfl
@[simp] theorem retry_linksWait : (retry s).linksWait = s.linksWait := rfl
@[simp] theorem retry_mxLast : (retry s).mxLast = s.mxLast := rfl
@[simp] theorem retry_debugNotices : (retry s).debugNotices = s.debugNotices := rfl
@[simp] theorem retry_imageVer : (retry s).imageVer = s.imageVer := rfl
@[simp] theorem retry_pkgId : (retry s).pkgId = s.pkgId := rfl
@[simp] theorem retry_quote : (retry s).quote = s.quote := rfl
@[simp] theorem retry_agenda : (retry s).agenda = s.agenda := rfl
@[simp] theorem retry_turns : (retry s).turns = s.turns := rfl
@[simp] theorem retry_issue : (retry s).issue = s.issue := rfl
@[simp] theorem retry_sched : (retry s).sched = s.sched := rfl
@[simp] theorem retry_upsets : (retry s).upsets = s.upsets := rfl
@[simp] theorem retry_ahead : (retry s).ahead = s.ahead := rfl
@[simp] theorem retry_choices : (retry s).choices = s.choices := rfl
@[simp] theorem retry_drawn : (retry s).drawn = s.drawn := rfl
@[simp] theorem retry_freeNext : (retry s).freeNext = s.freeNext := rfl
@[simp] theorem retry_nextTid : (retry s).nextTid = s.nextTid := rfl
@[simp] theorem retry_nextId : (retry s).nextId = s.nextId := rfl
@[simp] theorem retry_nextEnq : (retry s).nextEnq = s.nextEnq := rfl
@[simp] theorem retry_pre : (retry s).pre = s.pre := rfl
@[simp] theorem retry_flow : (retry s).flow = .stalled := rfl
end

/-! ### Updates that depend on which thread or register they name -/

section
variable (s : State)
@[simp] theorem State.modThread_ts (n : Nat) (f : Thread → Thread) : (s.modThread n f).ts = s.ts := by
  unfold State.modThread; split <;> rfl
@[simp] theorem State.modThread_skew (n : Nat) (f : Thread → Thread) : (s.modThread n f).skew = s.skew := by
  unfold State.modThread; split <;> rfl
@[simp] theorem State.modThread_cores (n : Nat) (f : Thread → Thread) : (s.modThread n f).cores = s.cores := by
  unfold State.modThread; split <;> rfl
@[simp] theorem State.modThread_pool (n : Nat) (f : Thread → Thread) : (s.modThread n f).pool = s.pool := by
  unfold State.modThread; split <;> rfl
@[simp] theorem State.modThread_hbm (n : Nat) (f : Thread → Thread) : (s.modThread n f).hbm = s.hbm := by
  unfold State.modThread; split <;> rfl
@[simp] theorem State.modThread_sys (n : Nat) (f : Thread → Thread) : (s.modThread n f).sys = s.sys := by
  unfold State.modThread; split <;> rfl
@[simp] theorem State.modThread_poolPoison (n : Nat) (f : Thread → Thread) : (s.modThread n f).poolPoison = s.poolPoison := by
  unfold State.modThread; split <;> rfl
@[simp] theorem State.modThread_hbmPoison (n : Nat) (f : Thread → Thread) : (s.modThread n f).hbmPoison = s.hbmPoison := by
  unfold State.modThread; split <;> rfl
@[simp] theorem State.modThread_accesses (n : Nat) (f : Thread → Thread) : (s.modThread n f).accesses = s.accesses := by
  unfold State.modThread; split <;> rfl
@[simp] theorem State.modThread_tlb (n : Nat) (f : Thread → Thread) : (s.modThread n f).tlb = s.tlb := by
  unfold State.modThread; split <;> rfl
@[simp] theorem State.modThread_ro (n : Nat) (f : Thread → Thread) : (s.modThread n f).ro = s.ro := by
  unfold State.modThread; split <;> rfl
@[simp] theorem State.modThread_roNext (n : Nat) (f : Thread → Thread) : (s.modThread n f).roNext = s.roNext := by
  unfold State.modThread; split <;> rfl
@[simp] theorem State.modThread_opens (n : Nat) (f : Thread → Thread) : (s.modThread n f).opens = s.opens := by
  unfold State.modThread; split <;> rfl
@[simp] theorem State.modThread_launches (n : Nat) (f : Thread → Thread) : (s.modThread n f).launches = s.launches := by
  unfold State.modThread; split <;> rfl
@[simp] theorem State.modThread_ended (n : Nat) (f : Thread → Thread) : (s.modThread n f).ended = s.ended := by
  unfold State.modThread; split <;> rfl
@[simp] theorem State.modThread_parts (n : Nat) (f : Thread → Thread) : (s.modThread n f).parts = s.parts := by
  unfold State.modThread; split <;> rfl
@[simp] theorem State.modThread_saved (n : Nat) (f : Thread → Thread) : (s.modThread n f).saved = s.saved := by
  unfold State.modThread; split <;> rfl
@[simp] theorem State.modThread_seams (n : Nat) (f : Thread → Thread) : (s.modThread n f).seams = s.seams := by
  unfold State.modThread; split <;> rfl
@[simp] theorem State.modThread_logBlocks (n : Nat) (f : Thread → Thread) : (s.modThread n f).logBlocks = s.logBlocks := by
  unfold State.modThread; split <;> rfl
@[simp] theorem State.modThread_copies (n : Nat) (f : Thread → Thread) : (s.modThread n f).copies = s.copies := by
  unfold State.modThread; split <;> rfl
@[simp] theorem State.modThread_sums (n : Nat) (f : Thread → Thread) : (s.modThread n f).sums = s.sums := by
  unfold State.modThread; split <;> rfl
@[simp] theorem State.modThread_measure (n : Nat) (f : Thread → Thread) : (s.modThread n f).measure = s.measure := by
  unfold State.modThread; split <;> rfl
@[simp] theorem State.modThread_invals (n : Nat) (f : Thread → Thread) : (s.modThread n f).invals = s.invals := by
  unfold State.modThread; split <;> rfl
@[simp] theorem State.modThread_kills (n : Nat) (f : Thread → Thread) : (s.modThread n f).kills = s.kills := by
  unfold State.modThread; split <;> rfl
@[simp] theorem State.modThread_revokedAt (n : Nat) (f : Thread → Thread) : (s.modThread n f).revokedAt = s.revokedAt := by
  unfold State.modThread; split <;> rfl
@[simp] theorem State.modThread_wnext (n : Nat) (f : Thread → Thread) : (s.modThread n f).wnext = s.wnext := by
  unfold State.modThread; split <;> rfl
@[simp] theorem State.modThread_vcyc (n : Nat) (f : Thread → Thread) : (s.modThread n f).vcyc = s.vcyc := by
  unfold State.modThread; split <;> rfl
@[simp] theorem State.modThread_budgets (n : Nat) (f : Thread → Thread) : (s.modThread n f).budgets = s.budgets := by
  unfold State.modThread; split <;> rfl
@[simp] theorem State.modThread_linksDown (n : Nat) (f : Thread → Thread) : (s.modThread n f).linksDown = s.linksDown := by
  unfold State.modThread; split <;> rfl
@[simp] theorem State.modThread_linksWait (n : Nat) (f : Thread → Thread) : (s.modThread n f).linksWait = s.linksWait := by
  unfold State.modThread; split <;> rfl
@[simp] theorem State.modThread_mxLast (n : Nat) (f : Thread → Thread) : (s.modThread n f).mxLast = s.mxLast := by
  unfold State.modThread; split <;> rfl
@[simp] theorem State.modThread_debugNotices (n : Nat) (f : Thread → Thread) : (s.modThread n f).debugNotices = s.debugNotices := by
  unfold State.modThread; split <;> rfl
@[simp] theorem State.modThread_imageVer (n : Nat) (f : Thread → Thread) : (s.modThread n f).imageVer = s.imageVer := by
  unfold State.modThread; split <;> rfl
@[simp] theorem State.modThread_pkgId (n : Nat) (f : Thread → Thread) : (s.modThread n f).pkgId = s.pkgId := by
  unfold State.modThread; split <;> rfl
@[simp] theorem State.modThread_quote (n : Nat) (f : Thread → Thread) : (s.modThread n f).quote = s.quote := by
  unfold State.modThread; split <;> rfl
@[simp] theorem State.modThread_agenda (n : Nat) (f : Thread → Thread) : (s.modThread n f).agenda = s.agenda := by
  unfold State.modThread; split <;> rfl
@[simp] theorem State.modThread_turns (n : Nat) (f : Thread → Thread) : (s.modThread n f).turns = s.turns := by
  unfold State.modThread; split <;> rfl
@[simp] theorem State.modThread_issue (n : Nat) (f : Thread → Thread) : (s.modThread n f).issue = s.issue := by
  unfold State.modThread; split <;> rfl
@[simp] theorem State.modThread_sched (n : Nat) (f : Thread → Thread) : (s.modThread n f).sched = s.sched := by
  unfold State.modThread; split <;> rfl
@[simp] theorem State.modThread_upsets (n : Nat) (f : Thread → Thread) : (s.modThread n f).upsets = s.upsets := by
  unfold State.modThread; split <;> rfl
@[simp] theorem State.modThread_ahead (n : Nat) (f : Thread → Thread) : (s.modThread n f).ahead = s.ahead := by
  unfold State.modThread; split <;> rfl
@[simp] theorem State.modThread_choices (n : Nat) (f : Thread → Thread) : (s.modThread n f).choices = s.choices := by
  unfold State.modThread; split <;> rfl
@[simp] theorem State.modThread_drawn (n : Nat) (f : Thread → Thread) : (s.modThread n f).drawn = s.drawn := by
  unfold State.modThread; split <;> rfl
@[simp] theorem State.modThread_freeNext (n : Nat) (f : Thread → Thread) : (s.modThread n f).freeNext = s.freeNext := by
  unfold State.modThread; split <;> rfl
@[simp] theorem State.modThread_nextTid (n : Nat) (f : Thread → Thread) : (s.modThread n f).nextTid = s.nextTid := by
  unfold State.modThread; split <;> rfl
@[simp] theorem State.modThread_nextId (n : Nat) (f : Thread → Thread) : (s.modThread n f).nextId = s.nextId := by
  unfold State.modThread; split <;> rfl
@[simp] theorem State.modThread_nextEnq (n : Nat) (f : Thread → Thread) : (s.modThread n f).nextEnq = s.nextEnq := by
  unfold State.modThread; split <;> rfl
@[simp] theorem State.modThread_pre (n : Nat) (f : Thread → Thread) : (s.modThread n f).pre = s.pre := by
  unfold State.modThread; split <;> rfl
@[simp] theorem State.modThread_flow (n : Nat) (f : Thread → Thread) : (s.modThread n f).flow = s.flow := by
  unfold State.modThread; split <;> rfl
@[simp] theorem setX_ts (n : Nat) (v : W64) : (setX s n v).ts = s.ts := by unfold setX; split <;> rfl
@[simp] theorem setX_skew (n : Nat) (v : W64) : (setX s n v).skew = s.skew := by unfold setX; split <;> rfl
@[simp] theorem setX_cur (n : Nat) (v : W64) : (setX s n v).cur = s.cur := by unfold setX; split <;> rfl
@[simp] theorem setX_threads (n : Nat) (v : W64) : (setX s n v).threads = s.threads := by unfold setX; split <;> rfl
@[simp] theorem setX_cores (n : Nat) (v : W64) : (setX s n v).cores = s.cores := by unfold setX; split <;> rfl
@[simp] theorem setX_hbm (n : Nat) (v : W64) : (setX s n v).hbm = s.hbm := by unfold setX; split <;> rfl
@[simp] theorem setX_sys (n : Nat) (v : W64) : (setX s n v).sys = s.sys := by unfold setX; split <;> rfl
@[simp] theorem setX_hbmPoison (n : Nat) (v : W64) : (setX s n v).hbmPoison = s.hbmPoison := by unfold setX; split <;> rfl
@[simp] theorem setX_accesses (n : Nat) (v : W64) : (setX s n v).accesses = s.accesses := by unfold setX; split <;> rfl
@[simp] theorem setX_tlb (n : Nat) (v : W64) : (setX s n v).tlb = s.tlb := by unfold setX; split <;> rfl
@[simp] theorem setX_ro (n : Nat) (v : W64) : (setX s n v).ro = s.ro := by unfold setX; split <;> rfl
@[simp] theorem setX_roNext (n : Nat) (v : W64) : (setX s n v).roNext = s.roNext := by unfold setX; split <;> rfl
@[simp] theorem setX_opens (n : Nat) (v : W64) : (setX s n v).opens = s.opens := by unfold setX; split <;> rfl
@[simp] theorem setX_launches (n : Nat) (v : W64) : (setX s n v).launches = s.launches := by unfold setX; split <;> rfl
@[simp] theorem setX_ended (n : Nat) (v : W64) : (setX s n v).ended = s.ended := by unfold setX; split <;> rfl
@[simp] theorem setX_parts (n : Nat) (v : W64) : (setX s n v).parts = s.parts := by unfold setX; split <;> rfl
@[simp] theorem setX_saved (n : Nat) (v : W64) : (setX s n v).saved = s.saved := by unfold setX; split <;> rfl
@[simp] theorem setX_seams (n : Nat) (v : W64) : (setX s n v).seams = s.seams := by unfold setX; split <;> rfl
@[simp] theorem setX_logBlocks (n : Nat) (v : W64) : (setX s n v).logBlocks = s.logBlocks := by unfold setX; split <;> rfl
@[simp] theorem setX_copies (n : Nat) (v : W64) : (setX s n v).copies = s.copies := by unfold setX; split <;> rfl
@[simp] theorem setX_sums (n : Nat) (v : W64) : (setX s n v).sums = s.sums := by unfold setX; split <;> rfl
@[simp] theorem setX_measure (n : Nat) (v : W64) : (setX s n v).measure = s.measure := by unfold setX; split <;> rfl
@[simp] theorem setX_invals (n : Nat) (v : W64) : (setX s n v).invals = s.invals := by unfold setX; split <;> rfl
@[simp] theorem setX_kills (n : Nat) (v : W64) : (setX s n v).kills = s.kills := by unfold setX; split <;> rfl
@[simp] theorem setX_revokedAt (n : Nat) (v : W64) : (setX s n v).revokedAt = s.revokedAt := by unfold setX; split <;> rfl
@[simp] theorem setX_wnext (n : Nat) (v : W64) : (setX s n v).wnext = s.wnext := by unfold setX; split <;> rfl
@[simp] theorem setX_vcyc (n : Nat) (v : W64) : (setX s n v).vcyc = s.vcyc := by unfold setX; split <;> rfl
@[simp] theorem setX_budgets (n : Nat) (v : W64) : (setX s n v).budgets = s.budgets := by unfold setX; split <;> rfl
@[simp] theorem setX_linksDown (n : Nat) (v : W64) : (setX s n v).linksDown = s.linksDown := by unfold setX; split <;> rfl
@[simp] theorem setX_linksWait (n : Nat) (v : W64) : (setX s n v).linksWait = s.linksWait := by unfold setX; split <;> rfl
@[simp] theorem setX_mxLast (n : Nat) (v : W64) : (setX s n v).mxLast = s.mxLast := by unfold setX; split <;> rfl
@[simp] theorem setX_debugNotices (n : Nat) (v : W64) : (setX s n v).debugNotices = s.debugNotices := by unfold setX; split <;> rfl
@[simp] theorem setX_imageVer (n : Nat) (v : W64) : (setX s n v).imageVer = s.imageVer := by unfold setX; split <;> rfl
@[simp] theorem setX_pkgId (n : Nat) (v : W64) : (setX s n v).pkgId = s.pkgId := by unfold setX; split <;> rfl
@[simp] theorem setX_quote (n : Nat) (v : W64) : (setX s n v).quote = s.quote := by unfold setX; split <;> rfl
@[simp] theorem setX_agenda (n : Nat) (v : W64) : (setX s n v).agenda = s.agenda := by unfold setX; split <;> rfl
@[simp] theorem setX_turns (n : Nat) (v : W64) : (setX s n v).turns = s.turns := by unfold setX; split <;> rfl
@[simp] theorem setX_issue (n : Nat) (v : W64) : (setX s n v).issue = s.issue := by unfold setX; split <;> rfl
@[simp] theorem setX_sched (n : Nat) (v : W64) : (setX s n v).sched = s.sched := by unfold setX; split <;> rfl
@[simp] theorem setX_upsets (n : Nat) (v : W64) : (setX s n v).upsets = s.upsets := by unfold setX; split <;> rfl
@[simp] theorem setX_ahead (n : Nat) (v : W64) : (setX s n v).ahead = s.ahead := by unfold setX; split <;> rfl
@[simp] theorem setX_choices (n : Nat) (v : W64) : (setX s n v).choices = s.choices := by unfold setX; split <;> rfl
@[simp] theorem setX_drawn (n : Nat) (v : W64) : (setX s n v).drawn = s.drawn := by unfold setX; split <;> rfl
@[simp] theorem setX_freeNext (n : Nat) (v : W64) : (setX s n v).freeNext = s.freeNext := by unfold setX; split <;> rfl
@[simp] theorem setX_nextTid (n : Nat) (v : W64) : (setX s n v).nextTid = s.nextTid := by unfold setX; split <;> rfl
@[simp] theorem setX_nextId (n : Nat) (v : W64) : (setX s n v).nextId = s.nextId := by unfold setX; split <;> rfl
@[simp] theorem setX_nextEnq (n : Nat) (v : W64) : (setX s n v).nextEnq = s.nextEnq := by unfold setX; split <;> rfl
@[simp] theorem setX_pre (n : Nat) (v : W64) : (setX s n v).pre = s.pre := by unfold setX; split <;> rfl
@[simp] theorem setX_flow (n : Nat) (v : W64) : (setX s n v).flow = s.flow := by unfold setX; split <;> rfl
end

end Sys2Proof.Machine
end

