-- ==== Sys2Proof/Laws/Operations.lean ====
section
/-!
SUPPORT. What each operand form and each shared change of a core or thread does, once for all instructions of that shape.
-/
namespace Sys2Proof.Laws
open Sys2Proof Sys2Proof.Machine Sys2Proof.Safety

/-! ### Values under keys -/

theorem assocGet_put_same {α : Type} (l : List (Nat × α)) (k : Nat) (v : α) : assocGet (assocPut l k v) k = some v := by
  induction l with
  | nil => simp [assocPut, assocGet]
  | cons x rest ih =>
    obtain ⟨j, w⟩ := x
    unfold assocPut
    split
    · simp [assocGet]
    · split
      · simp [assocGet]
      · rename_i h; simp [assocGet, h, ih]

theorem assocGet_put_other {α : Type} (l : List (Nat × α)) {k j : Nat} (v : α) (h : j ≠ k) :
    assocGet (assocPut l k v) j = assocGet l j := by
  induction l with
  | nil => simp [assocPut, assocGet, Ne.symm h]
  | cons x rest ih =>
    obtain ⟨i, w⟩ := x
    unfold assocPut
    split
    · simp [assocGet, Ne.symm h]
    · split
      · rename_i h2; subst h2; simp [assocGet, Ne.symm h]
      · simp only [assocGet, ih]

/-- A changed core holds what the change says. -/
@[simp] theorem core_modCore_same (s : State) (c : Nat) (f : CoreSt → CoreSt) : (s.modCore c f).core c = f (s.core c) := by
  unfold State.core State.modCore
  rw [assocGet_put_same]; rfl

/-- Every other core stands. -/
theorem core_modCore_other (s : State) {c d : Nat} (f : CoreSt → CoreSt) (h : d ≠ c) : (s.modCore c f).core d = s.core d := by
  simp only [State.core, State.modCore, assocGet_put_other _ _ h]

theorem countGet_mod_same (l : List (Nat × Nat)) (k : Nat) (f : Nat → Nat) : countGet (countMod l k f) k = f (countGet l k) := by
  simp [countGet, countMod, assocGet_put_same]

theorem countGet_mod_other (l : List (Nat × Nat)) {k j : Nat} (f : Nat → Nat) (h : j ≠ k) :
    countGet (countMod l k f) j = countGet l j := by
  simp only [countGet, countMod, assocGet_put_other _ _ h]

/-! ### Threads -/

/-- The current thread, changed by its number. -/
theorem modThread_cur (s : State) (f : Thread → Thread) : s.modThread s.cur.tid f = s.modCur f := by
  simp [State.modThread, State.modCur]

/-- Another thread, changed: the current one stands. -/
theorem modThread_cur_other (s : State) {n : Nat} (f : Thread → Thread) (h : s.cur.tid ≠ n) : (s.modThread n f).cur = s.cur := by
  simp [State.modThread, h]

/-- A thread of another number stands. -/
theorem mem_modThread_other {s : State} {n : Nat} {f : Thread → Thread} {u : Thread} (hu : u ∈ s.threads) (h : u.tid ≠ n) :
    u ∈ (s.modThread n f).threads := by
  unfold State.modThread
  split
  · exact hu
  · exact List.mem_map.mpr ⟨u, hu, by simp [h]⟩

/-! ### Operand forms -/

theorem formRRR_sets {s : State} {g : BitVec 4} (h : s.pool.wf = true) (hg : guardOn s g = true) (f : W64 → W64 → W64) (d a b : BitVec 5) :
    XSet s (formRRR f d a b g s) d.toNat (f (rX s a) (rX s b)) := by
  unfold formRRR; rw [guarded_true hg]; exact setX_set h _ _

theorem formRR_sets {s : State} {g : BitVec 4} (h : s.pool.wf = true) (hg : guardOn s g = true) (f : W64 → W64) (d a : BitVec 5) :
    XSet s (formRR f d a g s) d.toNat (f (rX s a)) := by
  unfold formRR; rw [guarded_true hg]; exact setX_set h _ _

theorem formRI_sets {s : State} {g : BitVec 4} (h : s.pool.wf = true) (hg : guardOn s g = true) (f : W64 → W64 → W64) (d a : BitVec 5)
    (i : BitVec 12) : XSet s (formRI f d a i g s) d.toNat (f (rX s a) (imm12 i)) := by
  unfold formRI; rw [guarded_true hg]; exact setX_set h _ _

theorem formRS_sets {s : State} {g : BitVec 4} (h : s.pool.wf = true) (hg : guardOn s g = true) (f : W64 → Nat → W64) (d a : BitVec 5)
    (n : BitVec 6) : XSet s (formRS f d a n g s) d.toNat (f (rX s a) n.toNat) := by
  unfold formRS; rw [guarded_true hg]; exact setX_set h _ _

theorem formIII_sets {s : State} {g : BitVec 4} (h : s.pool.wf = true) (hg : guardOn s g = true) (f : Ival → Ival → Ival) (d a b : BitVec 4) :
    IvSet s (formIII f d a b g s) d.toNat (f (getIv s a.toNat) (getIv s b.toNat)) := by
  unfold formIII; rw [guarded_true hg]; exact setIv_set h _ _

theorem formVVV_sets {s : State} {g : BitVec 4} (h : s.pool.wf = true) (hg : guardOn s g = true) (f : Nat → Nat → Nat) (d a b : BitVec 4) :
    VSet s (formVVV f d a b g s) d.toNat (lanes2 f (getV s a.toNat) (getV s b.toNat)) := by
  unfold formVVV; rw [guarded_true hg]; exact setV_set h _ _

/-- No form has an effect under a false guard. -/
theorem forms_skip {s : State} {g : BitVec 4} (hg : guardOn s g = false) (f : W64 → W64 → W64) (f1 : W64 → W64) (d a b : BitVec 5) (i : BitVec 12) :
    formRRR f d a b g s = s ∧ formRR f1 d a g s = s ∧ formRI f d a i g s = s := by
  simp only [formRRR, formRR, formRI, guarded_false hg, and_self]

/-! ### Turns and links -/

@[simp] theorem subnormalTurns_false (s : State) : subnormalTurns false s = s := rfl
@[simp] theorem subnormalTurns_true (s : State) : subnormalTurns true s = forfeits 4 s := rfl

/-- With no link down or waiting no place is cut off. -/
theorem links_open {s : State} (h : s.linksWait = []) (h' : s.linksDown = []) (die : Nat) (l : Loc) :
    linkBusy s die l = false ∧ cutOff s die l = false := by
  simp [linkBusy, cutOff, h, h']

/-- A bundle that waits changes only its thread's wait and the flow. -/
theorem stall_frame (s : State) (w : Wait) : stall s w = { s with cur := (stall s w).cur, flow := .stalled } := rfl

/-- A die's timestamp is at most 2 cycles before the count of the package (R385). -/
theorem tsOf_near (s : State) (core : Nat) : s.ts ≤ tsOf s core ∧ tsOf s core ≤ s.ts + 2 :=
  ⟨Nat.le_add_right _ _, Nat.add_le_add_left (Nat.min_le_left _ _) _⟩

/-- Only the count of cycles and the dies' counters enter a timestamp. -/
theorem tsOf_congr {s t : State} (h : t.ts = s.ts) (h' : t.skew = s.skew) (core : Nat) : tsOf t core = tsOf s core := by
  simp [tsOf, h, h']

/-- A fresh value of one byte or more advances the counter of the free values and changes nothing else. -/
theorem freshValue_frame (s : State) (n : Nat) : (freshValue s n).2 = { s with freeNext := (freshValue s n).2.freeNext } := rfl

end Sys2Proof.Laws
end

