-- ==== Sys2Proof/Tests/Slice0.lean ====
section
/-!
SUPPORT. Tests: WellFormed refuses, written words decode, single steps, and witnesses for the statements.
-/
open Sys2Proof Sys2Proof.Machine Sys2Proof.Safety
namespace Sys2Proof.Tests
set_option maxRecDepth 100000
set_option Elab.async false

/-! ### A small state -/

/-- The context of the examples. -/
def demoPid : BitVec 16 := 0x0101

/-- Page tables that map the first GiB to itself, for a user, writable and executable: root at 0x1000 (R205, R206). -/
def demoHbm : Memory :=
  ((Memory.empty.writeNat 0x1000 8 0x2001).writeNat 0x2000 8 0x3001).writeNat 0x3000 8 0xF63

/-- Descriptor of the context (R209): ROOT, CSTATE 1, a record area at 0x10000; block 0 belongs to partition 1 (R395); BOOTST is 0x40 (R412). -/
def demoSys : Memory :=
  ((((sysReset.writeNat (descAt demoPid) 8 0x1000).writeNat (descAt demoPid + 0x24) 4 1).writeNat (descAt demoPid + 0x28) 8 0x10000).writeNat
    0x104011000 8 0x81).writeNat (attBase + 0x4C8) 8 0x40

/-- A thread of it in slot 0 of core 0, of a launch of class 1, at pc 0x8000. -/
def demoThread : Thread :=
  { Thread.make 0 0 0 0 demoPid with part := 1, pclass := 1, lnch := 7, pc := 0x8000, npc := 0x8008, recd := 0x10000 }

/-- The workspace of the thread: x1 = 5, x2 = -7, x3 = 2, x4 = 0x4000 (GEN), x5 = the LOC scratchpad, and TVEC 0x3000. -/
def demoPool : Memory :=
  ((((((newStatus Memory.empty 0).writeNat 8 8 5).writeNat 0x10 8 0xFFFFFFFFFFFFFFF9).writeNat 0x18 8 2).writeNat 0x20 8 0x4000).writeNat
    0x28 8 0x2000000000004000).writeNat 0x1D8 8 0x3000

/-- A launch with one unit alive. -/
def demoLaunch : Launch :=
  { h := 7, lpb := 0x20000, pid := demoPid, fromPid := demoPid, lpid := none, part := 1, dieK := false, parent := none, state := 1, first := false
    firstOfParent := false, resv := 0, resvOfParent := 0, succ := 0, succOfParent := 0, live := 1, cnt := [], liv := [], arr := [], prio := 9
    pclass := 1, spl := 0, pword := 0, stmpl := rrTable }

/-- The package with the thread in its slot: 8 workspaces, a ring of two frames, a scratchpad of 8 KiB and a watch granted (R130). -/
def demo : State :=
  { State.reset with
    cur := demoThread, pool := demoPool, hbm := demoHbm, sys := demoSys, agenda := [], launches := [demoLaunch]
    cores := [(0, { CoreSt.reset with pword := 0x401020208 }), (1, { CoreSt.reset with pword := 0x401020208 })]
    parts := [{ part := 1, taken := 0, layouts := [], waiters := [], holder := some demoPid, world := none, next := [], worldPhase := 0, class0 := none
                class0On := false, entry := 0, tenant := some 1, leased := false, sliceEnd := none, sliceLeft := 0, held := [] }]
    tlb := (upTo 8).map fun i => { station := i, pid := demoPid, level := 2, vpn := 0, leaf := 0xF63, at' := 0x3000 } }

/-- The small state with x1, x2 and x3 holding `a`, `b` and `c`. -/
def withX (a b c : Nat) : State :=
  { demo with pool := ((demoPool.writeNat 8 8 a).writeNat 0x10 8 b).writeNat 0x18 8 c }

/-- The small state with iv1, iv2 and iv3 holding bounds, each with its lower bound in the low half. -/
def withIv (a b c : Nat) : State :=
  { demo with pool := ((demoPool.writeNat 0x108 8 a).writeNat 0x110 8 b).writeNat 0x118 8 c }

/-- The state after an instruction. -/
noncomputable def after (i : Instr) (s : State) : State :=
  match exec i s with
  | .next t => t
  | _ => s

/-- A pointer passes its checks, and its place is as `p` says. -/
def okWith (c : Chk) (p : Loc → Bool) : Bool :=
  match c with
  | .ok l => p l
  | _ => false

/-- The undo log has taken its entries, and the state that this leads to is as `p` says. -/
def tookWith (r : Append) (p : State → Bool) : Bool :=
  match r with
  | .ok u _ => p u
  | _ => false

/-- The small state with FMODE. -/
def withMode (s : State) (m : Nat) : State := { s with pool := s.pool.writeNat 0x188 4 m }

/-- The small state with another thread beside it, in a state of a continuation. -/
def otherThread (st : TState) : Thread :=
  { demoThread with tid := 1, state := st, recd := 0x10040, slot := 1, wp := 0x800, ring := 0x800, place := .nowhere }

/-- The small state with it. -/
def withOther (st : TState) : State := { demo with threads := [otherThread st], nextTid := 2 }

/-- The small state whose context has a log of 64 KiB at 0x40000 (R209). -/
def demoLog : State :=
  { demo with sys := (demoSys.writeNat (descAt demoPid + 8) 8 0x40000).writeNat (descAt demoPid + 0x10) 8 0x10000 }

/-- It with one window open, and the same with an entry logged in it. -/
noncomputable def demoOpen : State := after (.baste 6 0) demoLog

/-- An access of the small state in flight. -/
def inFlightOf (path : Nat) (op : AccOp) (p : Piece) (d : Dest) : Access := newAccess demo path op [p] d 0 0
/-- The small state with an access in flight. -/
def withAccess (a : Access) : State := { demo with accesses := [a], nextId := 1 }
/-- A piece of four bytes of main memory. -/
def memPiece (data : List Byte) : Piece := { ptr := 0x4000, loc := .mem 0x4000, n := 4, data := data }
/-- A command of the thread. -/
def demoCmd (q words : Nat) : Cmd :=
  { q := q, tid := 0, pc := 0x8000, recd := 0x10000, pid := demoPid, level := 0, unitid := 0, grps := 0, slot := 0, seq := 1, words := words, bind := none, behind := [] }
/-- The small state with a command in a queue of its core. -/
def withCmd (q words : Nat) : State := demo.modCore 0 fun c => { c with cmds := [demoCmd q words] }
theorem witness_base : demo.pool.wf = true ∧ demo.hbm.wf = true ∧ demo.sys.wf = true ∧ guardOn demo 0 = true ∧ Drained demo ∧ MayFix demo ∧ demo.pre = none := by
  unfold Drained MayFix; decide +kernel

/-! ### WellFormed refuses an ill-formed instruction of every check -/

theorem test_wf_comparisons : ([.cmp 1 2 3 10 0, .cmpiL 1 2 10 0 0, .fcmp 1 2 3 5 0, .fcvt 1 2 0 0 0, .fcvt 1 2 1 2 0, .frnd 1 2 6 0] : List Instr).all
    (fun i => !i.wf) = true := by decide +kernel
theorem test_wf_intervals : ([.icmp 3 1 2 0 0, .icont 5 1 2 0, .iaddc 1 1 2 0 0, .iaddc 1 2 1 0 0, .iaddc 1 2 2 0 0, .imulc 1 1 2 0 0, .imulc 1 2 1 0 0,
    .imulc 1 2 2 0 0, .imaxc 1 1 2 0 0, .imaxc 1 2 1 0 0, .imaxc 1 2 2 0 0, .isqc 1 1 0 0, .iexp2c 2 2 0 0] : List Instr).all (fun i => !i.wf) = true := by
  decide +kernel
theorem test_wf_vectors : ([.vcmp 1 2 3 0 5 0, .vcmp 1 2 3 1 10 0, .vcvt 1 2 0 5 1 0, .vcvt 1 2 1 0 7 0, .vcvt 1 2 2 0 1 0, .vcvt 1 2 4 0 3 0] : List Instr).all
    (fun i => !i.wf) = true := by decide +kernel
theorem test_wf_accesses : ([.loop 0 0 0, .ldxU 1 2 3 3 0, .ldOrdered 1 2 2 0 0 0, .ldOrdered 1 2 1 6 0 0, .ldOrdered 1 2 0 1 0 0, .ldUOrdered 1 2 3 0 0 0,
    .ldUOrdered 1 2 1 0 3 0, .stOrdered 1 2 1 0 0 0, .stOrdered 1 2 2 6 0 0, .ldOrderedLong 1 2 2 0 0 0 0, .ldUOrderedLong 1 2 1 0 3 0 0,
    .stOrderedLong 1 2 3 0 0 0 0, .amadd 1 2 0 1 6 0, .amfadd 1 2 1 6 0, .ammin 1 2 0 0 1 0, .ammax 1 2 0 1 7 0, .amand 1 2 0 0 2 0, .amor 1 2 0 2 6 0,
    .amxor 1 2 0 3 7 0, .amxchg 1 2 0 0 5 0, .amcas 1 2 0 0 0 0, .amcas 2 2 0 0 1 0] : List Instr).all (fun i => !i.wf) = true := by decide +kernel
theorem test_wf_memory : ([.fence 0 6 0, .pref 3 1 0, .bwin 1 1 0 0, .bwin 1 0 4 0] : List Instr).all (fun i => !i.wf) = true := by decide +kernel
theorem test_wf_threads : ([.spawn 29 1 0, .spawnC 29 1 2 0, .fork 0 0, .forkC 0 1 0, .movm 0 1 0, .meetT 0 1 0 0, .meetLong 1 2 1 0] : List Instr).all
    (fun i => !i.wf) = true := by decide +kernel
theorem test_wf_engines : ([.qtry 1 2 0 0, .waitb 17 0, .sbind 1 3 0, .gnext 1 2 3 1 3 0, .gnext 1 2 3 2 2 0, .gnext 1 2 3 3 2 0, .wakeon 0 1 0, .wakeon 29 1 0,
    .wakeon 1 0 0, .wakeonX 0 0] : List Instr).all (fun i => !i.wf) = true := by decide +kernel
theorem test_wf_system : ([.rdsr 1 0x12 0, .wrsr 1 7 0, .wrsr 1 0xF 0, .stinv 1 2 46 0, .gang 1 31 0, .rdctr 1 6 0, .rdctrLo 1 6 0, .rdctrHi 1 6 0] : List Instr).all
    (fun i => !i.wf) = true := by decide +kernel

/-! ### Words written out from the encodings of the spec decode to their instructions -/

theorem test_decode_integer : decodeA 0x04A63810 = .ok (.sub 5 6 7 0) ∧ decodeA 0x20210040 = .ok (.addi 1 1 4 0) ∧
    decodeA 0x4664FFB0 = .ok (.cmpi 2 3 4 0xFFB 0) ∧ decodeA 0x1D063800 = .ok (.rndc 8 6 7 0) := by decide +kernel
theorem test_decode_float : decodeA 0x50642800 = .ok (.fadd 3 4 5 0) ∧ decodeA 0x54642980 = .ok (.ffma 3 4 5 6 0) ∧
    decodeA 0x50642870 = .ok (.fsgnJ 3 4 5 0) ∧ decodeA 0x50640180 = .ok (.fsgnJnPred 3 4 0 0) := by decide +kernel
theorem test_decode_interval : decodeA 0x60463810 = .ok (.ivmkR 2 6 7 0) ∧ decodeA 0x60242800 = .ok (.ivmk 1 4 5 0) ∧
    decodeA 0x61030020 = .ok (.ivlo 8 3 0) ∧ decodeA 0x6448C000 = .ok (.iadd 1 2 3 0) ∧ decodeA 0x6D048000 = .ok (.icmp 4 1 2 0 0) ∧
    decodeA 0x70C48130 = .ok (.imaxc 3 1 2 1 0) := by decide +kernel
theorem test_decode_vector : decodeA 0x8048C000 = .ok (.vadd 1 2 3 0 0) ∧ decodeA 0x85159C00 = .ok (.vfma 4 5 6 7 0) ∧
    decodeA 0x8D048020 = .ok (.vcmp 4 1 2 0 2 0) ∧ decodeA 0x94C40100 = .ok (.vcvt 3 1 0 2 0 0) ∧ decodeA 0x9C040000 = .ok (.vredsum 0 1 0 0) ∧
    decodeA 0xA4650020 = .ok (.vbcast 3 5 0) ∧ decodeA 0xC0918000 = .ok (.viadd 1 2 3 0) ∧ decodeA 0xCC918000 = .ok (.vimax 1 2 3 0) := by decide +kernel
theorem test_decode_control : decodeC 0x03FFFFE3 = .ok (.br 0x1FFFFE 3) ∧ decodeC 0x04000040 = .ok (.call 4 0) ∧
    decodeC 0x0A207FD0 = .ok (.loop 2 0x7FD 0) := by decide +kernel
theorem test_decode_access : decodeC 0x18408000 = .ok (.ldW 4 1 0 0) ∧ decodeC 0x26410F00 = .ok (.ldx 4 2 3 3 0) ∧
    decodeC 0x28548000 = .ok (.amadd 5 9 0 0 0 0) ∧ decodeC 0x28548780 = .ok (.amadd 5 9 1 3 4 0) ∧ decodeC 0x2C308020 = .ok (.ivld 3 1 2 0) ∧
    decodeC 0x2D308020 = .ok (.ivst 3 1 2 0) := by decide +kernel
theorem test_decode_memory : decodeC 0x2E649020 = .ok (.vappend 6 9 2 0 0) ∧ decodeC 0x2E649130 = .ok (.vappendM 6 9 2 1 0) ∧
    decodeC 0x30500000 = .ok (.baste 5 0) ∧ decodeC 0x32620000 = .ok (.tack 6 4 0) ∧ decodeC 0x34620000 = .ok (.unpick 6 4 0) ∧
    decodeC 0x36520030 = .ok (.bwin 5 4 3 0) ∧ decodeC 0x2E008010 = .ok (.pref 0 1 0) := by decide +kernel
theorem test_decode_threads : decodeC 0x3844AA00 = .ok (.spawnC 4 9 10 0) ∧ decodeC 0x3A100000 = .ok (.fork 1 0) ∧ decodeC 0x3C000000 = .ok (.quit 0) ∧
    decodeC 0x3E000000 = .ok (.yield 0) ∧ decodeC 0x3E000200 = .ok (.yieldH 0) ∧ decodeC 0x40048200 = .ok (.meet 9 0x10 0) ∧
    decodeC 0x42230000 = .ok (.movm 2 6 0) ∧ decodeC 0x44540000 = .ok (.bara 5 8 0) ∧ decodeC 0x46540000 = .ok (.barw 5 8 0) ∧
    decodeC 0x48000050 = .ok (.barg 5 0) ∧ decodeC 0x4A138000 = .ok (.launch 1 7 0 0) ∧ decodeC 0x4C038000 = .ok (.launchw 7 0 0) := by decide +kernel
theorem test_decode_engines : decodeC 0x50020000 = .ok (.qpush 0 4 0) ∧ decodeC 0x50220000 = .ok (.qpush 2 4 0) ∧ decodeC 0x50328010 = .ok (.qpop 3 5 0) ∧
    decodeC 0x54500000 = .ok (.batch 5 0) ∧ decodeC 0x54000010 = .ok (.waitb 0 0) ∧ decodeC 0x54000810 = .ok (.waitb 2 0) ∧
    decodeC 0x56100800 = .ok (.sbind 1 2 0) ∧ decodeC 0x56100010 = .ok (.sbindX 1 0) ∧ decodeC 0x58608000 = .ok (.movs 6 1 0) ∧
    decodeC 0x58308010 = .ok (.vmovs 3 1 0) ∧ decodeC 0x5A5498A0 = .ok (.gnext 5 9 6 1 2 0) ∧ decodeC 0x5CC00C00 = .ok (.wakeon 12 3 0) ∧
    decodeC 0x5C000C10 = .ok (.wakeonX 3 0) := by decide +kernel
theorem test_decode_system : decodeC 0x60000050 = .ok (.trap 5 0) ∧ decodeC 0x60100000 = .ok (.brk 0 0) ∧ decodeC 0x64900040 = .ok (.rdsr 9 4 0) ∧
    decodeC 0x660280D0 = .ok (.wrsr 5 0xD 0) ∧ decodeC 0x68110000 = .ok (.swapwp 1 2 0) ∧ decodeC 0x6A138000 = .ok (.liveD 7 0) ∧
    decodeC 0x6A000050 = .ok (.liveP 5 0) ∧ decodeC 0x76500000 = .ok (.rdts 5 0) ∧ decodeC 0x76502010 = .ok (.rdctr 5 1 0) ∧
    decodeC 0x76504000 = .ok (.rdctrLo 5 0 0) ∧ decodeC 0x76606000 = .ok (.rdctrHi 6 0 0) ∧ decodeC 0x6E428090 = .ok (.stinv 4 5 9 0) ∧
    decodeC 0x6E400400 = .ok (.stinvAll 4 0) ∧ decodeC 0x72650000 = .ok (.gang 6 10 0) ∧ decodeC 0x74620000 = .ok (.mxrs 6 4 0) ∧
    decodeC 0x74620010 = .ok (.mxrsPage 6 4 0) := by decide +kernel
theorem test_decode_long : decodeBundle 0x89ABCDEF8C700000 = .ok (.long (.li 7 0x89ABCDEF 0)) ∧ decodeBundle 0 = .ok (.pair (.cNop 0) (.aNop 0)) := by
  decide +kernel

/-! ### One instruction on the small state, with results from the spec's examples and by hand -/

/-- What `d` holds after an instruction. -/
noncomputable def xAfter (i : Instr) (s : State) (d : Nat) : Option Nat :=
  match exec i s with
  | .next t => some (getX t d).toNat
  | _ => none

/-- Whether a predicate holds after an instruction. -/
noncomputable def pAfter (i : Instr) (s : State) (p : Nat) : Option Bool :=
  match exec i s with
  | .next t => some (getP t p)
  | _ => none

theorem test_add_wraps : xAfter (.add 4 1 2 0) (withX 0xFFFFFFFFFFFFFFFF 2 0) 4 = some 1 := by decide +kernel
theorem test_sub_order : xAfter (.sub 4 1 2 0) (withX 1 2 0) 4 = some 0xFFFFFFFFFFFFFFFF := by decide +kernel
theorem test_mulh_negative : xAfter (.mulh 4 1 2 0) (withX 0xFFFFFFFFFFFFFFFF 2 0) 4 = some 0xFFFFFFFFFFFFFFFF := by decide +kernel
theorem test_mulhu_large : xAfter (.mulhu 4 1 2 0) (withX 0xFFFFFFFFFFFFFFFF 2 0) 4 = some 1 := by decide +kernel
theorem test_rem_negative : xAfter (.rem 4 2 3 0) demo 4 = some 0xFFFFFFFFFFFFFFFF := by decide +kernel
theorem test_div_by_zero : xAfter (.div 4 1 2 0) (withX 0xFFFFFFFFFFFFFFFB 0 0) 4 = some 0x8000000000000000 := by decide +kernel
theorem test_div_overflow : xAfter (.div 4 1 2 0) (withX 0x8000000000000000 0xFFFFFFFFFFFFFFFF 0) 4 = some 0x7FFFFFFFFFFFFFFF := by decide +kernel
theorem test_extr : xAfter (.extr 5 1 2 0) (withX 0x12345678 0x804 0) 5 = some 0x67 := by decide +kernel
theorem test_sar_sign : xAfter (.sar 4 1 2 0) (withX 0x8000000000000000 0xFFFFFFFFFFFFFF41 0) 4 = some 0xC000000000000000 := by decide +kernel
theorem test_ins_length_64 : xAfter (.ins 3 1 2 0) (withX 0xAB 8 0x11) 3 = some 0xAB11 := by decide +kernel
theorem test_li : xAfter (.li 7 0x89ABCDEF 0) demo 7 = some 0xFFFFFFFF89ABCDEF := by decide +kernel
theorem test_lih : xAfter (.lih 1 1 0) (withX 0xFFFFFFFF89ABCDEF 0 0) 1 = some 0x189ABCDEF := by decide +kernel
theorem test_x0_discards : xAfter (.addi 0 1 4 0) demo 0 = some 0 := by decide +kernel
theorem test_guard_false : xAfter (.addi 1 1 4 8) demo 1 = some 5 := by decide +kernel
theorem test_cmp_unsigned : pAfter (.cmp 3 1 2 6 0) (withX 1 0xFFFFFFFFFFFFFFFF 0) 3 = some true := by decide +kernel
theorem test_cmp_signed : pAfter (.cmp 3 1 2 2 0) (withX 1 0xFFFFFFFFFFFFFFFF 0) 3 = some false := by decide +kernel
theorem test_plog_and : pAfter (.plog 1 0 0 8 0) demo 1 = some true := by decide +kernel
theorem test_fadd_inexact : xAfter (.fadd 4 1 2 0) (withX 0x3F800000 0x33800000 0) 4 = some 0x3F800000 := by decide +kernel
theorem test_fclass_minus_eight : xAfter (.fclass 4 1 0) (withX 0xC1000000 0 0) 4 = some 0x382A := by decide +kernel
theorem test_fclass_signalling : xAfter (.fclass 4 1 0) (withX 0x7FA00000 0 0) 4 = some 0x0FF5 := by decide +kernel
theorem test_frnd_to_minus_zero : xAfter (.frnd 4 1 2 0) (withX 0xBE99999A 0 0) 4 = some 0x80000000 := by decide +kernel
theorem test_fmin_zeros : xAfter (.fmin 4 1 2 0) (withX 0 0x80000000 0) 4 = some 0x80000000 := by decide +kernel
theorem test_ivmk_r : xAfter (.ivlo 4 1 0) (match exec (.ivmkR 1 1 2 0) (withX 0x3FA00000 0x3E000000 0) with | .next t => t | _ => demo) 4 = some 0x3F900000 := by
  decide +kernel
theorem test_imul_corners : (match exec (.imul 4 1 2 0) (withIv 0x40400000C0000000 0x40800000BF800000 0) with | .next t => some (getIv t 4).hi | _ => none) =
    some 0x41400000 := by decide +kernel
theorem test_icmp_certain : pAfter (.icmp 4 2 1 0 0) (withIv 0x3FC000003EC00000 0 0) 4 = some true := by decide +kernel
theorem test_isq_straddles : (match exec (.isq 4 1 0) (withIv 0x40400000C0000000 0 0) with | .next t => some ((getIv t 4).lo, (getIv t 4).hi) | _ => none) =
    some (0x80000000, 0x41100000) := by decide +kernel
theorem test_branch_back : (match exec (.br 0x1FFFFE 0) demo with | .next t => some t.cur.npc | _ => none) = some 0x7FF0 := by decide +kernel
theorem test_loop_ends : (match exec (.loop 1 0x7FD 0) (withX 1 0 0) with | .next t => some (t.cur.npc, getX t 1) | _ => none) = some (0x8008, 0) := by
  decide +kernel
theorem test_loop_count_zero : (match exec (.loop 1 0x7FD 0) (withX 0 0 0) with | .next t => some (t.cur.npc, getX t 1) | _ => none) =
    some (0x7FE8, 0xFFFFFFFFFFFFFFFF) := by decide +kernel
theorem test_call_saves_the_return : (match exec (.call 4 0) demo with | .next t => some (t.cur.npc, t.pool.readNat (wsKey t.cur + 0x1C0) 8, getX t 1) | _ => none) =
    some (0x8020, 0x8008, 5) := by decide +kernel
theorem test_ret_without_frame : (match exec (.ret 0) demo with | .next t => some t.flow | _ => none) = some (.trapped 1 0 0) := by decide +kernel
theorem test_trap_fields : (match exec (.trap 5 0) demo with
    | .next t => some (t.cur.npc, t.cur.priv, t.pool.readNat 0x198 8, t.pool.readNat 0x1A0 8, t.pool.readNat 0x1A8 8, t.pool.readNat 0x180 4)
    | _ => none) = some (0x3000, 1, 0x12, 5, 0x8000, 0x1001) := by decide +kernel
theorem test_user_may_not_kill : (match exec (.kill 1 2 0) demo with | .next t => some (t.pool.readNat 0x198 8) | _ => none) = some 2 := by decide +kernel
theorem test_store_in_own_pool : (match exec (.stD 1 5 0 0) demo with | .next t => some (t.pool.readNat 0x4000 8) | _ => none) = some 5 := by decide +kernel
theorem test_load_is_pending : (match exec (.ldW 6 5 0 0) demo with | .next t => some (t.accesses.length, t.cur.pend.length, t.agenda) | _ => none) =
    some (1, 1, [.loadDataLands 0]) := by decide +kernel
theorem test_bara_wraps_phase : (match exec (.bara 6 5 0) { demo with pool := demoPool.writeNat 0x4000 8 0xFFFF000003000001 } with
    | .next t => some (getX t 6, t.pool.readNat 0x4000 8)
    | _ => none) = some (0xFFFF, 0x0000000003000003) := by decide +kernel
theorem test_fork_child_predicate : (forkImage demo 2 1).readNat 0x180 4 = 5 ∧ demo.pool.readNat 0x180 4 = 1 := by decide +kernel
theorem test_rdsr_core : xAfter (.rdsr 9 4 0) demo 9 = some 0 := by decide +kernel
theorem test_wrsr_reserved_mode : (match exec (.wrsr 1 0xD 0) demo with | .next t => some (t.pool.readNat 0x198 8) | _ => none) = some 1 := by decide +kernel
theorem test_qpush_wrong_direction : (match exec (.qpush 1 4 0) demo with | .next t => some t.flow | _ => none) = some (.trapped 0xF 1 0) := by decide +kernel
theorem test_qpush_counts : (match exec (.qpush 0 4 0) demo with | .next t => some (countGet (t.core 0).slotSeq 0, (t.core 0).cmds.length) | _ => none) = some (1, 1) := by decide +kernel
theorem test_vidx : (match exec (.vidx 1 0) demo with | .next t => some (getV t 1) | _ => none) = some [0, 1, 2, 3, 4, 5, 6, 7, 8, 9, 10, 11, 12, 13, 14, 15] := by
  decide +kernel
theorem test_vexp2_exact : (match exec (.vexp2 2 1 0) { demo with pool := demoPool.writeNat 0x440 4 0x40400000 } with
    | .next t => some ((getV t 2).headD 0)
    | _ => none) = some 0x41000000 := by decide +kernel
theorem test_reset_first_step : (match step State.reset with | .next t => some (t.agenda, t.cur.core) | _ => none) = some ([], 4096) := by decide +kernel
/-- FIPS 202: the digest of the empty message, and the padding of a block that lacks one byte and of a full one. -/
theorem test_sha3_empty : (sha3 []).take 2 = [0xA6, 0x9F] := by decide +kernel
theorem test_sha3_padding : sha3Padding 71 = [0x86] ∧ sha3Padding 72 = 0x06 :: List.replicate 70 0 ++ [0x80] := by decide +kernel

/-! ### Witnesses: states and operands that meet the hypotheses of the statements, one theorem for each statement -/

theorem witness_IntegerArithmeticAndLogic : demo.pool.wf = true ∧ guardOn demo 0 = true ∧ guardOn demo 8 = false := by decide +kernel
theorem witness_DivideAndRemainder : demo.pool.wf = true ∧ guardOn demo 0 = true ∧ rX demo 0 = 0 ∧ rX demo 1 ≠ 0 := by decide +kernel
theorem witness_ShiftsAndMinMax : demo.pool.wf = true ∧ guardOn demo 0 = true := by decide +kernel
theorem witness_BitFields : demo.pool.wf = true ∧ guardOn demo 0 = true ∧ (rX demo 0).toNat / 256 % 64 = 0 := by decide +kernel
theorem witness_ImmediatesAndHash : demo.pool.wf = true ∧ guardOn demo 0 = true := by decide +kernel
theorem witness_Comparisons : demo.pool.wf = true ∧ guardOn demo 0 = true ∧ (9 : BitVec 4).toNat ≤ 9 ∧ (0 : BitVec 4).toNat ≤ 9 := by decide +kernel
theorem witness_FloatInstructions : demo.pool.wf = true ∧ guardOn demo 0 = true ∧ Rounds demo .rne ∧ ∀ f : Flags, NoTrap demo f := by
  unfold Rounds NoTrap; decide +kernel
theorem witness_RoundingAndConversion : demo.pool.wf = true ∧ guardOn demo 0 = true ∧ (1 : BitVec 3) ≠ 0 ∧ rmOf ((1 : BitVec 3).toNat - 1) = some .rne ∧
    (rmOf ((5 : BitVec 3).toNat - 1)).isSome ∧ (∀ f : Flags, NoTrap demo f) ∧ (Instr.fcvt 1 2 5 1 0).wf = true ∧ (Instr.fcvt 1 2 0 1 0).wf = true ∧
    cvtRounds 0 1 = false ∧ Rounds demo .rne := by
  unfold Rounds NoTrap; decide +kernel
/-- The flags of a scalar and of a vector operation that are not enabled in the mode do trap, and a reserved mode or bit stands in FMODE. -/
theorem witness_FlagAndModeTraps :
    (let s := withMode (withX 0x3F800001 0x7FA00000 0) 0x88
     guardOn s 0 = true ∧ Rounds s .rne ∧ ¬ NoTrap s (fmul32 .rne (rF s 1) (rF s 1)).2 ∧ ¬ NoTrap s (fadd32 .rne (rF s 2) (rF s 1)).2 ∧
      ¬ NoTrap s (fminmax true (rF s 2) (rF s 1)).2 ∧ ¬ NoTrap s (fdiv32 .rne (rF s 0) (rF s 0)).2 ∧ ¬ NoTrap s (fcmp32 2 (rF s 2) (rF s 1)).2) ∧
    (let s := withMode { demo with pool := demoPool.writeNat 0x440 4 0x7FA00000 } 0x88
     Rounds s .rne ∧ ¬ NoTrap s (orFlags (List.zipWith (fadd32 .rne) (getV s 1) (getV s 1))) ∧ ¬ NoTrap s (orFlags (List.zipWith (fminmax true) (getV s 1) (getV s 1)))) ∧
    (Instr.fcvt 1 2 5 1 0).wf = true ∧ (Instr.vcvt 3 1 1 2 0 0).wf = true ∧ cvtRounds 5 1 = true ∧
    guardOn (withMode demo 5) 0 = true ∧ rmOf (bits (fmode (withMode demo 5)) 0 3) = none ∧ bits (fmode (withMode demo 0x400)) 10 22 ≠ 0 := by
  unfold Rounds NoTrap; decide +kernel
theorem witness_IntervalResultsAndReads : demo.pool.wf = true ∧ guardOn demo 0 = true := by decide +kernel
theorem witness_Contractors : demo.pool.wf = true ∧ guardOn demo 0 = true := by decide +kernel
theorem witness_VectorIntegerLanes : demo.pool.wf = true ∧ guardOn demo 0 = true ∧ (9 : BitVec 4).toNat ≤ 9 ∧ (0 : BitVec 4).toNat ≤ 9 := by decide +kernel
theorem witness_VectorFloatLanes : demo.pool.wf = true ∧ guardOn demo 0 = true ∧ Rounds demo .rne ∧ ∀ f : Flags, NoTrap demo f := by
  unfold Rounds NoTrap; decide +kernel
theorem witness_VectorReductionsAndMoves : demo.pool.wf = true ∧ guardOn demo 0 = true ∧ Rounds demo .rne ∧ ∀ f : Flags, NoTrap demo f := by
  unfold Rounds NoTrap; decide +kernel
theorem witness_VectorConversion : demo.pool.wf = true ∧ guardOn demo 0 = true ∧ (Instr.vcvt 3 1 1 2 0 0).wf = true ∧ (Instr.vcvt 3 1 3 6 7 0).wf = true ∧
    Rounds demo .rne ∧ ∀ f : Flags, NoTrap demo f := by
  unfold Rounds NoTrap; decide +kernel
theorem witness_VectorIntervals : demo.pool.wf = true ∧ guardOn demo 0 = true := by decide +kernel
/-- Targets that are in range and aligned, out of range, and not aligned; a LOOP that ends and one that goes on. -/
theorem witness_BranchesAndJumps : demo.pool.wf = true ∧ guardOn demo 0 = true ∧
    (let t : W64 := demo.cur.pc + (4 : BitVec 21).signExtend 64 * 8
     t.toNat / 2 ^ 57 = 0 ∧ t.toNat % 8 = 0) ∧
    (demo.cur.pc + (0x100000 : BitVec 21).signExtend 64 * 8).toNat / 2 ^ 57 ≠ 0 ∧
    (let t := rX demo 1 + (0 : BitVec 11).signExtend 64 * 8
     t.toNat / 2 ^ 57 = 0 ∧ t.toNat % 8 ≠ 0) ∧
    rX (withX 1 0 0) 1 - 1 = 0 ∧ rX demo 1 - 1 ≠ 0 ∧ rX demo 1 ≠ 1 := by decide +kernel
/-- A thread one frame deep, in the second workspace of its ring, with its return address in LINK. -/
def demoCalled : State :=
  { demo with cur := { demoThread with depth := 1, wp := 0x800 }, pool := (newStatus demoPool 0x800).writeNat 0x9C0 8 0x2008 }
theorem witness_CallAndReturn :
    (demo.pool.wf = true ∧ guardOn demo 0 = true ∧ demo.cur.depth.toNat - demo.cur.spilled + 1 < frameRing demo demo.cur ∧
      wsKey demo.cur + 0x800 ≤ poolKey demo.cur.core (frameNext demo demo.cur) ∧ demo.cur.depth = 0) ∧
    (let s := demoCalled
     s.pool.wf = true ∧ guardOn s 0 = true ∧ s.cur.depth ≠ 0 ∧ s.cur.spilled < s.cur.depth.toNat ∧ s.pre = none ∧
      s.pool.readNat (wsKey s.cur + 0x1C0) 8 / 2 ^ 57 = 0 ∧ s.pool.readNat (wsKey s.cur + 0x1C0) 8 % 8 = 0 ∧
      poolKey s.cur.core (framePrev s s.cur) + 0x800 ≤ wsKey s.cur) := by decide +kernel
/-- The hypotheses of a step of an access but those on the links: it is in flight, and nothing before it reaches the same bytes. -/
def mayStep (s : State) (a : Access) : Bool :=
  (s.accesses.find? fun x => x.id == a.id).isSome && s.accesses.length == 1 && !mustFollow s a && a.pieces.all fun p => !poisonedLoc s p.loc p.n
/-- With every link at work no place is cut off or waits, whatever the routes are. -/
theorem witness_links (s : State) (die : Nat) (l : Loc) (h : s.linksWait = []) (h' : s.linksDown = []) :
    linkBusy s die l = false ∧ cutOff s die l = false := by
  constructor
  · simp [linkBusy, h]
  · simp [cutOff, h']
theorem witness_links_demo : demo.linksWait = [] ∧ demo.linksDown = [] := by decide +kernel
/-- The undo log takes the entries of an access of `n` bytes at `p`, and nothing of the thread is in flight then. -/
def logsIt (s : State) (p : W64) (l : Loc) (n : Nat) : Bool :=
  tookWith (appendPolicy 0 0 demoPid (entriesFor [(p, l, n)]) (openCount s demoPid) s) fun u => (ownAccesses u 0).isEmpty
/-- Pieces of four bytes of a place, and whether they are accessed at issue with nothing in their way. -/
def atOnce (s : State) (ps : List Piece) : Bool := atIssue s ps && !notYet s ps
theorem witness_LoadsIssueAndLand_issue : countDrops demo [.pool 0x4000] = demo ∧ atOnce demo (piecesAt 0x2000000000004000 (.pool 0x4000) 8 8 fun _ => []) = true ∧
    atIssue demo (piecesAt 0x4000 (.mem 0x4000) 8 8 fun _ => []) = false ∧ atIssue demo (piecesAt 0x3000000000104000 (.pool 0x104000) 8 8 fun _ => []) = false ∧
    (let s := withAccess (newAccess demo 2 .store [{ ptr := 0x2000000000004000, loc := .pool 0x4000, n := 8, data := leBytes 8 1 }] .none 0 0)
     heldBack s false false = false ∧ checkPtr s s.cur .load 0x2000000000004000 8 0 = .ok (.pool 0x4000) ∧
      (let ps := piecesAt 0x2000000000004000 (.pool 0x4000) 8 8 fun _ => []
       atIssue s ps = true ∧ notYet s ps = true)) ∧ guardOn demo 0 = true ∧ heldBack demo false false = false ∧ heldBack demo false true = false ∧ rX demo 4 = 0x4000 ∧
    checkPtr demo demo.cur .load 0x4000 8 0 = .ok (.mem 0x4000) ∧ checkPtr demo demo.cur .load 0x1000000000004000 8 0 = .ok (.mem 0x4000) ∧
    checkPtr demo demo.cur .load 0x2000000000004000 64 0 = .ok (.pool 0x4000) ∧
    checkPtr demo demo.cur .load 0x3000000000104000 8 0 = .ok (.pool 0x104000) ∧ ownCore demo (.pool 0x4000) = true ∧
    farPool demo (.pool 0x104000) = true := by decide +kernel
theorem witness_LoadsIssueAndLand_land :
    (let a := inFlightOf 0 .load (memPiece []) (.x 6 4 true)
     mayStep (withAccess a) a = true ∧ forwarded (withAccess a) a (memPiece []) = none ∧ a.poison = false) ∧
    (let b := inFlightOf 0 .store (memPiece [1, 2, 3, 4]) .none
     let a := { inFlightOf 0 .load (memPiece []) (.x 6 4 true) with id := 1 }
     let s : State := { demo with accesses := [b, a], nextId := 2 }
     s.accesses.find? (fun x => x.id == 1) = some a ∧ mustFollow s a = false ∧ forwarded s a (memPiece []) = some ([1, 2, 3, 4], false)) ∧
    (let q : Piece := { ptr := 0x6000000000000000, loc := .log demoPid 0, n := 4, data := [] }
     let a := inFlightOf 6 .load q (.x 6 4 true)
     let s : State := { withAccess a with sys := demoSys.writeNat (descAt demoPid + 8) 8 0x40000000 }
     mayStep s a = true ∧ forwarded s a q = none ∧ (deviceAddr s demoPid (logAddr s demoPid 0) false matches .error _) = true ∧ s.thread? a.tid = some demoThread ∧
      (deviceAddr demo demoPid (logAddr demo demoPid 0) false matches .ok _) = true) ∧
    (let a := inFlightOf 1 .load (memPiece []) (.x 6 4 true)
     mayStep (withAccess a) a = true ∧ isRemote 0x4000 = false ∧ isRemote (2 ^ 52) = true ∧ forwarded (withAccess a) a (memPiece []) = none ∧ roLine (withAccess a) a.core a.pid 0x4000 0 = none) ∧
    (let a := inFlightOf 1 .load (memPiece []) (.x 6 4 true)
     let s : State := { withAccess a with ro := [{ cluster := 0, pid := demoPid, line := 0x80, bytes := List.replicate 128 1, fill := 0 }] }
     mayStep s a = true ∧ (roLine s a.core a.pid 0x4000 0).isSome = true ∧ ((s.thread? a.tid).map (·.roFrom)).getD 0 = 0) ∧
    (let a := { inFlightOf 0 .load (memPiece [1, 2, 3, 4]) (.x 6 4 true) with early := true }
     mayStep (withAccess a) a = true ∧ a.poison = false) := by decide +kernel
/-- A store of the thread is in flight, so that a release at `.sys` is behind it. -/
def withStore : State := withAccess (inFlightOf 0 .store (memPiece [1, 2, 3, 4]) .none)
theorem witness_release : NotBehind demo 2 4 [memPiece []] ∧ releaseBehind withStore withStore.cur.tid withStore.nextId 2 4 [memPiece []] = true ∧
    ringPlace withStore (.pool 8) = true ∧ ringPlace demo (.mem 0x4000) = false ∧ heldBack withStore true false = false ∧
    checkPtr withStore withStore.cur .store 0x2000000000004000 8 0 = .ok (.pool 0x4000) ∧ checkPtr withStore withStore.cur .atomic 0x2000000000004000 8 0 = .ok (.pool 0x4000) ∧
    ownCore withStore (.pool 0x4000) = true ∧ ringPlace withStore (.pool 0x4000) = false ∧ nopen withStore = 0 ∧
    tookWith (appendPolicy 0 0 demoPid (entriesFor [(0x2000000000004000, .pool 0x4000, 8)]) (openCount withStore demoPid) withStore) (fun _ => true) = true ∧
    (let p : Piece := { ptr := 0x2000000000004000, loc := .pool 0x4000, n := 8, data := leBytes 8 1 }
     notYet demo [p] = false ∧ ownCore demo (.pool 0x4000) = true ∧ ownCore demo (.mem 0x4000) = false ∧ ownCore demo (.pool 0x104000) = false ∧
      countDrops demo [.mem 0x4000] = demo) := by
  unfold NotBehind; decide +kernel
theorem witness_StoresIssueAndPerform : heldBack demo true false = false ∧ nopen demo = 0 ∧
    checkPtr demo demo.cur .store 0x4000 1 0 = .ok (.mem 0x4000) ∧ logsIt demo 0x4000 (.mem 0x4000) 1 = true ∧
    checkPtr demo demo.cur .store 0x2000000000004000 8 0 = .ok (.pool 0x4000) ∧ logsIt demo 0x2000000000004000 (.pool 0x4000) 8 = true ∧
    checkPtr demo demo.cur .store 0x3000000000104000 8 0 = .ok (.pool 0x104000) ∧ logsIt demo 0x3000000000104000 (.pool 0x104000) 8 = true ∧
    nopen demoOpen = 1 ∧ checkPtr demoOpen demoOpen.cur .store 0x4000 8 0 = .ok (.mem 0x4000) ∧ logsIt demoOpen 0x4000 (.mem 0x4000) 8 = true ∧
    (let a := inFlightOf 0 .store (memPiece [1, 2, 3, 4]) .none
     mayStep (withAccess a) a = true ∧ demo.hbm.wf = true) := by decide +kernel
theorem witness_AtomicsIssueAndPerform :
    checkPtr demo demo.cur .atomic 0x4000 4 0 = .ok (.mem 0x4000) ∧ logsIt demo 0x4000 (.mem 0x4000) 4 = true ∧
    checkPtr demo demo.cur .atomic 0x2000000000004000 8 0 = .ok (.pool 0x4000) ∧ logsIt demo 0x2000000000004000 (.pool 0x4000) 8 = true ∧
    checkPtr demo demo.cur .atomic 0x3000000000104000 8 0 = .ok (.pool 0x104000) ∧ logsIt demo 0x3000000000104000 (.pool 0x104000) 8 = true ∧
    (let a := inFlightOf 0 (.rmw 0 3 0 1) (memPiece []) (rmwDest 6 0 4)
     mayStep (withAccess a) a = true ∧ a.logs = [] ∧ a.early = false ∧ demo.hbm.wf = true ∧ demo.pool.wf = true) ∧
    (let a := inFlightOf 0 (.rmw 8 3 0 1) (memPiece []) (rmwDest 6 8 4)
     mayStep (withAccess a) a = true ∧ a.logs = [] ∧ a.early = false) := by decide +kernel
/-- Sixteen words from a pointer on. -/
def wordsAt (b : W64) : List W64 := (upTo 16).map fun i => b + BitVec.ofNat 64 (4 * i)
theorem witness_VectorMemoryAccesses :
    (wordsAt 0x4000).all (fun p => p.toNat / 2 ^ 57 == 0) = true ∧ heldBack demo false false = false ∧ heldBack demo true false = false ∧ nopen demo = 0 ∧
    checkPtrs demo demo.cur .load 4 [] (wordsAt 0x4000) = .ok ((upTo 16).map fun i => .mem (0x4000 + 4 * i)) ∧
    checkPtrs demo demo.cur .store 4 [] (wordsAt 0x2000000000004000) = .ok ((upTo 16).map fun i => .pool (0x4000 + 4 * i)) ∧
    checkPtrs demo demo.cur .store 64 [] [0x4000] = .ok [.mem 0x4000] ∧
    tookWith (appendPolicy 0 0 demoPid (storeLog [(0x4000, .mem 0x4000, 64)] true) 0 demo) (fun _ => true) = true ∧
    tookWith (appendPolicy 0 0 demoPid (storeLog ((upTo 16).map fun i => (0x2000000000004000 + BitVec.ofNat 64 (4 * i), .pool (0x4000 + 4 * i), 4)) true) 0 demo) (fun _ => true) = true ∧
    (let ps := lanePieces (wordsAt 0x2000000000000400) ((upTo 16).map fun i => .pool (0x400 + 4 * i)) fun _ => []
     atOnce demo ps = true ∧ checkPtrs demo demo.cur .load 4 [] (wordsAt 0x2000000000000400) = .ok ((upTo 16).map fun i => .pool (0x400 + 4 * i))) ∧
    atIssue demo (lanePieces (wordsAt 0x4000) ((upTo 16).map fun i => .mem (0x4000 + 4 * i)) fun _ => []) = false ∧
    LinesFree demo [(0x4000, .mem 0x4000, 64)] ∧
    (let s : State := { demoOpen with accesses := [inFlightOf 0 .store (memPiece [1, 2, 3, 4]) .none], nextId := 1 }
     ¬ LinesFree s [(0x4000, .mem 0x4000, 64)]) := by
  unfold LinesFree; decide +kernel
theorem witness_FencesAndPrefetch :
    (let a := inFlightOf 0 .load (memPiece []) (.x 6 4 true)
     guardOn (withAccess a) 0 = true ∧ ((ownAccesses (withAccess a) 0).filter fun a => a.op != .store).map (·.id) = [0]) ∧
    ownAccesses demo 0 = [] ∧ demo.hbm.wf = true ∧ (2 : BitVec 5).toNat ≤ 2 ∧ untranslated demo demo.cur = false ∧
    (∀ h ∈ [0, 1, 2], h ≤ 2 ∧ (rX demo 4).toNat / 2 ^ 57 % 8 = 0 ∧ (rX demo 4).toNat / 2 ^ 60 = 0) ∧ (rX demo 5).toNat / 2 ^ 60 = 2 ∧
    revokedPid demo (stationOf 0 0x4000) demoPid = false ∧ walk demo demoPid 0x4000 = .leaf 0xF63 2 0x3000 ∧ walk demo demoPid 0x40000000 = .page ∧
    leafPermits 0xF63 0 0 .load = true ∧ leafPermits 0x863 0 0 .load = false := by decide +kernel
theorem witness_WalksFillsAndNeighbours :
    (let s : State := { demo with cur := { demoThread with wait := some .walk } }
     s.cur.state ≠ .free ∧ s.cur.wait = some .walk ∧ s.hbm.wf = true ∧ revokedPid s (stationOf (dieOf s.cur.core) 0x4000) demoPid = false ∧ s.agenda.filter (sameWalk s s.cur 0x4000) = [] ∧
      walk s demoPid 0x40000000 = .page ∧ walk s demoPid 0x4000 = .leaf 0xF63 2 0x3000 ∧ leafPermits 0xF63 0 0 .store = true) ∧
    (let a := inFlightOf 3 .load { ptr := 0x3000000000104000, loc := .pool 0x104000, n := 4, data := [] } (.x 6 4 true)
     mayStep (withAccess a) a = true ∧ a.early = false ∧ (a.pieces.all fun p => (forwarded (withAccess a) a p).isNone) = true) ∧
    isRemote (leafAddr demo 0xF63 2 0x4000) = false ∧ isRemote (leafAddr demo (2 ^ 50 + 0xF63) 2 0x4000) = true := by decide +kernel
/-- The marker that a BASTE logs (R257). -/
def demoMarker (r : State) : List LogEnt :=
  [{ path := 0xF, sz := 6, addr := 1, win := 1, val := bundleNow r, data := leBytes 4 (getSt r 0x1B4 4) ++ leBytes 4 r.cur.wincur.toNat }]
theorem witness_Windows :
    (demo.pool.wf = true ∧ demo.pre = none ∧ guardOn demo 0 = true ∧ sysQ demo (descAt demoPid + 0x10) = 0 ∧ demo.cur.state ≠ .free ∧ demo.cur.img = none) ∧
    (nopen demoLog ≠ 255 ∧ sysQ demoLog (descAt demoPid + 0x10) ≠ 0 ∧
      tookWith (appendPolicy 0 0 demoPid demoMarker
          (openCount demoLog demoPid) demoLog)
        (fun u => u.cur.core == 0 && u.cur.wp == 0 && u.pre.isNone && u.pool.wf && u.pool.readNat 0x193 1 == 0) = true) ∧
    demo.pool.readNat 0x193 1 = 0 ∧
    (let s := demoOpen
     s.pool.wf = true ∧ s.pre = none ∧ s.cur.state ≠ .free ∧ s.cur.img = none ∧ guardOn s 0 = true ∧ s.pool.readNat 0x193 1 = 1 ∧
      s.cur.wincur = 1 ∧ windowsOf s s.cur = [(1, s.pool.readNat 0x1B4 4)] ∧ ownAccesses s 0 = [] ∧ chainFault s demoPid 1 (s.pool.readNat 0x1B4 4) = none ∧ chainFault { s with sys := s.sys.writeNat (descAt demoPid + 8) 8 0x40000000 } demoPid 1 (s.pool.readNat 0x1B4 4) ≠ none ∧
      (match unpickWalk 0 (s.pool.readNat 0x1B4 4) 4097 s true with
        | .ok (u, all) => all && u.cur.core == 0 && u.cur.wp == 0 && u.cur.tid == 0 && u.cur.state == .running && u.cur.img.isNone && u.pre.isNone && u.pool.wf
        | .error _ => false) = true) ∧
    (let s : State := { demoOpen with sys := demoOpen.sys.writeNat (descAt demoPid + 8) 8 0x40000000 }
     (chainFault s s.cur.pid (nopen s) (getSt s 0x1B4 4)).isSome = true) ∧
    (let s := setSt demoOpen 0x192 1 1
     s.pool.readNat 0x193 1 - 1 < s.pool.readNat 0x192 1) := by decide +kernel
theorem witness_AppendReservesAndStores :
    (demo.pool.wf = true ∧ guardOn demo 0 = true ∧ demo.cur.wait ≠ some .released ∧ heldBack demo true false = false ∧
      okWith (checkPtr demo demo.cur .atomic (rX demo 4) 16 0) (fun l => !fixesWindow l) = true ∧
      tookWith (appendPolicy 0 0 demoPid (entriesFor [(0x4008, countPlace (.mem 0x4000), 4)]) (openCount demo demoPid) demo) (fun _ => true) = true) ∧
    elementsLate demo 0x5000 = false ∧
    (let s := demo.modPart 1 fun p => { p with worldPhase := 1 }
     elementsLate s 0x3000000000104000 = true) ∧
    (let s : State := { demo with cur := { demoThread with wait := some .released, answer := [3, 0x5000, 5, 0] } }
     s.cur.wait = some .released ∧ s.cur.answer = [3, 0x5000, 5, 0]) ∧
    (let a : Access := newAccess demo 0 (.rmw 16 16 0 1) [{ ptr := 0x4000, loc := .mem 0x4000, n := 16, data := [] }] .none 0 0
     let s : State := { withAccess a with hbm := (demoHbm.writeNat 0x4000 8 0x5000).writeNat 0x4008 8 0x6400000000 }
     let base : W64 := BitVec.ofNat 64 (leNat (s.hbm.readBytes 0x4000 16))
     s.hbm.wf = true ∧ mayStep s a = true ∧ isRemote 0x4000 = false ∧ a.tid = s.cur.tid ∧ nopen s = 0 ∧ nopenOf s s.cur = 0 ∧ a.ord = 0 ∧ a.logs = [] ∧ a.early = false ∧
      base = 0x5000 ∧ pathOf base = 0 ∧ rangeCause s s.cur .store base (4 * 0) 4 = none) := by decide +kernel

theorem witness_NewThreads : recordRoom demo demoPid = true ∧ NumberFree demo ∧ demo.cur.handler = none ∧ (28 : BitVec 5).toNat ≤ 28 ∧ (0 : BitVec 5).toNat ≤ 28 ∧
    (1 : BitVec 3) ≠ 0 ∧ coreInPart demo demo.cur 1 = true ∧ (0x4000 : W64).toNat / 2 ^ 57 = 0 ∧ (0x4000 : W64).toNat % 8 = 0 ∧ demo.cur.mcnt = 1 ∧
    rX demo 0 = 0 ∧ demo.cur.mcnt.toNat ≤ (rX demo 1).toNat ∧
    (let s : State := { demo with cur := { demoThread with mcnt := 9 } }
     0 < (rX s 1).toNat ∧ (rX s 1).toNat < s.cur.mcnt.toNat) ∧ (demo.launch? demo.cur.lnch).isSome = true := by
  unfold NumberFree; decide +kernel
theorem witness_EndingAndYielding : guardOn demo 0 = true ∧ CurAlone demo ∧ demo.cur.handler = none ∧ Drained demo ∧ recordAddr demo demo.cur = some 0x10000 ∧
    recordAddr { demo with cur := { demoThread with recd := 0 } } { demoThread with recd := 0 } = none ∧
    ((liveCmds demo demo.cur.core).any fun c => c.tid == demo.cur.tid) = false ∧ mustReturn demo demo.cur = false ∧ isCtl demo.cur.core = false ∧
    mustReturn demoOpen demoOpen.cur = true := by
  unfold CurAlone Drained; decide +kernel
/-- The small state with a barrier word of phase 3 that expects 2 and needs `n` more in its scratchpad. -/
def demoBarrier (n : Nat) : State := { demo with pool := demoPool.writeNat 0x4000 8 (3 * 2 ^ 48 + 2 * 2 ^ 24 + n) }
theorem witness_Barriers :
    (let s := demoBarrier 1
     s.pool.wf = true ∧ guardOn s 0 = true ∧ rX s 5 = 0x2000000000004000 ∧ checkPtr s s.cur .atomic 0x2000000000004000 8 0 = .ok (.pool 0x4000) ∧
      checkPtr s s.cur .load 0x2000000000004000 8 0 = .ok (.pool 0x4000) ∧ within 0x4000 8 (ownRegions s s.cur).spLo (ownRegions s s.cur).spHi = true ∧
      Drained s ∧ MayFix s ∧ s.cur.handler = none ∧ heldBack s false false = false ∧ notYet s [{ ptr := 0x2000000000004000, loc := .pool 0x4000, n := 8, data := [] }] = false) ∧
    (let s := withAccess (newAccess demo 3 .store [{ ptr := 0x3000000000004000, loc := .pool 0x4000, n := 8, data := leBytes 8 1 }] .none 0 0)
     s.cur.wait ≠ some .released ∧ heldBack s false false = false ∧ notYet s [{ ptr := 0x2000000000004000, loc := .pool 0x4000, n := 8, data := [] }] = true) ∧
    (demoBarrier 0).pool.readNat 0x4000 8 % 2 ^ 24 = 0 ∧ (demoBarrier 3).pool.readNat 0x4000 8 % 2 ^ 24 = 3 ∧
    (3 + 2 ^ 16 - (rX demo 3).toNat % 2 ^ 16) % 2 ^ 16 = 1 ∧ (3 + 2 ^ 16 - (rX demo 1).toNat % 2 ^ 16) % 2 ^ 16 = 2 ^ 16 - 2 ∧
    (groupsOf demo.cur).contains 5 = false ∧
    (let s : State := { demo with
      cur := { demoThread with grps := 0x100000005 }
      launches := [{ demoLaunch with liv := [(5, 3)], arr := [(5, 2)] }] }
     CurAlone s ∧ s.cur.wait = none ∧ (groupsOf s.cur).contains 5 = true ∧ Drained s ∧ 0 < s.cur.mcnt.toNat ∧
      (s.launch? s.cur.lnch).any (fun l => countGet l.arr 5 + s.cur.mcnt.toNat == countGet l.liv 5) = true) := by
  unfold Drained MayFix CurAlone; decide +kernel
/-- A seam table at 0x50000 for group 5 with four entries of two state words at 0x51000, of which `held` are held, and one entry of
the other thread with a deadline (R146, R147). -/
def demoSeam (held due : Nat) : State :=
  let h := (((((demoHbm.writeNat 0x50000 8 0x51000).writeNat 0x50008 4 4).writeNat 0x5000C 1 2).writeNat 0x5000E 1 5).writeNat 0x50014 4 held)
  let e := ((((h.writeNat 0x51004 4 1).writeNat 0x5100C 4 1).writeNat 0x51010 8 0x10040).writeNat 0x51018 8 due).writeNat 0x51020 8 0x9000
  { withOther .seam with
    hbm := e
    cur := { demoThread with
      grps := 0x100000005
      seam := some { tbl := 0x50000, words := [0x8008, 0, 1], dln := 0xFFFFFFFFFFFFFFFF, undo := Memory.empty, undoPoison := [], draw := 0 } }
    ts := 100
    seams := if held = 0 then [] else
      [{ pid := demoPid, tbl := 0x50000, base := 0x51000, cap := 4, k := 2, flg := 0, grp := 5, launch := 7 }] }
/-- The bytes of a context's memory that a statement names, or none. -/
def readOf (s : State) (va n : Nat) : List Byte :=
  match ctxRead s demoPid va n with
  | .ok b => b
  | .error _ => []
theorem witness_Meeting_issue : (0x50000 : W64).toNat / 2 ^ 60 = 0 ∧ checkPtr demo demo.cur .load 0x50000 8 0 = .ok (.mem 0x50000) ∧
    remotePlace (.mem 0x50000) = false ∧ demo.cur.handler = none ∧ demo.pre = none := by decide +kernel
theorem witness_Meeting_arrival :
    let s := demoSeam 0 0
    let hdr := readOf s 0x50000 64
    s.pool.wf = true ∧ s.cur.state ≠ .free ∧ s.cur.img = none ∧ nopenOf s s.cur = 0 ∧ hdr.length = 64 ∧ fieldOf hdr 0x14 4 = 0 ∧
      (groupsOf s.cur).contains (fieldOf hdr 0xE 1) = true ∧ powerOfTwo (fieldOf hdr 8 4) = true ∧ fieldOf hdr 0xC 1 = 2 ∧ roundAt s demoPid 0x50000 = none := by
  decide +kernel
theorem witness_Meeting_round :
    (let s := demoSeam 1 50
     (roundAt s demoPid 0x50000).any (fun r => r.grp == 5 && r.launch == 7) = true ∧ countC s 7 5 = 0 ∧ ctxNat s demoPid 0x50014 4 = 1 ∧
      (let b := readOf s 0x51000 48
       b.length = 48 ∧ fieldOf b 0xC 4 = 1 ∧ fieldOf b 0x18 8 ≤ entryTs s { pid := demoPid, tbl := 0x50000, base := 0x51000, cap := 4, k := 2, flg := 0, grp := 5, launch := 7 } b ∧ (s.threadOfRecord? demoPid (BitVec.ofNat 64 (fieldOf b 0x10 8))).any (fun v => v.tid == 1) = true) ∧
      OtherThread s (otherThread .seam)) ∧
    (let s := demoSeam 1 500
     (roundAt s demoPid 0x50000).any (fun r => decide (entryTs s r (readOf s 0x51000 48) < fieldOf (readOf s 0x51000 48) 0x18 8)) = true) ∧
    countC { demoSeam 1 50 with launches := [{ demoLaunch with cnt := [(5, 1)] }] } 7 5 ≠ 0 := by
  unfold OtherThread; decide +kernel
/-- The small state whose thread arrives at the table with two state words, and with an entry held by the other thread under the same words. -/
def demoArrival (same : Bool) : State :=
  let s := demoSeam 0 0
  let h := seamHash [0x8008, 0]
  let a := 0x51000 + 48 * (h % 4)
  { s with
    cur := { s.cur with seam := some { tbl := 0x50000, words := [0x8008, 0], dln := 0xFFFFFFFFFFFFFFFF, undo := Memory.empty, undoPoison := [], draw := 0 } }
    hbm := if same then ((((s.hbm.writeNat a 4 h).writeNat (a + 4) 4 1).writeNat (a + 0xC) 4 1).writeNat (a + 0x10) 8 0x10040).writeNat (a + 0x20) 8 0x8008 else s.hbm }
/-- The entries that its arrival probes. -/
def demoProbes (s : State) : List (Nat × List Byte) :=
  let r := roundOf (readOf s 0x50000 64) demoPid 0x50000 7
  match readEntries { s with seams := [r] } r ((upTo 4).map fun i => (seamHash [0x8008, 0] + i) % 4) with
  | .ok es => es
  | .error _ => []
/-- An entry is held under the words of the arrival. -/
def sameEntry (e : Nat × List Byte) : Bool :=
  fieldOf e.2 0xC 4 == 1 && (fieldOf e.2 0 4 == seamHash [0x8008, 0] && e.2.drop 0x20 == leBytes 8 0x8008 ++ leBytes 8 0)
theorem witness_SeamArrivals_entry :
    (let s := demoArrival false
     let r := roundOf (readOf s 0x50000 64) demoPid 0x50000 7
     s.pool.wf = true ∧ CurAlone s ∧ s.cur.img = none ∧ nopenOf s s.cur = 0 ∧ isPinned s s.cur = false ∧ s.upsets = [] ∧ fieldOf (readOf s 0x50000 64) 0x14 4 = 0 ∧
      (groupsOf s.cur).contains r.grp = true ∧ powerOfTwo r.cap = true ∧ r.k = 2 ∧ r.cap = 4 ∧ r.flg = 0 ∧ releaseWaits { s with seams := [r] } s.cur none = false ∧
      (demoProbes s).length = 4 ∧ (demoProbes s).filter sameEntry = [] ∧ ((demoProbes s).find? fun e => fieldOf e.2 0xC 4 == 0).isSome = true ∧
      (ctxWrite s demoPid (entryAddr r 1) (List.replicate 48 0) matches .ok _) = true) ∧
    (let s := demoArrival true
     CurAlone s ∧ nopenOf s s.cur = 0 ∧ isPinned s s.cur = false ∧
     ((demoProbes s).find? sameEntry).any (fun e => fieldOf e.2 4 4 == 1 && fieldOf e.2 8 4 == 0 && !releaseWaits s s.cur (mergeFrees s s.cur e.2)) = true ∧ s.cur.unitid = 0 ∧ s.cur.mcnt = 1) ∧
    (let s : State := { demoArrival true with accesses := [inFlightOf 0 .store (memPiece [1, 2, 3, 4]) .none], nextId := 1 }
     ((demoProbes s).find? sameEntry).any (fun e => releaseWaits s s.cur (mergeFrees s s.cur e.2)) = true) ∧
    (let s : State := { demoArrival false with
      accesses := [{ inFlightOf 0 .load (memPiece []) (.x 6 4 true) with ord := 1 }], nextId := 1 }
     releaseWaits s s.cur none = true) ∧
    demo.thread? 5 = none ∧ (demo.thread? 0).any (fun u => u.seam.isNone) = true := by
  unfold CurAlone; decide +kernel
theorem witness_LaunchesAndTasks :
    (demo.cur.handler = none ∧ Drained demo ∧ MayFix demo ∧ isCtl demo.cur.core = false ∧
      checkPtrs demo demo.cur .store 8 [] [0x20000 + 0xF8] = .ok [.mem 0x200F8] ∧
      checkPtrs demo demo.cur .load 8 [] [0x20000 + 0x40, 0x20000 + 0x48] = .ok [.mem 0x20040, .mem 0x20048] ∧ ownWait demo 1 = none ∧
      (takeEntries demo 1 (some 7) 1).isSome = true ∧ ((threadPlace demo { demo.cur with pid := demoPid, priv := 1 } .atomic 0 0x20090).2 matches .ok (.mem 0x20090)) = true) ∧
    takeEntries (demo.modPart 1 fun p => { p with taken := 4096 }) 1 (some 7) 1 = none ∧
    (let s : State := { demo with launches := [] }
     s.launch? s.cur.lnch = none) ∧ partConfigured demo 1 = true ∧ partConfigured demo 2 = false := by
  unfold Drained MayFix; decide +kernel
/-- A block of one unit at 0x20000 that passes its check (R129, R132). -/
def demoBlock : Memory :=
  ((((((demoHbm.writeNat 0x20000 8 0x9000).writeNat 0x20010 2 1).writeNat 0x20012 2 1).writeNat 0x20014 2 1).writeNat 0x20020 8 0x01010108).writeNat
    0x20028 8 0xFEDCBA9876543210).writeNat 0x20040 8 0x110
theorem witness_LaunchSteps :
    (demo.launch? 7).any (fun l => l.state == 1 && l.live == 1) = true ∧ badRange demo demoPid 0x20000 256 256 = false ∧ badRange demo demoPid 0x20008 256 256 = true ∧
    (readOf demo 0x20000 256).length = 256 ∧ rejectReason demo { demoLaunch with state := 0 } demoPid (readOf demo 0x20000 256) ≠ 0 ∧
    (let s : State := { demo with hbm := demoBlock, launches := [{ demoLaunch with state := 0 }] }
     rejectReason s { demoLaunch with state := 0 } demoPid (readOf s 0x20000 256) = 0) ∧
    (let l := { demoLaunch with live := 0 }
     l.live = 0 ∧ l.state ≠ 0) ∧
    (let s := demo.modPart 1 fun p => { p with waiters := [{ isLaunch := false, id := 0, need := 3, ofParent := 1, free := 2 }] }
     (s.part 1).waiters = [{ isLaunch := false, id := 0, need := 3, ofParent := 1, free := 2 }]) := by decide +kernel
theorem witness_SlotSteps :
    (slotVacant demo 0 0 = false ∧ slotVacant demo 0 3 = true) ∧
    (let s : State := { withOther .ready with threads := [{ otherThread .ready with place := .fifo 0, img := none }] }
     let u := { otherThread .ready with place := .fifo 0, img := none }
     (nextForSlot s 0 3).1 = some u ∧ (nextForSlot s 0 3).2 = s ∧ OtherThread s u ∧ u.core = 0 ∧ u.img = none ∧ beginHolding s u = s ∧ slotNamed s 0 3 = true) ∧
    (let s : State := { demo with cur := { demoThread with wait := some (.barrier 0 0x4000 1), waitFrom := 0 }, ts := 64 }
     s.cur.state = .running ∧ waitSuspends s s.cur = true ∧ s.cur.waitFrom + 64 ≤ s.ts ∧ waitsPast s.cur = true) ∧ waitSuspends demo demo.cur = false ∧
    (let s : State := { demo with cur := { demoThread with wait := some (.record 1), waitFrom := 0 }, ts := 64 }
     waitSuspends s s.cur = true ∧ waitsPast s.cur = false) ∧
    heldInMesh ((withOther .ready).modPart 1 fun p => { p with worldPhase := 1 }) (otherThread .ready) = true ∧
    (let s : State := { withOther .ready with cores := [(0, { CoreSt.reset with table := 0, pword := 0x401020208 })] }
     heldInMesh s (otherThread .ready) = false ∧
      ((upTo 16).find? fun i => slotVacant s 0 i && class0Slot s 0 i == isClass0 s (otherThread .ready) && mayRun s (otherThread .ready)) = none ∧ OtherThread s (otherThread .ready) ∧
      (messageRoute (otherThread .ready) 0).any (s.linksDown.contains ·) = false) ∧
    (let u := { otherThread .ready with sender := 256 }
     let s : State := { demo with threads := [u], nextTid := 2, linksDown := hemRoute 1 0 }
     (messageRoute u 0).any (s.linksDown.contains ·) = true ∧ OtherThread s u ∧ heldInMesh s u = false) := by
  unfold OtherThread; decide +kernel
theorem witness_QueueRegisters : MayQueue demo ∧ Drained demo ∧ MayFix demo ∧ (0 : BitVec 3).toNat % 2 = 0 ∧ (7 : BitVec 3).toNat % 2 = 1 ∧ queueHasRoom demo 0 0 = true ∧
    outstanding demo demo.cur 0 = 0 ∧ oldestRecord demo 1 = none ∧
    (let s := demo.modCore 0 fun c => { c with records := [{ q := 1, tid := 0, words := 0 }] }
     oldestRecord s 1 = some { q := 1, tid := 0, words := 0 }) := by
  unfold MayQueue Drained MayFix
  exact ⟨⟨by decide +kernel, fun c => by simp [demo, demoThread, Thread.make]⟩, by decide +kernel⟩
theorem witness_QueueRegisters_waits :
    queueHasRoom (demo.modCore 0 fun c => { c with cmds := List.replicate 16 (demoCmd 0 0) }) 0 0 = false ∧ outstanding (withCmd 0 0) demoThread 0 = 1 := by decide +kernel
theorem witness_WaitsBatchesAndStreams :
    ((demo.accesses.filter fun x => x.tid == demo.cur.tid).length = 0 ∧ demo.cur.batches.length ≤ (0 : BitVec 5).toNat ∧ demo.cur.streams = []) ∧
    (let s := withAccess (inFlightOf 0 .load (memPiece []) (.x 6 4 true))
     (0 : BitVec 5).toNat < (s.accesses.filter fun x => x.tid == 0 && (x.op.isLoad && !x.amo)).length) ∧
    heldBack demo false false = false ∧
    (let s := withAccess (inFlightOf 0 .store (memPiece [1, 2, 3, 4]) .none)
     (0 : BitVec 5).toNat < (s.accesses.filter fun x => x.tid == 0 && (!x.op.isLoad && !x.early)).length) ∧
    (let s : State := { demo with
      cur := { demoThread with
        batches := List.replicate 16 { num := 1, open' := [1] }
        streams := [{ sreg := 1, size := 4, bound := some 1, dst := 0x4000, total := 64, next := 0 },
          { sreg := 2, size := 64, bound := some 1, dst := 0x4000, total := 64, next := 0 }] } }
     (15 : BitVec 5).toNat < s.cur.batches.length ∧ 16 ≤ s.cur.batches.length ∧ landed s 0 0 1 0 4 = true ∧ poisonedLoc s (.pool 0x4000) 64 = false ∧
      (s.cur.streams.find? fun x => x.sreg == 1).any (fun x => x.bound == some 1 && x.size != 64) = true ∧
      (s.cur.streams.find? fun x => x.sreg == 2).any (fun x => x.size == 64) = true) ∧
    (let s : State := { withCmd 2 (64 * 2 ^ 256) with cur := { demoThread with streams := [{ sreg := 1, size := 4, bound := some 16, dst := 0x4000, total := 64, next := 0 }] } }
     landed s 0 0 16 0 4 = false) := by decide +kernel
/-- A token automaton of two states and three tokens at 0x60000: a transition from state 1 on token 2 to state 0, which accepts (R292, R293). -/
def demoAutomaton : State :=
  { demo with
    hbm := (((((demoHbm.writeNat 0x60000 8 0x60100).writeNat 0x60008 8 0x60200).writeNat 0x60010 4 2).writeNat 0x60014 4 3).writeNat (0x60100 + 4 * 5) 4 0x80000000).writeNat
      0x60200 4 1 }
theorem witness_AutomatonAndWatch :
    (let s := demoAutomaton
     heldBack s false false = false ∧ ownAccesses s s.cur.tid = [] ∧ checkPtr s s.cur .load 0x60000 64 0 = .ok (.mem 0x60000) ∧ poisonedLoc s (.mem 0x60000) 24 = false ∧
      (let head := leNat (readLoc s (.mem 0x60000) 24)
       head / 2 ^ 128 % 2 ^ 32 = 2 ∧ head / 2 ^ 160 % 2 ^ 32 = 3 ∧ head % 2 ^ 64 + 4 * (1 * 3 + 2) = 0x60114) ∧
      checkPtr s s.cur .load 0x60114 4 0 = .ok (.mem 0x60114) ∧ leNat (readLoc s (.mem 0x60114) 4) = 2 ^ 31 ∧ checkPtr s s.cur .load 0x60200 4 0 = .ok (.mem 0x60200) ∧ notYet s [{ ptr := 0x60000, loc := .mem 0x60000, n := 24, data := [] }] = false ∧
      countDrops s [.mem 0x60000] = s ∧ (wsOf s = (newAccess s 0 .load [] .none 0 0).base)) ∧
    (let a := { inFlightOf 0 .load (memPiece []) (.fixed [(.x 6, 1), (.p 2, 1), (.p 3, 0), (.p 1, 0)]) with early := true }
     (withAccess a).accesses.find? (fun y => y.id == 0) = some a ∧ a.poison = false ∧ a.base = wsOf (withAccess a) ∧ a.tid = (withAccess a).cur.tid ∧ (withAccess a).cur.seam = none) ∧
    bitAt (demo.core 0).pword.toNat 34 = true ∧ (demo.core 0).watch = none ∧ (demo.core 0).watchBusy = false ∧
    bitAt ((demo.modCore 0 fun c => { c with pword := 0 }).core 0).pword.toNat 34 = false ∧
    badAddr demo demo.cur 0x2000000000004000 1 = false ∧ within 0x4000 64 (ownRegions demo demo.cur).spLo (ownRegions demo demo.cur).spHi = true := by decide +kernel
/-- A Crown ring of two members, cores 0 and 1, at 0x70000, held by member `hold` (R392). -/
def demoRing (hold : Nat) : State :=
  { demo with hbm := (((demoHbm.writeNat 0x70000 4 2).writeNat 0x70004 4 hold).writeNat 0x70008 8 9).writeNat 0x70048 8 1 }
/-- Its descriptor. -/
def ringOf (s : State) : Option Ring :=
  match readRing (fixedWindows s) 0x70000 with
  | .ok r => some r
  | .error _ => none
theorem witness_Crown :
    (let s := demoRing 0
     s.cur.wait = none ∧ heldBack s true false = false ∧ checkPtr s s.cur .atomic 0x70000 64 0 = .ok (.mem 0x70000) ∧ MayFix s ∧ 0x70000 ∉ s.cur.crowns ∧
      (∀ t ∈ s.allThreads, t.tid = s.cur.tid) ∧ (0x70008 / 8) ∉ s.hbmPoison ∧ (0x70008 / 8) ∈ { s with hbmPoison := [0xE001] }.hbmPoison ∧
      (ringOf s).any (fun r => r.nmem == 2 && !r.reserved && r.cst == 0 && isMe s 0 (r.members.getD r.hold 0)) = true) ∧
    (ringOf (demoRing 1)).any (fun r => !isMe demo 0 (r.members.getD r.hold 0) && r.members.any (isMe demo 0)) = true ∧
    (let s : State := { demoRing 0 with cur := { demoThread with crowns := [0x70000] } }
     0x70000 ∈ s.cur.crowns ∧ ownAccesses s s.cur.tid = []) ∧
    (let s : State := { demo with cur := { demoThread with wait := some (.crown 0x70000 50) } }
     CurAlone s ∧ s.ts < 50 ∧ s.allThreads.filter (fun u => waitsForCrown u 0 0x70000 && mayRun s u) = [s.cur]) ∧ demo.thread? 5 = none ∧
    (let t : Thread := { otherThread .waiting with crownWait := some 0x70000, core := 0 }
     let s : State := { demoRing 0 with threads := [t], nextTid := 2 }
     ¬ ∀ t ∈ s.allThreads, t.tid = s.cur.tid ∨ t.core ≠ s.cur.core ∨ t.crownWait ≠ some 0x70000) := by
  unfold MayFix CurAlone; decide +kernel

/-- The engine's range lies at the places named, and the state that its walk leaves meets `p`. -/
def placesAre (r : Except EngineStop (List (Loc × Nat) × State)) (l : List (Loc × Nat)) (p : State → Bool) : Bool :=
  match r with
  | .ok (x, s1) => x == l && p s1
  | .error _ => false
/-- What the walk keeps, with no link cut off (see `witness_links`). -/
def keepsMost (s s1 : State) : Bool :=
  s1.pool == s.pool && s1.cores == s.cores && s1.cur == s.cur && s1.threads == s.threads && s1.ts == s.ts && s1.hbm.wf && s1.linksDown.isEmpty && s1.linksWait.isEmpty
/-- A TILE of one step on INT8 operands at 0x4000 and 0x5000 (R306), and what the MXU makes of it. -/
def demoTile : Nat := 4 * 2 ^ 41 + 2 ^ 35 + 0x4000 * 2 ^ 64 + 0x5000 * 2 ^ 128 + 32 * 2 ^ 256 + 32 * 2 ^ 288
/-- A DRAIN of 16 rows of FP32 to 0x6000 (R307). -/
def demoDrain : Nat := 2 ^ 44 + 0x6000 * 2 ^ 192 + 64 * 2 ^ 320
/-- The run of a command. -/
def demoRun (words : Nat) : MxuRun :=
  { cmd := demoCmd 0 words, ctx := 0, step := 0, row := 0, flags := 0, handling := false, status := 0, stopped := none, faddr := 0 }
/-- The small state with an MXU run. -/
def withRun (r : MxuRun) : State := demo.modCore 0 fun c => { c with mxu := [r] }
theorem witness_MatrixUnit_commands :
    (demo.core 0).mxu = [] ∧ headCmd demo 0 0 = none ∧ headCmd (withCmd 0 demoTile) 0 0 = some (demoCmd 0 demoTile) ∧ heldCmd (withCmd 0 demoTile) 0 (demoCmd 0 demoTile) = false ∧
    heldCmd ((withCmd 0 demoTile).modPart 1 fun p => { p with worldPhase := 1 }) 0 (demoCmd 0 demoTile) = true ∧
    heldCmd { withStore with cores := [(0, { CoreSt.reset with cmds := [{ demoCmd 0 demoTile with behind := [0] }] })] } 0 { demoCmd 0 demoTile with behind := [0] } = true ∧
    (demoCmd 0 demoTile).kind = 0 ∧ mxCheck (withCmd 0 demoTile) 0 (demoCmd 0 demoTile) = none ∧
    (demoCmd 0 demoDrain).kind = 1 ∧ mxCheck (withCmd 0 demoDrain) 0 (demoCmd 0 demoDrain) = none ∧
    (demoCmd 0 (2 * 2 ^ 44)).kind = 2 ∧ mxCheck (withCmd 0 (2 * 2 ^ 44)) 0 (demoCmd 0 (2 * 2 ^ 44)) = none ∧
    (mxCheck (withCmd 0 (3 * 2 ^ 44)) 0 (demoCmd 0 (3 * 2 ^ 44))).isSome = true ∧ (mxCheck (withCmd 0 (2 ^ 44 + 1)) 0 (demoCmd 0 (2 ^ 44 + 1))).isSome = true ∧
    (mxCheck (withCmd 0 (2 * 2 ^ 44 + 1)) 0 (demoCmd 0 (2 * 2 ^ 44 + 1))).isSome = true ∧ (withCmd 0 demoTile).thread? 0 = some demoThread := by decide +kernel
theorem witness_MatrixUnit_steps :
    (let r := demoRun demoTile
     let s : State := { withRun r with mxLast := [(0, 0)] }
     s.upsets = [] ∧ mxStepRun (withRun r) 0 = some r ∧ mxStepRun { withRun r with upsets := [.parity] } 0 = some r ∧ frozen s 0 r.cmd = false ∧ accStart s r.cmd 0 = 0xBE000 ∧ mxBlocked s 0 r.cmd 0xBE000 1024 = false ∧
      (upTo 16).all (fun m => !poisonedLoc s (.pool (0xBE000 + 64 * m)) 64) = true ∧
      placesAre (enginePlaces s (engineThread s r.cmd 0) false 0x4000 32) [(.mem 0x4000, 32)] (keepsMost s) = true ∧ placesAre (enginePlaces s (engineThread s r.cmd 0) false 0x51E0 32) [(.mem 0x51E0, 32)] (keepsMost s) = true) ∧
    mxStepRun demo 0 = none ∧
    (let r := demoRun demoDrain
     let s := withRun r
     mxDrainRun s 0 = some r ∧ r.row + 1 < mxM r.cmd.words ∧ mxRhe r.cmd.words = false ∧ poisonedLoc s (.pool 0xBE000) 64 = false ∧
      placesAre (enginePlaces s (engineThread s r.cmd 0) true 0x6000 64) [(.mem 0x6000, 64)] (keepsMost s) = true) := by decide +kernel
/-- A thread of a fault service at supervisor level, and a stopped run of the other thread's TILE. -/
def demoService : State :=
  { withOther .ready with
    cur := { demoThread with priv := 3, pid := 0x0001 }
    pool := demoPool.writeNat 8 8 0x01010000
    cores := [(0, { CoreSt.reset with pword := 0x401020208, mxu := [{ demoRun demoTile with cmd := { demoCmd 0 demoTile with tid := 1 }, stopped := some 5 }] })] }
theorem witness_MatrixUnit_resume :
    let s := demoService
    let r := { demoRun demoTile with cmd := { demoCmd 0 demoTile with tid := 1 }, stopped := some 5 }
    guardOn s 0 = true ∧ 1 ≤ s.cur.priv ∧ rX s 1 = 0x01010000 ∧ (s.core 0).mxu = [r] ∧ holderOf s 0 = some demoPid ∧ frozen s 0 r.cmd = false ∧ s.kills = [] ∧
      Drained s ∧ r.step < mxSteps r.cmd ∧ s.thread? 1 = some (otherThread .ready) ∧ OtherThread s (otherThread .ready) ∧ (s.core 0).cmds = [] ∧
      (rX s 2).toNat / 2 ^ 32 ≠ 0 ∧ (rX s 0).toNat = 0 ∧ ((demo.core 0).mxu.find? fun x => x.stopped.isSome) = none ∧ mxAway demo 0 demoPid = false ∧
      mxAway { demo with kills := [{ id := 3, pids := [demoPid], tenant := none, stopped := [0] }] } 0 demoPid = true := by
  unfold Drained OtherThread; decide +kernel
/-- A copy of 64 bytes from 0x4000 to 0x6000 (R309). -/
def demoCopy : Nat := 0x4000 * 2 ^ 64 + 0x6000 * 2 ^ 128 + 64 * 2 ^ 256
/-- Its run, with a packet that has still to land. -/
def demoCopyRun : CopyRun :=
  { id := 4, core := 0, part := 1, cmd := demoCmd 2 demoCopy, readTo := 0
    packets := [{ num := 0, dest := 0, spans := [(0, 64)], parts := [(.mem 0x6000, List.replicate 64 1)] }], nextPacket := 1, chunks := [], arrived := []
    flags := 0, status := 0, faddr := 0, stopped := none, began := 0 }
/-- The small state with the copy under way. -/
def withCopy (r : CopyRun) : State := { demo with copies := [r], nextId := 5 }
theorem witness_Copies_begin : copyHead demo 0 = none ∧ unread demo 0 = [] ∧ copyHead (withCmd 2 demoCopy) 0 = some (demoCmd 2 demoCopy) ∧
    cpCheck (withCmd 2 demoCopy) 0 (demoCmd 2 demoCopy) = none ∧ (cpCheck (withCmd 2 1) 0 (demoCmd 2 1)).isSome = true ∧
    unread (withCopy demoCopyRun) 0 = [demoCopyRun] ∧ copyHead (withCopy demoCopyRun) 0 = none ∧
    placesAre (enginePlaces (withCopy demoCopyRun) (engineThread demo demoCopyRun.cmd 0) false 0x4000 64) [(.mem 0x4000, 64)] (keepsMost (withCopy demoCopyRun)) = true := by decide +kernel
theorem witness_Copies_land :
    (let s := withCopy demoCopyRun
     s.copy? 4 = some demoCopyRun ∧ (demoCopyRun.packets.find? fun x => x.num == 0).any (fun k => k.parts.map (·.1) == [.mem 0x6000]) = true ∧
      frozen s 0 demoCopyRun.cmd = false ∧ demo.copies = [] ∧ (demo.core 0).landing = [] ∧ suppressed demoCopyRun.cmd = false ∧ s.thread? 0 = some demoThread) ∧
    frozen ((withCopy demoCopyRun).modPart 1 fun p => { p with worldPhase := 1 }) 0 demoCopyRun.cmd = true ∧
    (let s := (withCopy demoCopyRun).modCore 0 fun c => { c with landing := [(4, 0)] }
     (s.core 0).landing = [(4, 0)] ∧ ∀ t ∈ s.allThreads, t.slot ≠ 14) ∧
    (arrive (3 * 2 ^ 48 + 2 * 2 ^ 24 + 1) 1).isSome = true ∧ arrive 0 1 = none := by decide +kernel
/-- A column sum of 64 bytes of core 0 alone into its scratchpad at 0x4000 (R387). -/
def demoSum : Nat := 7 * 2 ^ 28 + 0x8000 * 2 ^ 64 + 0x4000 * 2 ^ 128 + 1 * 2 ^ 256 + 64 * 2 ^ 288 + 1 * 2 ^ 320
/-- Its run with its one contribution read. -/
def demoSumRun : SumRun :=
  { id := 4, part := 1, rid := 7, first := demoCmd 4 demoSum, parts' := [(0, demoCmd 4 demoSum, some (List.replicate 64 0))], rows := [0], acc := none
    flags := 0, status := 0, stops := [] }
theorem witness_ColumnSums :
    (headCmd demo 0 4 = none ∧ headCmd (withCmd 4 demoSum) 0 4 = some (demoCmd 4 demoSum) ∧ heldCmd (withCmd 4 demoSum) 0 (demoCmd 4 demoSum) = false ∧
      heldCmd ((withCmd 4 demoSum).modPart 1 fun p => { p with worldPhase := 1 }) 0 (demoCmd 4 demoSum) = true ∧ demo.upsets = [] ∧
      csCheck (withCmd 4 demoSum) 0 (demoCmd 4 demoSum) = none ∧ openSum (withCmd 4 demoSum) 0 (demoCmd 4 demoSum) = none ∧
      (csCheck (withCmd 4 1) 0 (demoCmd 4 1)).isSome = true ∧ (withCmd 4 demoSum).sums = [] ∧
      placesAre (enginePlaces (withCmd 4 demoSum) (engineThread demo (demoCmd 4 demoSum) 0) false 0x8000 64) [(.mem 0x8000, 64)] (keepsMost (withCmd 4 demoSum)) = true) ∧
    (let s : State := { demo with sums := [demoSumRun], nextId := 5 }
     s.sum? 4 = some demoSumRun ∧ demoSumRun.rows.head? = some 0 ∧ frozen s 0 demoSumRun.first = false ∧ (rowParts demoSumRun 0).isSome = true ∧
      csDest demoSumRun.first = 0 ∧ csBare demoSumRun.first = false ∧ (s.core 0).watch = none ∧ suppressed (demoCmd 4 demoSum) = false ∧ s.thread? 0 = some demoThread) ∧
    rowParts demoSumRun 1 = none ∧
    (let x : SumRun := { demoSumRun with parts' := [(64, demoCmd 4 demoSum, none)] }
     let s : State := { withCmd 4 demoSum with sums := [x], nextId := 5 }
     openSum s 0 (demoCmd 4 demoSum) = some x ∧ x.stops = [] ∧ s.sum? x.id = some x ∧ csCheck s 0 (demoCmd 4 demoSum) = none ∧ ∀ p ∈ x.parts', p.1 ≠ 0) := by decide +kernel
/-- An OBJ command for a counter (R319, R322). -/
def demoObj : Nat := 2 ^ 32 + 0x1000 * 2 ^ 128 + 1 * 2 ^ 160
/-- The small state with a Measure command, and with the counter defined. -/
def withMeasure (words : Nat) : State :=
  { withCmd 6 words with
    measure := [{ cluster := 0, store := Memory.empty, fifo := [], objs := [{ idx := 0, tenant := 1, type := 1, off := 0x1000, p1 := 1, p2 := 0, seq := 0 }], filters := []
                  trigs := [], counts := [], samples := 0, busy := 0, now := none }] }
theorem witness_MeasureEngine_commands :
    (headCmd demo 0 6 = none ∧ demo.hbm.wf = true ∧ (demo.measureOf 0).store.wf = true ∧ headCmd (withCmd 6 demoObj) 0 6 = some (demoCmd 6 demoObj) ∧ heldCmd (withCmd 6 demoObj) 0 (demoCmd 6 demoObj) = false ∧
      heldCmd ((withCmd 6 demoObj).modPart 1 fun p => { p with worldPhase := 1 }) 0 (demoCmd 6 demoObj) = true ∧ (demoCmd 6 demoObj).kind ≠ 1 ∧
      (withCmd 6 demoObj).thread? 0 = some demoThread ∧ msCheck (takeCmd (withCmd 6 demoObj) 0 6) 0 (demoCmd 6 demoObj) = none) ∧
    (∀ w ∈ [2 * 2 ^ 44, 3 * 2 ^ 44 + 2 ^ 30, 4 * 2 ^ 44, 6 * 2 ^ 44, 5 * 2 ^ 44 + 0x6000 * 2 ^ 64, 2 ^ 44 + 0x4000 * 2 ^ 64 + 2 ^ 128], msCheck (takeCmd (withMeasure w) 0 6) 0 (demoCmd 6 w) = none) ∧
    (msCheck (takeCmd (withCmd 6 (7 * 2 ^ 44)) 0 6) 0 (demoCmd 6 (7 * 2 ^ 44))).isSome = true ∧ msCheck (takeCmd (withMeasure (2 ^ 44 + 0x4000 * 2 ^ 64)) 0 6) 0 (demoCmd 6 (2 ^ 44 + 0x4000 * 2 ^ 64)) = none ∧
    flBad ((withMeasure 0).measureOf 0) 1 0 1 0 = false ∧ flBad ((withMeasure 0).measureOf 0) 1 0 1 0xF8000000 = true ∧
    placesAre (enginePlaces (withMeasure 0) demoThread true 0x6000 4) [(.mem 0x6000, 4)] (keepsMost (withMeasure 0)) = true ∧
    placesAre (enginePlaces (withMeasure 0) demoThread false 0x4000 4) [(.mem 0x4000, 4)] (keepsMost (withMeasure 0)) = true := by decide +kernel
theorem witness_MeasureEngine_events :
    ((demo.measureOf 0).fifo = [] ∧ holderOf demo 0 = some demoPid ∧ holderOf State.reset 0 = none) ∧
    (let s : State := { demo with measure := [{ (withMeasure 0).measureOf 0 with fifo := List.replicate 64 (1, [0, 0x07000000]) }] }
     64 ≤ (s.measureOf 0).fifo.length ∧ (s.measureOf 0).busy ≤ s.ts ∧ (s.measureOf 0).now = none ∧ (s.measureOf 0).filters = []) ∧
    (let s : State := { demo with
      measure := [{ (withMeasure 0).measureOf 0 with
        now := some (1, [0, 0x07000000], 0), filters := [{ idx := 0, tenant := 1, pid := demoPid, cls := 7, prog := [0] }, { idx := 1, tenant := 1, pid := demoPid, cls := 9, prog := [0] }] }]
      budgets := [(1, 5)] }
     ((s.measureOf 0).filters.find? fun f => f.idx == 0 && f.tenant == 1 && f.cls == 7).isSome = true ∧ (s.measureOf 0).busy ≤ s.ts ∧ ((s.measureOf 0).count 1).used + 1 ≤ budgetOf s 1 ∧ budgetOf demo 1 < ((s.measureOf 0).count 1).used + 1 ∧
      (s.measureOf 0).filters.any (fun f => f.tenant == 1 && f.cls == 9) = true) := by decide +kernel
/-- The numbers where the clauses of WRSR meet: 7 is no register that WRSR writes, 8 and 11 take PRIV, and 12 and 14 do not. -/
theorem witness_PrivilegeAndGuard : guardOn demo 0 = true ∧ demo.cur.priv < 1 ∧ demo.cur.priv = 0 ∧ guardOn demo 8 = false ∧
    (Instr.wrsr 1 7 0).wf = false ∧ (Instr.wrsr 1 8 0).wf = true ∧ (Instr.wrsr 1 11 0).wf = true ∧ (Instr.wrsr 1 14 0).wf = true ∧ (Instr.wrsr 1 15 0).wf = false ∧
    (Instr.rdsr 1 17 0).wf = true ∧ (Instr.rdsr 1 18 0).wf = false ∧
    (∀ n ∈ ([8, 9, 10, 11] : List (BitVec 11)), after (.wrsr 1 n 0) demo = trap demo 0x02 (bundleNow demo)) ∧
    after (.wrsr 1 12 0) demo ≠ trap demo 0x02 (bundleNow demo) := by
  decide +kernel
theorem witness_ExceptionsAreTaken : CanTrap demo ∧ guardOn demo 0 = true ∧ sysQ demo (svcAt demoPid + 0x10) = 0 ∧ (0xFF : Nat) < 256 ∧
    sysQ { demo with sys := demoSys.writeNat (svcAt demoPid + 0x10) 8 0x9000 } (svcAt demoPid + 0x10) ≠ 0 ∧
    (let s : State := { demo with pool := demoPool.writeNat 0x180 4 0x1001 }
     bitAt (s.pool.readNat (wsKey s.cur + 0x180) 4) 12 = true) := by
  unfold CanTrap; decide +kernel
/-- A supervisor whose TCAUSE and TPC hold values (R364). -/
def demoSuper (tcause tpc : Nat) : State :=
  { demo with cur := { demoThread with priv := 1 }, pool := ((demoPool.writeNat 0x198 8 tcause).writeNat 0x1A8 8 tpc).writeNat 0x180 4 0x1001 }
theorem witness_RettReturns :
    (let s := demoSuper 0x12 0x9000
     s.pool.wf = true ∧ s.pre = none ∧ guardOn s 0 = true ∧ 1 ≤ s.cur.priv ∧ getSt s 0x198 8 / 2 ^ 8 % 4 = 0 ∧ getSt s 0x1A8 8 = 0x9000 ∧ s.cur.heldAsync = []) ∧
    getSt (demoSuper 0x212 0) 0x198 8 / 2 ^ 8 % 4 = 2 ∧ getSt (demoSuper 0x112 (2 ^ 57)) 0x1A8 8 = 2 ^ 57 ∧ getSt (demoSuper 0x112 0x9004) 0x1A8 8 % 8 = 4 ∧
    (let s : State := { demoSuper 0x12 0x9000 with cur := { demoThread with priv := 1, heldAsync := [1] } }
     s.cur.heldAsync = [1] ∧ s.pool.readNat (wsKey s.cur + 0x1D8) 8 = 0x3000) := by decide +kernel
theorem witness_SpecialRegisters : guardOn demo 0 = true ∧ 1 ≤ (demoSuper 0 0).cur.priv ∧ (rX demo 0).toNat < 2 ^ 5 ∧ 2 ^ 57 ≤ (rX demo 2).toNat ∧ 2 ^ 10 ≤ (rX demo 4).toNat ∧
    (rX demo 1).toNat % 8 = 5 ∧ (5 : BitVec 8).toNat ≤ 5 ∧ demo.cur.latch = none ∧
    (let s : State := { demo with cur := { demoThread with latch := some (0, 3) } }
     s.cur.latch = some (0, 3)) := by decide +kernel
/-- A LIVE.D descriptor of `n` extents at 0x4000, each of `len` bytes at `off` (R368). -/
def withLive (n off len : Nat) : State :=
  { demo with hbm := ((demoHbm.writeNat 0x4000 8 (n * 2 ^ 32)).writeNat 0x4008 8 (len * 2 ^ 32 + off)).writeNat 0x4010 8 (len * 2 ^ 32 + off) }
theorem witness_WorkspaceLiveAndSlotTable :
    (let s : State := { demoSuper 0 0 with pool := (demoSuper 0 0).pool.writeNat 8 8 0x2000000000001000 }
     1 ≤ s.cur.priv ∧ rX s 1 = 0x2000000000001000 ∧ (ownRegions s s.cur).wsLo ≤ 0x1000 ∧ 0x1000 + (frameRing s s.cur - 1) * 0x800 < (ownRegions s s.cur).wsHi ∧ s.cur.depth = 0 ∧
      nopen s = 0 ∧ s.pool.readNat (poolKey 0 0x1000 + 0x193) 1 = 0) ∧
    (rX demo 4).toNat / 2 ^ 60 ≠ 2 ∧ ¬ (0x7800 < (ownRegions demo demo.cur).wsHi) ∧ (demo.core 0).newTables = [] ∧
    (let s := demo.modCore 0 fun c => { c with newTables := [(0, 0)] }
     (s.core 0).newTables = [(0, 0)] ∧ 0 ≤ s.ts ∧ (s.core 0).tenantTable = none) ∧
    demo.hbm.wf = true ∧ recordAddr demo demo.cur = some 0x10000 ∧ recordAddr { demo with cur := { demoThread with recd := 0 } } { demoThread with recd := 0 } = none ∧
    countDrops demo [.mem 0x8028] = demo ∧ poisonedLoc { demo with hbmPoison := [0x1005] } (.mem 0x8028) 8 = true ∧ heldBack demo false false = false ∧
    (let s := withLive 2 0x4000 0x40
     checkPtrs s s.cur .load 8 [] [0x4000] = .ok [.mem 0x4000] ∧ leNat (readLoc s (.mem 0x4000) 8) / 2 ^ 32 = 2 ∧ poisonedLoc s (.mem 0x4000) 8 = false ∧
      (let ps := (upTo 2).map fun i => (0x4000 : W64) + BitVec.ofNat 64 (8 * (i + 1))
       let ls := (upTo 2).map fun i => Loc.mem (0x4000 + 8 * (i + 1))
       checkPtrs s s.cur .load 8 [] ps = .ok ls ∧ notYet s ((ps.zip ls).map fun p => { ptr := p.1, loc := p.2, n := 8, data := [] }) = false ∧
        ls.all (fun x => !poisonedLoc s x 8) = true ∧ ls.map (fun x => leNat (readLoc s x 8)) = [0x4000004000, 0x4000004000]) ∧
      within 0x4000 0x40 (ownRegions s s.cur).spLo (ownRegions s s.cur).spHi = true ∧ within 0x100000 0x40 (ownRegions s s.cur).spLo (ownRegions s s.cur).spHi = false) ∧
    leNat (readLoc (withLive 5 0x4000 0x40) (.mem 0x4000) 8) / 2 ^ 32 = 5 ∧ (0x4000 : Nat) % 64 = 0 ∧ (0x4020 : Nat) % 64 ≠ 0 ∧
    checkPtr demo demo.cur .fetch 0x8028 8 0 = .ok (.mem 0x8028) ∧ poisonedLoc demo (.mem 0x8028) 8 = false ∧ leNat (readLoc demo (.mem 0x8028) 8) = 0 ∧
    leNat (readLoc demo (.mem 0x1000) 8) < 2 ^ 32 ∧ (rX demo 2).toNat / 2 ^ 60 = 15 ∧ rangeCause demo demo.cur .load 0x4000 40 8 = none ∧
    checkPtrs demo demo.cur .load 8 [] ((upTo 5).map fun i => 0x4000 + BitVec.ofNat 64 (8 * i)) = .ok ((upTo 5).map fun i => .mem (0x4000 + 8 * i)) := by decide +kernel
/-- A firmware thread of identifier 1. -/
def demoFirm : State := { demo with cur := { demoThread with priv := 3, pid := 0x0001 }, pool := (demoPool.writeNat 8 8 0x0101).writeNat 0x18 8 0x0100 }
theorem witness_InvalidationsAndKills :
    (let s := demoFirm
     s.pool.wf = true ∧ s.sys.wf = true ∧ guardOn s 0 = true ∧ 2 ≤ s.cur.priv ∧ resumed s = false ∧ rX s 1 = 0x0101 ∧ Drained s ∧ cstate s demoPid = 1 ∧ cstate s 0x0100 = 0 ∧
      2 ^ 16 ≤ (rX s 2).toNat ∧ s.kills = [] ∧ demoPid ≠ s.cur.pid ∧ (rX s 3).toNat % 256 = 0 ∧ ((upTo 256).map fun i => BitVec.ofNat 16 (0x0100 + i)).contains s.cur.pid = false ∧
      (((upTo 256).map fun i => BitVec.ofNat 16 (0x0100 + i)).filter fun p => cstate s p != 0) = [demoPid]) ∧
    (let s : State := { demoFirm with cur := { demoFirm.cur with wait := some .released } }
     resumed s = true) ∧
    unperformed withStore withStore.cur.tid withStore.nextId ≠ [] ∧
    (let v : Inval := { id := 3, tid := 0, pid := demoPid, lo := 0, hi := 4096, begun := none, spans := [] }
     invalDone demoFirm v = false) ∧
    (let v : Inval := { id := 3, tid := 0, pid := demoPid, lo := 0, hi := 4096, begun := some 4, spans := [(0, 4096)] }
     let s : State := { demoFirm with invals := [v], nextId := 4, cur := { demoFirm.cur with wait := some (.stinv 3) } }
     (s.invals.find? fun v => v.id == 3) = some v ∧ CurAlone s ∧ s.cur.wait = some (.stinv 3) ∧ s.cur.state = .running ∧ invalDone s v = true) ∧
    (let r : KillRun := { id := 3, pids := [0x0100], tenant := none, stopped := [] }
     let s : State := { demoFirm with kills := [r], nextId := 4 }
     (s.kills.find? fun r => r.id == 3) = some r ∧ threadsOf s r.pids = [] ∧ cstate s 0x0100 = 0 ∧ s.invals = [] ∧
      (s.kills.find? fun r => [(0x0100 : BitVec 16)].all fun p => r.pids.contains p) = some r ∧ (∀ x ∈ s.kills, x.id ≠ 3 → (0x0100 : BitVec 16) ∉ x.pids)) ∧
    (let r : KillRun := { id := 3, pids := [0x0100], tenant := none, stopped := [] }
     let s : State := { demoFirm with kills := [r], nextId := 4, invals := [{ id := 2, tid := 0, pid := 0x0100, lo := 0, hi := 4096, begun := none, spans := [] }] }
     ¬ (∀ v ∈ s.invals, v.pid ∉ r.pids)) ∧
    (let r : KillRun := { id := 3, pids := [demoPid], tenant := none, stopped := [] }
     threadsOf { demo with kills := [r], nextId := 4 } r.pids ≠ []) ∧
    (let s : State := { demo with revokedAt := ((upTo 40).filter (· != 3)).map fun n => (n, 2 ^ 16 + 0x0101) }
     ∀ n, n < 40 → n ≠ 3 → revoked s n (2 ^ 16 + 0x0101) = true) := by
  unfold Drained CurAlone; decide +kernel
/-- A machine-level thread with the words of a GANG in x1 and x2. -/
def demoGang (x tg : Nat) : State := { demoFirm with pool := (demoPool.writeNat 8 8 x).writeNat 0x10 8 tg }
/-- Partition 1 with a valid quantum entry 0 of tenant 1 and a class-0 slot (R347). -/
def withQuantum (s : State) : State :=
  { s with sys := (((s.sys.writeNat (quantumEntry 1 0) 4 9000).writeNat (quantumEntry 1 0 + 4) 1 1).writeNat (quantumEntry 1 0 + 5) 1 1).writeNat (quantumAt 1) 2 2 }
theorem witness_GangAndPartitionSwitches_gang :
    (let s := withQuantum (demoGang 1 3000)
     s.pool.wf = true ∧ guardOn s 0 = true ∧ 2 ≤ s.cur.priv ∧ (rX s 1).toNat = 1 ∧ (getX s 2).toNat = 3000 ∧ partConfigured s 1 = true ∧ qValid s 1 0 = true ∧
      c0slot s 1 = 2 ∧ s.ts + 2500 ≤ 3000 ∧ (s.part 1).world = none ∧ (s.part 1).next = [] ∧ (s.part 1).class0 = none ∧ (s.part 1).class0On = false) ∧
    (2 : Nat) < demo.ts + 2500 ∧ demo.ts + 4960 < 5000 ∧ partConfigured demo 2 = false ∧ c0slot demo 1 = 0 ∧
    (let s := (withQuantum (demoGang 0x201 3000)).modPart 1 fun p => { p with class0On := true }
     (rX s 1).toNat / 2 ^ 8 % 4 = 2 ∧ (s.part 1).class0On = true) ∧
    (let s := (withQuantum (demoGang 1 3000)).modPart 1 fun p => { p with world := some { ent := 0, tg := 9, lease := none, afterReturn := false } }
     (s.part 1).world ≠ none) := by decide +kernel
theorem witness_GangAndPartitionSwitches_world :
    (demo.part 1).world = none ∧ (demo.part 1).worldPhase = 0 ∧ (demo.part 1).sliceEnd = none ∧
    (let s := demo.modPart 1 fun p => { p with world := some { ent := 0, tg := 0, lease := none, afterReturn := false } }
     (s.part 1).world = some { ent := 0, tg := 0, lease := none, afterReturn := false } ∧ (0 : Nat) ≤ s.ts) ∧
    (let s := demo.modPart 1 fun p => { p with world := some { ent := 0, tg := 0, lease := none, afterReturn := true } }
     (s.part 1).world = some { ent := 0, tg := 0, lease := none, afterReturn := true }) ∧
    (let s := demo.modPart 1 fun p => { p with world := some { ent := 0, tg := 0, lease := none, afterReturn := false }, worldPhase := 1 }
     worldStopped s 1 = false ∧ CurAlone s ∧ s.cur.state = .running ∧ worldThread s 1 s.cur = true ∧ midBundle s.cur = false ∧
      worldStopped { s with cur := { demoThread with state := .preempted } } 1 = true) ∧
    (let s := demo.modPart 1 fun p => { p with class0 := some (false, 0) }
     (s.part 1).class0 = some (false, 0)) ∧
    (let s := demo.modPart 1 fun p => { p with class0 := some (true, 0), class0On := true }
     (s.part 1).class0 = some (true, 0) ∧ (s.part 1).tenant ≠ none) ∧
    (let s := (withQuantum demo).modPart 1 fun p => { p with sliceEnd := some 0 }
     nextEntry s 1 0 = some 0 ∧ (s.part 1).world = none ∧ (s.part 1).worldPhase = 0 ∧ (s.part 1).sliceEnd = some 0) ∧ nextEntry demo 1 0 = none := by
  unfold CurAlone; decide +kernel
theorem witness_NotificationsStartServices :
    ((0x0F00 : Nat) % 256 = 0 ∧ demo.debugNotices = [] ∧ (demoPid, (0x10000 : W64), (0x0F00 : W64)) ∈ { demo with debugNotices := [(demoPid, 0x10000, 0x0F00)] }.debugNotices ∧ sysQ demo (svcAt demoPid) = 0 ∧ sysQ demo (svcAt demoPid + 0x10) = 0 ∧ demo.kills = []) ∧
    (let s : State := { demo with sys := (demoSys.writeNat (svcAt demoPid) 8 0x9000).writeNat (svcAt demoPid + 0x10) 8 0xA000 }
     sysQ s (svcAt demoPid) ≠ 0 ∧ sysQ s (svcAt demoPid + 0x10) ≠ 0) ∧
    (let s := withOther .stopped
     (s.threadOfRecord? demoPid 0x10040).any (fun t => t.state == .stopped) = true) := by decide +kernel
/-- The other thread, stopped or in FAULT, with a stopped copy of its own. -/
def demoStopped (st : TState) : State :=
  { withOther st with copies := [{ demoCopyRun with cmd := { demoCmd 2 demoCopy with tid := 1, seq := 5 }, packets := [], stopped := some 5 }], nextId := 5 }
theorem witness_FaultServiceActions :
    (let s := demoStopped .fault
     s.sys.wf = true ∧ s.threadOfRecord? demoPid 0x10040 = some (otherThread .fault) ∧ OtherThread s (otherThread .fault) ∧ (otherThread .fault).stopNext = false ∧
      (otherThread .fault).handler = none ∧ Machine.drained s (otherThread .fault) = false ∧
      (stoppedCopy s (otherThread .fault) 5).any (fun c => s.copy? c.id == some c && c.packets.isEmpty) = true ∧ stoppedCopy s (otherThread .fault) 6 = none ∧ stoppedSum s (otherThread .fault) 6 = none) ∧
    Machine.drained (withOther .fault) (otherThread .fault) = true ∧ demo.threadOfRecord? demoPid 0x10040 = none ∧
    (withOther .ready).threadOfRecord? demoPid 0x10040 = some (otherThread .ready) ∧ OtherThread (withOther .ready) (otherThread .ready) ∧
    (let s : State := { demo with cur := { demoThread with heldAsync := [1] } }
     CurAlone s ∧ asyncDue s s.cur = true ∧ s.cur.img = none ∧ CanTrap s) ∧ asyncDue demo demo.cur = false := by
  unfold OtherThread CurAlone CanTrap; decide +kernel
/-- The context has a debugger (R352). -/
def demoDebug : State := { demoLog with sys := demoLog.sys.writeNat (svcAt demoPid + 0x10) 8 0x9000 }
theorem witness_DebugCommands :
    (CurAlone demoDebug ∧ sysQ demo (svcAt demoPid + 0x10) = 0 ∧ sysQ demoDebug (svcAt demoPid + 0x10) ≠ 0 ∧ debugThread demoDebug 0 0 demoPid = some demoThread ∧
      debugThread demoDebug 0 5 demoPid = none ∧ demoThread.state = .running ∧ midBundle demoThread = false ∧
      (demoDebug.allThreads.filter fun t => t.pid == demoPid && (t.place == .fifo 0 || t.place == .pinned 0 || (t.core == 0 && t.img.isNone))) = [demoDebug.cur] ∧
      (∀ t ∈ demoDebug.allThreads, t.pid ≠ demoPid ∨ (t.place ≠ .fifo 3 ∧ t.place ≠ .pinned 3 ∧ (t.core ≠ 3 ∨ t.img ≠ none)))) ∧
    (let s : State := { demoDebug with cur := { demoThread with state := .stopped } }
     CurAlone s ∧ debugThread s 0 0 demoPid = some s.cur ∧ s.cur.handler = none ∧ s.cur.home = true ∧ s.cur.img = none ∧ s.pool.readNat (wsKey s.cur + 0x1B0) 4 = 0) ∧
    tookWith (appendPolicy 0 0 demoPid (fun _ => [{ path := 0xE, sz := 6, addr := 0, win := 0, data := leBytes 8 0, val := 0 }]) (openCount demoDebug demoPid) demoDebug) (fun _ => true) = true ∧
    (let s0 : State := { demoDebug with cur := { demoThread with state := .stopped } }
     tookWith (appendPolicy 0 0 demoPid (fun _ => [{ path := 0, sz := 5, addr := 0, win := 0, data := leBytes 8 0x8000, val := 0 }]) 0 s0)
      (fun s => let link := s.pool.readNat (wsKey s.cur + 0x1B0) 4
        link != 0 && entrySz s demoPid (linkOff link) == 5 && logNat s demoPid (linkOff link + 16) 8 == 0x8000 && !bundleStays s s.cur 0x8000 && s.cur.state == .stopped) = true) := by
  unfold CurAlone; decide +kernel
theorem witness_LinksAndRegisters :
    (demo.sys.wf = true ∧ (3 : Nat) < 4 ∧ Link.hem 1 ∉ demo.linksWait ∧ Link.hem 1 ∉ demo.linksDown ∧ demo.accesses = [] ∧
      (let s : State := { demo with linksWait := [.hem 1], linksDown := [.stitch 2] }
       Link.hem 1 ∈ s.linksWait ∧ Link.stitch 2 ∈ s.linksDown)) ∧
    storeLevel 0x4000 8 0 = 1 ∧ storeLevel (descAt demoPid) 8 0x1000 ≤ 1 ∧ cstate demo 0x0202 = 0 ∧ storeLevel 0x104016000 8 0 = 2 ∧ storeLevel 0x104012000 8 0 = 2 ∧
    storeLevel (0x101000000 + 0x40 * 3) 8 4 ≤ 1 ∧ (4 : W64).toNat % 16 = 4 ∧ 0x4000 + (leBytes 8 7).length ≤ 0x4000000 ∧
    memoryDie 0 0x100000 < 5 ∧ isRemote 0x4000 = false ∧ { demo with upsets := [.memory 0 0x4000 false] }.upsets = [.memory 0 0x4000 false] ∧
    { demo with upsets := [.unit 3] }.upsets = [.unit 3] := by decide +kernel
theorem witness_DeviceSteps_power :
    (imageAccepted (resetPackage demo) 0 = false ∧ imageAccepted (resetPackage demo) 1 = false ∧ sysQ demo (0x104020000 + 0x4C0) ≠ 1 ∧
      (let s : State := { demo with sys := demoSys.writeNat (0x104020000 + 0x4C0) 8 1, quote := [] }
       sysQ s (0x104020000 + 0x4C0) = 1) ∧ sysQ { demo with imageVer := 3 } (0x104020000 + 0x4D0) % 256 < (3 : W64).toNat ∧ (3 : W64).toNat ≤ 255) ∧
    (let w := sysQ demo 0x104016000
     Nat.min (w / 2 ^ 40 % 2 ^ 12) 2400 = 2400 ∧ w / 2 ^ 28 % 2 ^ 6 = 16 ∧ w / 2 ^ 16 % 2 ^ 6 = 32) ∧
    (let s : State := { demo with sys := demoSys.writeNat 0x104016000 8 (2400 * 2 ^ 40 + 16 * 2 ^ 28 + 16 * 2 ^ 16) }
     sysQ s 0x104016000 / 2 ^ 16 % 2 ^ 6 = 16) := by decide +kernel
theorem witness_DeviceSteps_requests :
    (inboundPid demo 5 0 = none ∧
      (let s : State := { demo with sys := demoSys.writeNat (0x104100000 + 8 * 5) 8 (2 ^ 63 + 0x0101) }
       inboundPid s 5 0 = some demoPid ∧ walk s demoPid 0x4000 = .leaf 0xF63 2 0x3000 ∧ bitAt 0xF63 10 = true ∧ revoked s (stationOf 4 0x4000) (bits 0xF63 56 8) = false)) ∧
    0x30 ≤ sysQ demo (0x104020000 + 0x4C8) ∧ sysQ demo (0x104020000 + 0x4C8) < 0xE0 ∧ sysQ State.reset (0x104020000 + 0x4C8) < 0x30 ∧
    0x20 ∈ bootNext 0x10 ∧ 0x30 ∉ bootNext 1 ∧
    revoked { demo with revokedAt := [(stationOf 4 0x4000, 0x0101)] } (stationOf 4 0x4000) 0x0101 = true ∧
    (0x4000 : W64).toNat % 4096 + 4 ≤ 4096 ∧ 2 ^ 57 < (0x1FFFFFFFFFFFFFF : W64).toNat + 4 ∧ sysQ demo (svcAt 0) = 0 ∧
    sysQ { demo with sys := demoSys.writeNat (svcAt 0) 8 0x9000 } (svcAt 0) ≠ 0 := by decide +kernel
/-- The small state at the turn of core 0 in the thread's slot. -/
def demoTurn : State := { demo with turns := [0] }
theorem witness_StepRunsTheDecodedBundle :
    (let s := demoTurn
     nextChoice s = .core 0 [] [] ∧ CurAlone s ∧ slotThread s 0 (tableSlot (s.core 0).table (tsOf s 0 % 32)) = some s.cur ∧ s.cur.state = .running ∧ isClass0 s s.cur = false ∧
      s.cur.wait = none ∧ s.cur.stopNext = false ∧ s.cur.turnsLeft = none ∧ s.cur.forfeit = 0 ∧ s.cur.trapNext = none ∧ s.cur.heldAsync = [] ∧ s.cur.heldStores = [] ∧
      s.cur.fetched = none ∧ s.cur.pc.toNat < 2 ^ 57 ∧ countDrops s [.mem 0x8000] = s ∧ checkPtr s s.cur .fetch s.cur.pc 8 0 = .ok (.mem 0x8000) ∧ poisonedLoc s (.mem 0x8000) 8 = false ∧
      linkBusy s (dieOf s.cur.core) (.mem 0x8000) = false ∧ cutOff s (dieOf s.cur.core) (.mem 0x8000) = false) ∧
    (let s : State := { demoTurn with ts := 1 }
     slotThread s 0 (tableSlot (s.core 0).table (tsOf s 0 % 32)) = none) ∧
    (let f : State := { demoTurn with turns := [], issue := some 0, cur := { demoThread with npc := 0x8008 } }
     bundleOf 0 = some (.pair (.cNop 0) (.aNop 0)) ∧ startsLate exec f 0 = false ∧ standsBack f 0 = false ∧ (∀ i ∈ [Instr.cNop 0, .aNop 0], abovePriv f i = false ∧ poisonedRead f i = none) ∧ dlogOf f f.cur = false ∧
      carriedRegs (.cNop 0) = [] ∧ carriedRegs (.call 2 0) ≠ [] ∧ frameRing { f with cores := [] } { demoThread with core := 4096 } = 1 ∧ abovePriv f (.rett 0) = true ∧ midBundle f.cur = false ∧
      poisonedRead { f with poolPoison := [1] } (.li 7 0 0) = none ∧ poisonedRead { f with poolPoison := [1] } (.add 2 1 1 0) = some 8 ∧
      bundleOf 0x89ABCDEF8C700000 = some (.long (.li 7 0x89ABCDEF 0)) ∧ bundleOf 0x7FFFFFFF = none ∧ startsLate exec f 0x7FFFFFFF = false ∧ CanTrap f) ∧
    nextChoice { demo with agenda := [.reset] } = .event .reset [] [] ∧ nextChoice demo = .tick [] ∧ stepHeld demo .reset = false ∧
    (let s : State := { withStore with opens := [{ tid := 5, core := 0, scope := 2, loc := .mem 0x4000, n := 4, waits := [0], meet := false }] }
     stepHeld s (.mxuTile 0) = true ∧ nextChoice { s with agenda := [.mxuTile 0] } = .event (.mxuTile 0) [] []) ∧
    holdingPart demo .reset = none ∧
    (let s := { withOther .ready with agenda := [.activeMessage 0 1] }.modPart 1 fun p => { p with worldPhase := 1 }
     holdingPart s (.activeMessage 0 1) = some 1 ∧ stepHeld s (.activeMessage 0 1) = false) ∧
    (let s : State := { demo with agenda := [.slotWaitTimeout 0], ts := 64, cur := { demoThread with wait := some (.barrier 0 0x4000 1), waitFrom := 0, fetched := some (0x8000, 0) } }
     nextChoice s = .event (.slotWaitTimeout 0) [] [] ∧ CurAlone s ∧ waitsPast s.cur = true ∧ waitOver s s.cur = false ∧ dlogOf s s.cur = false ∧ poisonedRead s (.aNop 0) = none) := by
  unfold CurAlone CanTrap; decide +kernel
theorem witness_BundlesDecodeBack : (Instr.cNop 0).wordClass = .cWord ∧ (Instr.aNop 0).wordClass = .aWord ∧ (Instr.cNop 0).wf = true ∧ (Instr.aNop 0).wf = true ∧
    (Instr.li 7 0x89ABCDEF 0).wordClass = .longForm ∧ (Instr.li 7 0x89ABCDEF 0).wf = true := by decide +kernel
theorem witness_StepKeepsMemoriesCanonical : MemoriesCanonical demo ∧ step demo = .next (after (.cNop 0) (tick demo)) := by
  unfold MemoriesCanonical
  exact ⟨by decide +kernel, rfl⟩
theorem witness_StepKeepsNumbersBelow : NumbersBelow demo ∧ NumbersBelow (withOther .ready) := by
  unfold NumbersBelow; decide +kernel

/-! ### Witnesses for the clauses on spills, merges, launches, parts of engine accesses, links and the debug port -/

/-- The page tables of the small state lie from 0x1000 to 0x3FFF. -/
theorem demo_tables : (∀ i, i < 512 → demoHbm.readNat (0x1000 + 8 * i) 8 = if i = 0 then 0x2001 else 0) ∧
    (∀ i, i < 512 → demoHbm.readNat (0x2000 + 8 * i) 8 = if i = 0 then 0x3001 else 0) ∧
    ∀ i, i < 512 → demoHbm.readNat (0x3000 + 8 * i) 8 = if i = 0 then 0xF63 else 0 := by decide +kernel
/-- A memory with these tables maps the first GiB to itself, and no more. -/
theorem demo_walk (s : State) (pid : BitVec 16) (va : Nat) (h : ∀ x, 0x1000 ≤ x → x < 0x4000 → s.hbm.read x = demoHbm.read x)
    (hr : rootOf s pid = 0x1000) (hk : s.pkgId = 0) :
    walk s pid va = if va / 2 ^ 30 % 2 ^ 27 = 0 then .leaf 0xF63 2 0x3000 else .page := by
  have hm (a : Nat) (h1 : 0x1000 ≤ a) (h2 : a + 8 ≤ 0x4000) : s.hbm.readNat a 8 = demoHbm.readNat a 8 :=
    congrArg leNat (Laws.readBytes_eq_of a 8 fun b hb hb' => h b (by omega) (by omega))
  obtain ⟨t1, t2, t3⟩ := demo_tables
  have b4 : bits va 48 9 < 512 := Nat.mod_lt _ (by decide)
  have b3 : bits va 39 9 < 512 := Nat.mod_lt _ (by decide)
  have b2 : bits va 30 9 < 512 := Nat.mod_lt _ (by decide)
  have e4 : s.hbm.readNat (4096 + 8 * bits va 48 9) 8 = if bits va 48 9 = 0 then 0x2001 else 0 := (hm _ (by omega) (by omega)).trans (t1 _ b4)
  have e3 : s.hbm.readNat (8192 + 8 * bits va 39 9) 8 = if bits va 39 9 = 0 then 0x3001 else 0 := (hm _ (by omega) (by omega)).trans (t2 _ b3)
  have e2 : s.hbm.readNat (12288 + 8 * bits va 30 9) 8 = if bits va 30 9 = 0 then 0xF63 else 0 := (hm _ (by omega) (by omega)).trans (t3 _ b2)
  unfold walk
  rw [hr]
  unfold walkFrom
  simp only [Nat.reduceMul, Nat.reduceAdd]
  rw [e4]
  by_cases h4 : bits va 48 9 = 0
  · simp only [h4, if_true]
    unfold walkFrom
    have : bits 0x2001 12 38 * 2 ^ 12 = 8192 := by decide
    simp only [this, Nat.reduceMul, Nat.reduceAdd]
    rw [e3]
    by_cases h3 : bits va 39 9 = 0
    · simp only [h3, if_true]
      unfold walkFrom
      have : bits 0x3001 12 38 * 2 ^ 12 = 12288 := by decide
      simp only [this, Nat.reduceMul, Nat.reduceAdd]
      rw [e2]
      have hz : va / 2 ^ 30 % 2 ^ 27 = 0 ↔ bits va 30 9 = 0 := by simp only [bits] at *; omega
      by_cases h2 : bits va 30 9 = 0
      · rw [if_pos h2, if_pos (hz.2 h2), h2]; simp [bits, bitAt, hk]
      · rw [if_neg h2, if_neg (mt hz.1 h2)]; rfl
    · have hz : ¬ va / 2 ^ 30 % 2 ^ 27 = 0 := by simp only [bits] at *; omega
      rw [if_neg h3, if_neg hz]; rfl
  · have hz : ¬ va / 2 ^ 30 % 2 ^ 27 = 0 := by simp only [bits] at *; omega
    rw [if_neg h4, if_neg hz]; rfl
/-- The places that the device finds in such a memory. -/
theorem demo_deviceAddr (s : State) (pid : BitVec 16) (va : Nat) (wr : Bool) (h : ∀ x, 0x1000 ≤ x → x < 0x4000 → s.hbm.read x = demoHbm.read x)
    (hr : rootOf s pid = 0x1000) (hk : s.pkgId = 0) :
    deviceAddr s pid va wr = if va / 2 ^ 30 % 2 ^ 27 = 0 then .ok (va % 2 ^ 30) else .error cPAGE := by
  unfold deviceAddr
  rw [demo_walk s pid va h hr hk]
  by_cases hz : va / 2 ^ 30 % 2 ^ 27 = 0
  · rw [if_pos hz, if_pos hz]; simp [leafAddr, bits, bitAt, hk]
  · rw [if_neg hz, if_neg hz]
theorem demo_root (s : State) (hs : s.sys = demoSys) : rootOf s demoPid = 0x1000 := by
  unfold rootOf sysQ; rw [hs]; decide +kernel
/-- A write outside these tables leaves the translations as they are. -/
theorem demo_apart (s : State) (P : Nat → Prop) (h : ∀ x, 0x1000 ≤ x → x < 0x4000 → s.hbm.read x = demoHbm.read x)
    (hs : s.sys = demoSys) (hk : s.pkgId = 0) (hP : ∀ x, P x → x < 0x1000 ∨ 0x4000 ≤ x) : TablesApart s demoPid P := by
  have hr := demo_root s hs
  intro m hm va wr
  rw [demo_deviceAddr s demoPid va wr h hr hk]
  refine demo_deviceAddr _ demoPid va wr (fun x h1 h2 => (hm x fun hp => ?_).trans (h x h1 h2)) hr hk
  have := hP x hp; omega
/-- The records of such a context lie from 0x10000 on. -/
theorem demo_records (s : State) (x : Nat) (h : ∀ x, 0x1000 ≤ x → x < 0x4000 → s.hbm.read x = demoHbm.read x)
    (hs : s.sys = demoSys) (hk : s.pkgId = 0) (hl : s.allThreads.length ≤ 2)
    (ht : ∀ t ∈ s.allThreads, 0x10000 ≤ addrOf t.recd) (hx : InRecords s demoPid x) : 0x10000 ≤ x := by
  have hb : sysQ s (descAt demoPid + 0x28) = 0x10000 := by unfold sysQ; rw [hs]; decide +kernel
  have hr := demo_root s hs
  have key (va pr : Nat) (hv : 0x10000 ≤ va) (hv' : va < 2 ^ 57) (e : deviceAddr s demoPid va true = .ok pr) : 0x10000 ≤ pr := by
    rw [demo_deviceAddr s demoPid va true h hr hk] at e
    split at e
    · cases e; omega
    · cases e
  rcases hx with ⟨k, pr, hk', e, h1, _⟩ | ⟨t, htm, pr, hp, e, h1, _⟩
  · rw [hb] at e
    refine (key _ pr ?_ ?_ e).trans h1 <;> simp only [addrOf, bits, BitVec.toNat_ofNat] <;> omega
  · have hh := ht t htm
    unfold recordAddr at e
    split at e
    · cases e
    · rw [hp] at e
      split at e
      · rename_i pa hpa
        cases e
        exact (key _ _ hh (by simp only [addrOf, bits]; omega) hpa).trans h1
      · cases e
/-- A seam table at 0x6000 for group 5, with a round open and one entry held by the other thread, whose UNITID is `rep`, under the words of the
thread's arrival; the entries are at 0x7000. -/
def demoMerge (rep : Nat) : State :=
  let h := seamHash [0x8008, 0]
  let a := 0x7000 + 48 * (h % 4)
  let t := (((((demoHbm.writeNat 0x6000 8 0x7000).writeNat 0x6008 4 4).writeNat 0x600C 1 2).writeNat 0x600E 1 5).writeNat 0x6014 4 1)
  { withOther .seam with
    hbm := (((((t.writeNat a 4 h).writeNat (a + 4) 4 1).writeNat (a + 8) 4 rep).writeNat (a + 0xC) 4 1).writeNat (a + 0x10) 8 0x10040).writeNat (a + 0x20) 8 0x8008
    cur := { demoThread with
      grps := 0x100000005, unitid := 2
      seam := some { tbl := 0x6000, words := [0x8008, 0], dln := 0xFFFFFFFFFFFFFFFF, undo := Memory.empty, undoPoison := [], draw := 0 } }
    seams := [{ pid := demoPid, tbl := 0x6000, base := 0x7000, cap := 4, k := 2, flg := 0, grp := 5, launch := 7 }] }
/-- Where its entry is. -/
def demoMergeEntry : Nat := 0x7000 + 48 * (seamHash [0x8008, 0] % 4)
/-- The entries that its arrival probes. -/
def mergeProbes (s : State) : List (Nat × List Byte) :=
  match readEntries s { pid := demoPid, tbl := 0x6000, base := 0x7000, cap := 4, k := 2, flg := 0, grp := 5, launch := 7 } ((upTo 4).map fun i => (seamHash [0x8008, 0] + i) % 4) with
  | .ok es => es
  | .error _ => []
theorem demoMerge_tables (rep x : Nat) (_ : 0x1000 ≤ x) (_ : x < 0x4000) : (demoMerge rep).hbm.read x = demoHbm.read x := by
  unfold demoMerge
  dsimp only
  repeat rw [Laws.read_writeNat_other _ _ _ _ _ (Or.inl (by omega))]
/-- The arrival with the lower UNITID (entry of 9) and with the higher one (entry of 1) meets what its merge asks for. -/
theorem witness_SeamArrivals_merge :
    (∀ rep, rep = 1 ∨ rep = 9 →
      let s := demoMerge rep
      TablesApart s s.cur.pid (fun x => InSpan demoMergeEntry 48 x ∨ InSpan 0x6000 64 x ∨ InRecords s s.cur.pid x) ∧
        ∀ x, ¬ (InSpan demoMergeEntry 48 x ∧ InSpan 0x6000 64 x) ∧ ¬ (InRecords s s.cur.pid x ∧ (InSpan demoMergeEntry 48 x ∨ InSpan 0x6000 64 x))) ∧
    (∀ rep ∈ [1, 9],
      let s := demoMerge rep
      s.pool.wf = true ∧ s.hbm.wf = true ∧ CurAlone s ∧ s.cur.img = none ∧ nopenOf s s.cur = 0 ∧ isPinned s s.cur = false ∧ s.upsets = [] ∧
      ctxRead s demoPid 0x6000 64 = .ok (readOf s 0x6000 64) ∧ fieldOf (readOf s 0x6000 64) 0x14 4 = 1 ∧ (roundAt s demoPid 0x6000).isSome = true ∧
      (groupsOf s.cur).contains 5 = true ∧ (mergeProbes s).length = 4 ∧
      ((mergeProbes s).filter fun e => sameEntry e).any (fun e => fieldOf e.2 8 4 == rep && !releaseWaits s s.cur (mergeFrees s s.cur e.2) &&
        entryAddr { pid := demoPid, tbl := 0x6000, base := 0x7000, cap := 4, k := 2, flg := 0, grp := 5, launch := 7 } e.1 == demoMergeEntry &&
        mergeFrees s s.cur e.2 == (if rep = 9 then some 1 else some 0)) = true ∧
      (∀ p ∈ s.parts, p.waiters = []) ∧ demoMergeEntry % 4096 + 48 ≤ 4096 ∧
      deviceAddr s demoPid demoMergeEntry true = .ok demoMergeEntry ∧ deviceAddr s demoPid 0x6000 true = .ok 0x6000) := by
  refine ⟨fun rep hr => ?_, by unfold CurAlone; decide +kernel⟩
  have hh := demoMerge_tables rep
  have he : 0x7000 ≤ demoMergeEntry ∧ demoMergeEntry + 48 ≤ 0x8000 := by decide +kernel
  have hrec (x : Nat) (hx : InRecords (demoMerge rep) demoPid x) : 0x10000 ≤ x :=
    demo_records (demoMerge rep) x hh rfl rfl (by rcases hr with rfl | rfl <;> decide +kernel) (by rcases hr with rfl | rfl <;> decide +kernel) hx
  refine ⟨demo_apart _ _ hh rfl rfl ?_, fun x => ?_⟩
  · rintro x (⟨h1, h2⟩ | ⟨h1, h2⟩ | h)
    · omega
    · omega
    · have := hrec x h; omega
  · constructor
    · rintro ⟨⟨h1, h2⟩, h3, h4⟩; omega
    · rintro ⟨h, ⟨h1, h2⟩ | ⟨h1, h2⟩⟩ <;> have := hrec x h <;> omega
/-- A launch whose block is at 0x5000, which passes its check (R129, R132) and has `n` successors, the first of them the block at 0x5100, armed. -/
def demoLow (l : Launch) (n : Nat) : State :=
  { demo with
    launches := [{ l with lpb := 0x5000 }]
    hbm := (((((((((demoHbm.writeNat 0x5000 8 0x9000).writeNat 0x5010 2 1).writeNat 0x5012 2 1).writeNat 0x5014 2 1).writeNat 0x5020 8 0x01010108).writeNat
      0x5028 8 0xFEDCBA9876543210).writeNat 0x5040 8 0x110).writeNat 0x5048 8 n).writeNat 0x5050 8 (0x5100 + 2 ^ 63)).writeNat 0x5140 8 0x50110 }
theorem demoLow_tables (l : Launch) (n x : Nat) (_ : 0x1000 ≤ x) (_ : x < 0x4000) : (demoLow l n).hbm.read x = demoHbm.read x := by
  unfold demoLow
  dsimp only
  repeat rw [Laws.read_writeNat_other _ _ _ _ _ (Or.inl (by omega))]
theorem sameThreads (s u : State) (h : s.cur = u.cur) (h' : s.threads = u.threads) : s.allThreads = u.allThreads := by
  unfold State.allThreads; rw [h, h']
theorem demoLow_records (l : Launch) (n x : Nat) (hx : InRecords (demoLow l n) demoPid x) : 0x10000 ≤ x :=
  have e : (demoLow l n).allThreads = demo.allThreads := sameThreads _ _ rfl rfl
  demo_records (demoLow l n) x (demoLow_tables l n) rfl rfl (by rw [e]; decide +kernel) (by rw [e]; decide +kernel) hx
theorem demoLow_apart (l : Launch) (n pa : Nat) (h : 0x5000 ≤ pa) : TablesApart (demoLow l n) demoPid fun y => InSpan pa 8 y ∨ InRecords (demoLow l n) demoPid y :=
  demo_apart _ _ (demoLow_tables l n) rfl rfl fun x hx => by
    rcases hx with ⟨h1, _⟩ | hx
    · omega
    · have := demoLow_records l n x hx; omega
theorem witness_LaunchSteps_status :
    (∀ n y, InSpan 0x50F8 8 y ∨ InSpan 0x51F8 8 y → ¬ InRecords (demoLow { demoLaunch with state := 0 } n) demoPid y ∧
      ¬ InRecords (demoLow { demoLaunch with live := 0 } n) demoPid y) ∧ (∀ y, InSpan 0x51F8 8 y → ¬ InSpan 0x50F8 8 y) ∧
    TablesApart (demoLow { demoLaunch with live := 0, first := true } 0) demoPid (InSpan 0x50F8 8) ∧
    (let s := demoLow { demoLaunch with state := 0 } 0
     s.hbm.wf = true ∧ deviceAddr s demoPid 0x50F8 true = .ok 0x50F8 ∧ badRange s demoPid 0x5000 256 256 = false ∧
      rejectReason s { demoLaunch with state := 0, lpb := 0x5000 } demoPid (readOf s 0x5000 256) = 0) ∧
    (let s := demoLow { demoLaunch with live := 0 } 1
     ctxNat s demoPid 0x5048 8 % 16 = 1 ∧ (ctxNat s demoPid 0x5050 8).testBit 63 = true ∧ ctxNat s demoPid 0x5050 8 % 2 ^ 57 = 0x5100 ∧
      deviceAddr s demoPid 0x51F8 true = .ok 0x51F8 ∧ blockNeed (ctxNat s demoPid 0x5140 8) (ctxNat s demoPid 0x5148 8) = (5, 0) ∧ 5 ≤ poolFree s 1 ∧
      poolFree (s.modPart 1 fun p => { p with taken := 4096 }) 1 < 5) ∧
    ctxNat (demoLow { demoLaunch with live := 0, first := true } 0) demoPid 0x5048 8 = 0 := by
  refine ⟨fun n y hy => ⟨fun h => ?_, fun h => ?_⟩, fun y h h' => ?_, ?_, by decide +kernel⟩
  · have := demoLow_records _ _ _ h
    rcases hy with ⟨_, h2⟩ | ⟨_, h2⟩ <;> omega
  · have := demoLow_records _ _ _ h
    rcases hy with ⟨_, h2⟩ | ⟨_, h2⟩ <;> omega
  · obtain ⟨h1, h2⟩ := h; obtain ⟨h3, h4⟩ := h'; omega
  · exact demo_apart _ _ (demoLow_tables _ _) rfl rfl fun x ⟨h1, _⟩ => by omega
/-- The thread in the second frame of a ring of two, both in use, with the spill pointer at `sp` and the limit at 0x31000. -/
def demoFull (sp : W64) : State := { demoCalled with cur := { demoCalled.cur with spill := sp, slim := 0x31000 } }
theorem witness_CallAndReturn_spill :
    (let s := demoFull 0
     frameRing s s.cur ≤ s.cur.depth.toNat - s.cur.spilled + 1 ∧ s.cur.pend = [] ∧ s.cur.spill = 0 ∧ freeSpill s s.cur = none) ∧
    (let s := demoFull 0x31000
     s.cur.spill ≠ 0 ∧ s.cur.slim.toNat < s.cur.spill.toNat + 0x800) ∧
    (let s := demoFull 0x30800
     s.pool.wf = true ∧ guardOn s 0 = true ∧ s.cur.spill ≠ 0 ∧ s.cur.spill.toNat + 0x800 ≤ s.cur.slim.toNat ∧
      poolKey s.cur.core (frameNext s s.cur) + 0x800 ≤ wsKey s.cur ∧
      (threadPlaces s.cur .store 0 (pageParts 3 (addrOf s.cur.spill) 0x800) s).2 = .ok [(.mem 0x30800, 0x800)] ∧
      (let s1 := (threadPlaces s.cur .store 0 (pageParts 3 (addrOf s.cur.spill) 0x800) s).1
       s1.cur = s.cur ∧ s1.pool = s.pool ∧ s1.pre = s.pre ∧ s1.hbm.wf = true ∧ linkBusy s1 (dieOf s.cur.core) (.mem 0x30800) = false ∧
        cutOff s1 (dieOf s.cur.core) (.mem 0x30800) = false)) ∧
    (let s : State := { demoFull 0x31000 with cur := { (demoFull 0x31000).cur with spilled := 1 } }
     s.cur.depth ≠ 0 ∧ s.cur.depth.toNat ≤ s.cur.spilled ∧ s.pre = none ∧ s.pool.readNat (wsKey s.cur + 0x1C0) 8 = 0x2008 ∧
      poolKey s.cur.core (framePrev s s.cur) + 0x800 ≤ wsKey s.cur ∧
      (threadPlaces s.cur .load 0 (pageParts 3 (addrOf (s.cur.spill - 0x800)) 0x800) s).2 = .ok [(.mem 0x30800, 0x800)] ∧
      (let s1 := (threadPlaces s.cur .load 0 (pageParts 3 (addrOf (s.cur.spill - 0x800)) 0x800) s).1
       s1.cur = s.cur ∧ s1.pool = s.pool ∧ s1.pre = s.pre ∧ s1.hbm.wf = true)) := by decide +kernel
theorem witness_LogsReachable : LogsReachable withStore (inFlightOf 0 .store (memPiece [1, 2, 3, 4]) .none) ∧
    (inFlightOf 0 .store (memPiece [1, 2, 3, 4]) .none).done = [] ∧ (memPiece [1, 2, 3, 4]).bad = false := by
  refine ⟨fun r hr => ?_, rfl, rfl⟩
  simp [inFlightOf, newAccess] at hr
theorem witness_EndingAndYielding_spool : spoolsOf demo demo.cur.part ≠ [] ∧ isCtl demo.cur.core = false ∧ mustReturn demo demo.cur = false := by decide +kernel
/-- Another thread's release of the barrier word is open. -/
def demoOpenWord : State :=
  { demoBarrier 1 with
    accesses := [{ inFlightOf 0 .store (memPiece [1, 2, 3, 4]) .none with tid := 5, id := 9 }], nextId := 10
    opens := [{ tid := 5, core := 0, scope := 1, loc := .pool 0x4000, n := 8, waits := [9], meet := false }] }
theorem witness_Barriers_late : Drained demoOpenWord ∧ notYet demoOpenWord [{ ptr := 0x2000000000004000, loc := .pool 0x4000, n := 8, data := [] }] = true ∧
    checkPtr demoOpenWord demoOpenWord.cur .atomic 0x2000000000004000 8 0 = .ok (.pool 0x4000) := by
  unfold Drained; decide +kernel
theorem witness_LaunchesAndTasks_block :
    launchBlockOf demo demo.cur = some (0x20000, demoPid) ∧ notYet demo [{ ptr := 0x20090, loc := .mem 0x20090, n := 8, data := [] }] = false ∧
    (let s : State := { demo with launches := [], ended := [(7, 0x20000, demoPid)] }
     s.launch? s.cur.lnch = none ∧ s.ended.find? (fun e => e.1 == s.cur.lnch) = some (s.cur.lnch, 0x20000, demoPid)) ∧
    launchBlockOf { demo with launches := [] } demo.cur = none ∧
    (let s : State := { demo with
      accesses := [{ inFlightOf 0 .store (memPiece [1, 2, 3, 4]) .none with tid := 5, id := 9 }], nextId := 10
      opens := [{ tid := 5, core := 0, scope := 2, loc := .mem 0x20090, n := 8, waits := [9], meet := false }] }
     notYet s [{ ptr := 0x20090, loc := .mem 0x20090, n := 8, data := [] }] = true) := by decide +kernel
theorem witness_SlotSteps_spool : spooled (.spool 3) = true ∧ spooled .nowhere = false ∧
    OtherThread { demo with threads := [{ otherThread .ready with place := .spool 3 }], nextTid := 2 } { otherThread .ready with place := .spool 3 } := by
  unfold OtherThread; decide +kernel
/-- A window is open and the context is STRICT, or the queue of the thread's core is full, or a fence holds the push back. -/
theorem witness_QueueRegisters_fixes :
    (let s : State := { demoOpen with sys := demoOpen.sys.writeNat (descAt demoPid + 0x18) 8 4 }
     nopen s ≠ 0 ∧ strictLog s s.cur.pid = true) ∧ nopen demoOpen ≠ 0 ∧ strictLog demoOpen demoPid = false ∧
    (let s : State := { withAccess { inFlightOf 0 .load (memPiece []) (.x 6 4 true) with ord := 1 } with nextId := 1 }
     heldBack s true false = true) := by decide +kernel
theorem witness_AutomatonAndWatch_links : linkBusy demo (dieOf demo.cur.core) (.mem 0x60000) = false ∧ cutOff demo (dieOf demo.cur.core) (.mem 0x60000) = false := by
  decide +kernel
/-- What an engine reads or writes next is whole where nothing is noted, and in parts otherwise (R220). -/
theorem witness_ahead : ReadsWhole demo ∧ WritesWhole demo ∧ { demo with ahead := [.read 3] }.ahead = [.read 3] ∧ { demo with ahead := [.write 1] }.ahead = [.write 1] ∧
    { demo with ahead := [.batch] }.ahead = [.batch] :=
  ⟨fun _ _ => by simp [demo, State.reset], fun _ _ => by simp [demo, State.reset], rfl, rfl, rfl⟩
/-- Two parts of a write under way, and the state with the first written. -/
def demoParts : Writing := { left := [(.pool 0x4000, [1, 2, 3, 4]), (.pool 0x4004, [5, 6, 7, 8])], done := [] }
/-- The small state with it. -/
def demoPart : State :=
  { demo with pool := (((demo.pool.write 0x4000 1).write 0x4001 2).write 0x4002 3).write 0x4003 4 }
theorem witness_OnePart : OnePart demo demoPart demoParts 0 0x4000 [1, 2, 3, 4] := by
  refine ⟨rfl, ?_, by decide +kernel, fun b hb => ?_, by decide +kernel, fun g => ?_, rfl⟩
  · intro x hx
    simp only [demoParts, List.mem_cons, List.not_mem_nil, or_false] at hx
    rcases hx with rfl | rfl
    · exact ⟨_, rfl, by decide +kernel⟩
    · exact ⟨_, rfl, by decide +kernel⟩
  rotate_left
  · simp [demoPart, demo, State.reset]
  have : b ≠ 0x4000 ∧ b ≠ 0x4001 ∧ b ≠ 0x4002 ∧ b ≠ 0x4003 := by simp only [List.length] at hb; omega
  simp only [demoPart]
  rw [Laws.read_write_other _ _ _ _ this.2.2.2.symm, Laws.read_write_other _ _ _ _ this.2.2.1.symm, Laws.read_write_other _ _ _ _ this.2.1.symm,
    Laws.read_write_other _ _ _ _ this.1.symm]
theorem witness_MatrixUnit_parts :
    (let r := { demoRun demoTile with writing := demoParts }
     let s := withRun r
     mxStepRun s 0 = some r ∧ (s.core 0).mxu = [r] ∧ 2 ≤ r.writing.left.length ∧ 1 % r.writing.left.length = 1) ∧
    (demoRun demoTile).writing.left = [] ∧ (demoRun demoDrain).writing.left = [] := by decide +kernel
theorem witness_Copies_parts : cpBare (demoCmd 2 demoCopy) = false ∧ cpLhe (demoCmd 2 demoCopy) = false ∧ cpSize (demoCmd 2 demoCopy) ≤ 0 + 64 ∧
    (let r := { demoCopyRun with cmd := { demoCmd 2 demoCopy with tid := 1 }, packets := [] }
     OtherThread { withOther .ready with copies := [r], nextId := 5, ahead := [.batch] } (otherThread .ready) ∧ (otherThread .ready).tid = r.cmd.tid) ∧
    (demoCopyRun.packets.find? fun k => k.num == 0).any (fun k => k.parts.length == 1 && k.bad == [] && k.done == []) = true ∧
    cutOff (withCopy demoCopyRun) (streamDie (withCopy demoCopyRun) 0 demoCopyRun.cmd) (.mem 0x6000) = false := by
  unfold OtherThread; decide +kernel
theorem witness_ColumnSums_parts :
    (let x := { demoSumRun with writing := demoParts }
     let s : State := { demo with sums := [x], nextId := 5, ahead := [.write 0] }
     s.sum? 4 = some x ∧ 2 ≤ x.writing.left.length ∧ 0 % x.writing.left.length = 0) ∧ demoSumRun.writing.left = [] ∧
    (let s : State := { withCmd 4 demoSum with ahead := [.read 3] }
     csCheck s 0 (demoCmd 4 demoSum) = none ∧ headCmd s 0 4 = some (demoCmd 4 demoSum)) ∧ (demoCmd 6 demoObj).writing.left = [] := by decide +kernel
/-- A link on the way to a literal or a descriptor retrains, or is down: the pool of core 1024 is on die 1, beyond the hem edge of dies 0 and 1. -/
theorem witness_WorkspaceLiveAndSlotTable_links :
    linkBusy demo (dieOf demo.cur.core) (.mem 0x8028) = false ∧ cutOff demo (dieOf demo.cur.core) (.mem 0x8028) = false ∧
    linkBusy { demo with linksWait := [.hem 0] } 0 (.pool (1024 * 2 ^ 20)) = true ∧ cutOff { demo with linksDown := [.hem 0] } 0 (.pool (1024 * 2 ^ 20)) = true := by
  decide +kernel
/-- A KILL.T of tenant 1 while a KILL of one of its identifiers is in progress, which does not name 0x0102. -/
theorem witness_InvalidationsAndKills_starts :
    demoFirm.kills = [] ∧
    (let r : KillRun := { id := 3, pids := [demoPid], tenant := none, stopped := [] }
     { demoFirm with kills := [r], nextId := 4 }.kills = [r] ∧ r.pids.contains demoPid = true ∧ r.pids.contains 0x0102 = false ∧
      ((upTo 256).map fun i => BitVec.ofNat 16 (0x0100 + i)).contains 0x0102 = true) := by
  refine ⟨rfl, rfl, ?_⟩
  decide +kernel
theorem witness_NotificationsStartServices_halted : bootst demo < 0xE0 ∧ 0xE0 ≤ bootst { demo with sys := demoSys.writeNat (attBase + 0x4C8) 8 0xE1 } := by decide +kernel
theorem witness_FaultServiceActions_drained : Machine.drained (demoStopped .fault) (otherThread .fault) = false ∧
    Machine.drained (withOther .fault) (otherThread .fault) = true := by decide +kernel
/-- The log after a bundle that wrote x6 of the second workspace in debug-log mode: its REG marker, then the old value of the register. -/
noncomputable def demoUndo : State :=
  match appendPolicy 0 0 demoPid (fun _ => [{ path := 0, sz := 5, addr := 0, win := 0, data := leBytes 8 0x8000, val := 0 },
    { path := 2, sz := 3, addr := 0x30, win := 0, data := leBytes 8 77, val := 0 }]) 0 { demoDebug with cur := { demoThread with state := .stopped } } with
  | .ok s _ => s
  | _ => demo
theorem witness_DebugCommands_restores :
    (let s := demoUndo
     let link := s.pool.readNat (wsKey s.cur + 0x1B0) 4
     let head := logNat s demoPid (linkOff link) 8
     let marker := prevLink s demoPid (linkOff link)
     CurAlone s ∧ sysQ s (svcAt demoPid + 0x10) ≠ 0 ∧ debugThread s 0 0 demoPid = some s.cur ∧ s.cur.state = .stopped ∧ s.cur.img = none ∧ s.pool.wf = true ∧ link ≠ 0 ∧
      16 ≤ sysQ s (descAt demoPid + 0x10) ∧ head / 2 ^ 60 % 16 = 2 ∧ head / 2 ^ 57 % 8 = 3 ∧ head % 2 ^ 57 = 0x30 ∧ marker ≠ 0 ∧ entrySz s demoPid (linkOff marker) = 5 ∧
      logNat s demoPid (linkOff marker + 16) 8 = 0x8000 ∧ readLoc s (.log demoPid (linkOff link + 16)) 8 = leBytes 8 77 ∧
      bundleStays { s with pool := s.pool.writeBytes 0x30 (leBytes 8 77) } s.cur 0x8000 = false ∧
      bundleStays { s with hbm := s.hbm.writeNat 0x8000 4 0x30500000 } s.cur 0x8000 = false) ∧
    tookWith (appendPolicy 0 0 demoPid (fun _ => [{ path := 0xE, sz := 6, addr := 0, win := 0, data := leBytes 8 0, val := 0 }]) (openCount demoDebug demoPid) demoDebug)
      (fun s => isMark s demoPid (linkOff (s.pool.readNat (wsKey s.cur + 0x1B0) 4))) = true := by
  unfold CurAlone; decide +kernel
theorem witness_LinksAndRegisters_flits :
    (let a := inFlightOf 0 .store (memPiece [1, 2, 3, 4]) .none
     (withAccess a).accesses.find? (fun x => x.id == a.id) = some a ∧ (∀ x ∈ (withAccess a).accesses, x.id = a.id → x = a) ∧ a.op = .store ∧ a.pieces ≠ []) ∧
    (let a := inFlightOf 0 .load (memPiece []) (.x 6 4 true)
     (withAccess a).accesses.find? (fun x => x.id == a.id) = some a ∧ a.op ≠ .store) ∧
    ((withCopy demoCopyRun).accesses.find? fun x => x.id == 4) = none ∧ (withCopy demoCopyRun).copy? 4 = some demoCopyRun ∧
    demoCopyRun.packets.head?.any (fun k => k.parts != []) = true ∧
    storeLevel 0x100800000 8 0x10040 ≤ 1 ∧ storeLevel 0x100800008 8 0 ≤ 1 ∧
    sysQ { demo with sys := demoSys.writeNat 0x100800008 8 (0x0101 * 2 ^ 16 + 6) } 0x100800008 % 16 = 6 ∧ sysQ demo 0x100800008 % 16 = 0 ∧
    storeLevel (0x101000000 + 0x40 * 0xFFF) 8 9 ≤ 1 ∧ (9 : W64).toNat % 16 = 9 ∧ { demo with upsets := [.boot 0x10 0] }.upsets = [.boot 0x10 0] ∧ 0xE1 ∈ bootNext 1 := by decide +kernel
theorem witness_DeviceSteps_edge : (0x1FFFFFFFFFFFFFC : W64).toNat + 4 ≤ 2 ^ 57 ∧ 2 ^ 57 < (0x1FFFFFFFFFFFFFD : W64).toNat + 4 := by decide +kernel

end Sys2Proof.Tests
end

section
/-!
PROOF. Taking an exception (R21, R22, R60, R331, R363): what a trap does in the workspace and to the thread, where it suspends
instead, and the instructions that take one.
-/
namespace Sys2Proof.Proofs
open Sys2Proof Sys2Proof.Machine Sys2Proof.Safety Sys2Proof.Laws

/-! ### The fields of R21 in the workspace -/

theorem leNat_lt (l : List Byte) : leNat l < 256 ^ l.length := by
  induction l with
  | nil => simp [leNat]
  | cons b rest ih =>
    have hb : b.toNat < 256 := b.isLt
    simp only [leNat, List.length_cons, Nat.pow_succ]
    omega

theorem readNat_lt (m : Memory) (a n : Nat) : m.readNat a n < 256 ^ n := by
  have h := leNat_lt (m.readBytes a n)
  rwa [readBytes_length] at h

/-- INTRAP is bit 12 of STAT, so setting it stays within STAT's word. -/
theorem setBits_intrap_lt {v : Nat} (h : v < 256 ^ 4) : setBits v 12 1 1 < 256 ^ 4 := by
  unfold setBits bits
  omega

/-- A field written in canonical pools reads as the number written, where it fits. -/
theorem readNat_writeNat_fits {m : Memory} (hm : m.wf = true) (a : Nat) {n v : Nat} (hv : v < 256 ^ n) :
    (m.writeNat a n v).readNat a n = v := by
  rw [readNat_writeNat_self hm, Nat.mod_eq_of_lt hv]

/-- Steps 1 to 3 of R21, without flags: four writes, none of which overlaps another or reaches past STAT and the three dwords. -/
theorem trapFields_stand {s : State} (hwf : s.pool.wf = true) (hpriv : s.cur.priv < 4) {cause : Nat} (hcause : cause < 256)
    (val : W64) : TrapFields s (trapFields s cause val 0) cause val := by
  have hwf1 := writeNat_wf hwf (wsKey s.cur + 0x198) 8 (cause + s.cur.priv * 2 ^ 8)
  have hwf2 := writeNat_wf hwf1 (wsKey s.cur + 0x1A0) 8 val.toNat
  have hwf3 := writeNat_wf hwf2 (wsKey s.cur + 0x1A8) 8 s.cur.pc.toNat
  simp only [TrapFields, trapFields, if_true]
  refine ⟨?tcause, ?tval, ?tpc, ?stat, ?frame⟩
  case tcause =>
    rw [readNat_writeNat_other _ _ _ _ _ _ (by omega), readNat_writeNat_other _ _ _ _ _ _ (by omega),
      readNat_writeNat_other _ _ _ _ _ _ (by omega), readNat_writeNat_fits hwf _ (by omega)]
  case tval =>
    rw [readNat_writeNat_other _ _ _ _ _ _ (by omega), readNat_writeNat_other _ _ _ _ _ _ (by omega),
      readNat_writeNat_fits hwf1 _ val.isLt]
  case tpc => rw [readNat_writeNat_other _ _ _ _ _ _ (by omega), readNat_writeNat_fits hwf2 _ s.cur.pc.isLt]
  case stat =>
    rw [readNat_writeNat_fits hwf3 _ (setBits_intrap_lt (readNat_lt _ _ _)), readNat_writeNat_other _ _ _ _ _ _ (by omega),
      readNat_writeNat_other _ _ _ _ _ _ (by omega), readNat_writeNat_other _ _ _ _ _ _ (by omega)]
  case frame =>
    intro x hstat hdwords
    rw [read_writeNat_other _ _ _ _ _ (by omega), read_writeNat_other _ _ _ _ _ (by omega),
      read_writeNat_other _ _ _ _ _ (by omega), read_writeNat_other _ _ _ _ _ (by omega)]

/-! ### A trap -/

/-- A tap adds at most an event to the agenda (R315). -/
theorem tapThread_later (s : State) (t : Thread) (cls : Nat) (w : List Nat) : ∃ es, tapThread s t cls w = s.later es := by
  unfold tapThread tapEvent
  split
  · exact ⟨_, rfl⟩
  · exact ⟨[], by simp [State.later]⟩

/-- The state at the vector: the fields are written, and the thread goes on at TVEC at supervisor level. -/
def atVector (s : State) (cause : Nat) (val : W64) : State :=
  { trapFields s cause val 0 with
    cur := { s.cur with priv := 1, npc := BitVec.ofNat 64 (s.pool.readNat (wsKey s.cur + 0x1D8) 8), wait := none }
    flow := .trapped cause val 0 }

/-- A trap outside a trap, with a vector that a target may hold, goes to it (R21), and a tap may see it. -/
theorem trap_vectored {s : State} (h : CanTrap s) (cause : Nat) (val : W64) :
    trap s cause val = tapThread (atVector s cause val) s.cur 5 [cause, val.toNat, 0, 0] := by
  obtain ⟨-, hintrap, hrange, halign, -⟩ := h
  have hhigh : bits (s.pool.readNat (wsKey s.cur + 0x1D8) 8) 57 7 = 0 := by unfold bits; omega
  have hlow : bits (s.pool.readNat (wsKey s.cur + 0x1D8) 8) 0 3 = 0 := by unfold bits; omega
  simp [trap, takeTrap, atVector, hintrap, hhigh, hlow, trapFields]

/-- The fields are those of the pools, whatever else differs. -/
theorem trapFields_of_pool {s t u : State} {cause : Nat} {val : W64} (h : TrapFields s t cause val) (hpool : u.pool = t.pool) :
    TrapFields s u cause val := by
  unfold TrapFields
  rw [hpool]
  exact h

theorem trap_taken {s : State} (h : CanTrap s) {cause : Nat} (hcause : cause < 256) (val : W64) :
    TrapTaken s (trap s cause val) cause val := by
  have ⟨hwf, _, _, _, hpriv⟩ := h
  obtain ⟨es, hes⟩ := tapThread_later (atVector s cause val) s.cur 5 [cause, val.toNat, 0, 0]
  rw [trap_vectored h, hes]
  refine ⟨trapFields_of_pool (trapFields_stand hwf hpriv hcause val) ?_, ?_⟩
  · simp only [State.later_pool, atVector]
  · simp only [State.later, atVector, trapFields]

/-- While INTRAP is set a trap suspends the thread with the second cause, and writes nothing in the workspace (R22). -/
theorem trap_inTrap {s : State} (h : bitAt (s.pool.readNat (wsKey s.cur + 0x180) 4) 12 = true) (cause : Nat) (val : W64) :
    trap s cause val = { suspendFault s cause 15 0 val 0 s.cur.pc with flow := .trapped cause val 0 } := by
  simp [trap, takeTrap, h]

/-! ### BRK's choice between a stop and a trap -/

theorem breakOr_undebugged {s : State} (h : sysQ s (svcAt s.cur.pid + 0x10) = 0) (cause kind path : Nat) (val : W64) :
    breakOr s cause kind path val = trap s cause val := if_pos (Or.inl h)

theorem breakOr_inTrap {s : State} (h : bitAt (s.pool.readNat (wsKey s.cur + 0x180) 4) 12 = true) (cause kind path : Nat) (val : W64) :
    breakOr s cause kind path val = trap s cause val := if_pos (Or.inr h)

theorem breakOr_debugged {s : State} (h : sysQ s (svcAt s.cur.pid + 0x10) ≠ 0)
    (hintrap : bitAt (s.pool.readNat (wsKey s.cur + 0x180) 4) 12 = false) (cause kind path : Nat) (val : W64) :
    breakOr s cause kind path val = stopCurrent s cause kind path val := by
  simp [breakOr, h, hintrap]

/-! ### The instructions -/

theorem exec_trap {s : State} {g : BitVec 4} (hg : guardOn s g = true) (n : BitVec 11) :
    exec (.trap n g) s = .next (trap s 0x12 (BitVec.ofNat 64 n.toNat)) :=
  congrArg Host.Outcome.next (guarded_true hg _)

theorem exec_brk {s : State} {g : BitVec 4} (hg : guardOn s g = true) (n : BitVec 11) :
    exec (.brk n g) s = .next (breakOr s 0x10 15 0 (BitVec.ofNat 64 n.toNat)) :=
  congrArg Host.Outcome.next (guarded_true hg _)

theorem exec_illeg (s : State) (w : W64) : exec (.illeg w) s = .next (trap s 0x01 w) := rfl

/-- Settles O42: outside a trap each of the instructions is `trap_taken`, inside one `trap_inTrap`, and BRK stops where a debugger
is attached and no trap is being handled. -/
theorem exceptionsAreTaken : Obligations.ExceptionsAreTaken := by
  unfold Obligations.ExceptionsAreTaken
  intro s n w g hg
  refine ⟨fun h cause val hcause => trap_taken h hcause val, trap_inTrap, fun h => ⟨?trap, ?illeg, ?brk, ?stop⟩,
    fun hin => ⟨?trap2, ?illeg2, ?brk2⟩⟩
  case trap => exact ⟨_, exec_trap hg n, trap_taken h (by decide) _⟩
  case illeg => exact ⟨_, exec_illeg s w, trap_taken h (by decide) _⟩
  case brk =>
    intro hdebug
    rw [exec_brk hg, breakOr_undebugged (not_not.mp hdebug)]
    exact ⟨_, rfl, trap_taken h (by decide) _⟩
  case stop =>
    intro hdebug
    obtain ⟨-, hintrap, -⟩ := h
    rw [exec_brk hg, breakOr_debugged hdebug hintrap]
    rfl
  case trap2 => exact (exec_trap hg n).trans (congrArg _ (trap_inTrap hin _ _))
  case illeg2 => exact (exec_illeg s w).trans (congrArg _ (trap_inTrap hin _ _))
  case brk2 => exact (exec_brk hg n).trans (congrArg _ ((breakOr_inTrap hin _ _ _ _).trans (trap_inTrap hin _ _)))

end Sys2Proof.Proofs
end

section
/-!
PROOF. The scalar integer instructions (R74 to R79): each completes under a true guard with the value of its rule in xd and changes nothing
else, but for the turns that a division forfeits (R70).
-/
namespace Sys2Proof.Proofs
open Sys2Proof Sys2Proof.Machine Sys2Proof.Safety Sys2Proof.Laws

/-! ### An instruction of each shape that completes with a value in xd -/

/-- A step that sets xd, its value given as the rule writes it. -/
theorem givesX_of_set {i : Instr} {s t : State} {d : BitVec 5} {v w : W64} (hexec : exec i s = .next t) (hset : XSet s t d.toNat w)
    (hvalue : w = v) : GivesX i s d v := by
  subst hvalue
  exact ⟨t, hexec, hset⟩

section
variable {s : State} {g : BitVec 4} (hwf : s.pool.wf = true) (hguard : guardOn s g = true)
include hwf hguard

theorem givesX_of_formRRR {i : Instr} {f : W64 → W64 → W64} {d a b : BitVec 5} {v : W64}
    (hexec : exec i s = .next (formRRR f d a b g s)) (hvalue : f (rX s a) (rX s b) = v) : GivesX i s d v :=
  givesX_of_set hexec (formRRR_sets hwf hguard f d a b) hvalue

theorem givesX_of_formRR {i : Instr} {f : W64 → W64} {d a : BitVec 5} {v : W64}
    (hexec : exec i s = .next (formRR f d a g s)) (hvalue : f (rX s a) = v) : GivesX i s d v :=
  givesX_of_set hexec (formRR_sets hwf hguard f d a) hvalue

/-- A guarded write of xd whose value depends on more than two registers: INS reads xd, and SEL a predicate (R79). -/
theorem givesX_of_guarded {i : Instr} {d : BitVec 5} {f : State → W64} {v : W64}
    (hexec : exec i s = .next (guarded g s fun u => wX u d (f u))) (hvalue : f s = v) : GivesX i s d v := by
  rw [guarded_true hguard] at hexec
  exact givesX_of_set hexec (setX_set hwf d.toNat (f s)) hvalue

end

/-! ### Forfeited turns (R70) -/

/-- The count of forfeited turns is no part of the workspace's key. -/
theorem wsOf_forfeits (n : Nat) (s : State) : wsOf (forfeits n s) = wsOf s := by
  unfold wsOf rcur
  rw [forfeits_pre, forfeits_cur]
  cases s.pre <;> rfl

theorem forfeits_setX (n : Nat) (s : State) (d : Nat) (v : W64) : forfeits n (setX s d v) = setX (forfeits n s) d v := by
  unfold setX
  rw [wsOf_forfeits]
  split <;> rfl

/-- Turns forfeited after the register is written are forfeited all the same. -/
theorem givesXTurns_of_formRRR {s : State} {g : BitVec 4} (hwf : s.pool.wf = true) (hguard : guardOn s g = true) {n : Nat} {i : Instr}
    {f : W64 → W64 → W64} {d a b : BitVec 5} {v : W64} (hexec : exec i s = .next (forfeits n (formRRR f d a b g s)))
    (hvalue : f (rX s a) (rX s b) = v) : GivesXTurns n i s d v := by
  subst hvalue
  refine ⟨_, hexec, ?_⟩
  have hform : forfeits n (formRRR f d a b g s) = setX (forfeits n s) d.toNat (f (rX s a) (rX s b)) := by
    unfold formRRR
    rw [guarded_true hguard]
    exact forfeits_setX n s d.toNat _
  rw [hform]
  exact setX_set (s := forfeits n s) hwf _ _

/-! ### Arithmetic (R74) -/

theorem sub_eq_ofInt (x y : W64) : x - y = BitVec.ofInt 64 ((x.toNat : Int) - y.toNat) := by
  rw [BitVec.sub_eq_add_neg, sub_eq_add_neg (x.toNat : Int), BitVec.ofInt_add, BitVec.ofInt_neg]
  simp only [BitVec.ofInt_natCast, BitVec.ofNat_toNat, BitVec.setWidth_eq]

theorem mul_eq_ofNat (x y : W64) : x * y = BitVec.ofNat 64 (x.toNat * y.toNat) :=
  BitVec.eq_of_toNat_eq (by rw [BitVec.toNat_mul, BitVec.toNat_ofNat])

/-- MULH's floor is the Euclidean quotient, since 2^64 is positive. -/
theorem mulh_eq_fdiv (x y : W64) :
    BitVec.ofInt 64 (x.toInt * y.toInt / 2 ^ 64) = BitVec.ofInt 64 (Int.fdiv (x.toInt * y.toInt) (2 ^ 64)) := by
  rw [Int.fdiv_eq_ediv_of_nonneg _ (by decide)]

/-- Settles O1: each instruction is of the form of three registers, and the value of the form is the rule's. -/
theorem integerArithmeticAndLogic : Obligations.IntegerArithmeticAndLogic := by
  unfold Obligations.IntegerArithmeticAndLogic
  intro s d a b g hwf hguard
  refine ⟨?add, ?sub, ?mul, ?mulh, ?mulhu, ?and, ?or, ?xor, ?andn⟩
  case add => exact givesX_of_formRRR hwf hguard rfl (BitVec.add_def _ _)
  case sub => exact givesX_of_formRRR hwf hguard rfl (sub_eq_ofInt _ _)
  case mul => exact givesX_of_formRRR hwf hguard rfl (mul_eq_ofNat _ _)
  case mulh => exact givesX_of_formRRR hwf hguard rfl (mulh_eq_fdiv _ _)
  case mulhu => exact givesX_of_formRRR hwf hguard rfl rfl
  case and => exact givesX_of_formRRR hwf hguard rfl rfl
  case or => exact givesX_of_formRRR hwf hguard rfl rfl
  case xor => exact givesX_of_formRRR hwf hguard rfl rfl
  case andn => exact givesX_of_formRRR hwf hguard rfl rfl

/-! ### Division (R75) -/

/-- The quotient by zero has the sign of the dividend. -/
theorem divS_zero (x : W64) :
    divS x 0 = if 0 < x.toInt then 0x7FFFFFFFFFFFFFFF else if x.toInt < 0 then 0x8000000000000000 else 0 := by
  unfold divS
  rw [if_pos rfl]
  by_cases hzero : x = 0
  · subst hzero; rfl
  · have hne : x.toInt ≠ 0 := fun h => hzero (BitVec.eq_of_toInt_eq h)
    rw [if_neg hzero]
    split_ifs with hneg hpos
    · omega
    · rfl
    · rfl
    · omega

theorem divS_eq (x y : W64) :
    divS x y = if y = 0 then (if 0 < x.toInt then 0x7FFFFFFFFFFFFFFF else if x.toInt < 0 then 0x8000000000000000 else 0)
      else if x = 0x8000000000000000 ∧ y = 0xFFFFFFFFFFFFFFFF then 0x7FFFFFFFFFFFFFFF
      else BitVec.ofInt 64 (Int.tdiv x.toInt y.toInt) := by
  by_cases hzero : y = 0
  · subst hzero
    rw [divS_zero, if_pos rfl]
  · rw [if_neg hzero]
    exact if_neg hzero

/-- The remainder of the one signed overflow is 0, that of a division by minus one. -/
theorem remS_eq (x y : W64) :
    remS x y = if y = 0 then x else if x = 0x8000000000000000 ∧ y = 0xFFFFFFFFFFFFFFFF then 0
      else BitVec.ofInt 64 (Int.tmod x.toInt y.toInt) := by
  unfold remS
  by_cases hover : x = 0x8000000000000000 ∧ y = 0xFFFFFFFFFFFFFFFF
  · obtain ⟨rfl, rfl⟩ := hover
    rfl
  · rw [if_neg hover]

/-- Settles O2: the model's quotients and remainders are those of the table, and the turns are forfeited beside the write. -/
theorem divideAndRemainder : Obligations.DivideAndRemainder := by
  unfold Obligations.DivideAndRemainder
  intro s d a b g hwf hguard
  refine ⟨?div, ?rem, ?divu, ?remu⟩
  case div => exact givesXTurns_of_formRRR hwf hguard rfl (divS_eq _ _)
  case rem => exact givesXTurns_of_formRRR hwf hguard rfl (remS_eq _ _)
  case divu => exact givesXTurns_of_formRRR hwf hguard rfl rfl
  case remu => exact givesXTurns_of_formRRR hwf hguard rfl rfl

/-! ### Shifts (R77) -/

theorem shiftLeft_eq_ofNat (x : W64) (n : Nat) : x <<< n = BitVec.ofNat 64 (x.toNat * 2 ^ n) :=
  congrArg (BitVec.ofNat 64) (Nat.shiftLeft_eq _ _)

theorem ushiftRight_eq_ofNat (x : W64) (n : Nat) : x >>> n = BitVec.ofNat 64 (x.toNat / 2 ^ n) := by
  rw [← Nat.shiftRight_eq_div_pow, ← BitVec.toNat_ushiftRight, BitVec.ofNat_toNat, BitVec.setWidth_eq]

theorem sshiftRight_eq_ofInt (x : W64) (n : Nat) : x.sshiftRight n = BitVec.ofInt 64 (Int.fdiv x.toInt (2 ^ n)) := by
  rw [BitVec.sshiftRight_eq, Int.shiftRight_eq_div_pow, Int.fdiv_eq_ediv_of_nonneg _ (by positivity)]
  norm_cast

/-! ### Minimum and maximum (R78) -/

section
variable {α : Type} [LinearOrder α] (key : W64 → α)

theorem min_by_key (x y : W64) : (if key x ≤ key y then x else y) = if key y < key x then y else x := by
  simp only [← not_lt, ite_not]

/-- Where the keys are equal so are the operands, so either may be taken. -/
theorem max_by_key (hkey : key.Injective) (x y : W64) : (if key x ≤ key y then y else x) = if key x < key y then y else x := by
  by_cases heq : key x = key y
  · rw [hkey heq, ite_self, ite_self]
  · simp only [le_iff_lt_or_eq, heq, or_false]

end

theorem toInt_injective : Function.Injective (BitVec.toInt : W64 → Int) := fun _ _ => BitVec.eq_of_toInt_eq

/-- Settles O3: a shift multiplies or divides by a power of two, and MIN and MAX choose by the operands' values as numbers. -/
theorem shiftsAndMinMax : Obligations.ShiftsAndMinMax := by
  unfold Obligations.ShiftsAndMinMax
  intro s d a b g hwf hguard
  refine ⟨?shl, ?shr, ?sar, ?min, ?max, ?minu, ?maxu⟩
  case shl => exact givesX_of_formRRR hwf hguard rfl (shiftLeft_eq_ofNat _ _)
  case shr => exact givesX_of_formRRR hwf hguard rfl (ushiftRight_eq_ofNat _ _)
  case sar => exact givesX_of_formRRR hwf hguard rfl (sshiftRight_eq_ofInt _ _)
  case min => exact givesX_of_formRRR hwf hguard rfl (min_by_key BitVec.toInt _ _)
  case max => exact givesX_of_formRRR hwf hguard rfl (max_by_key BitVec.toInt toInt_injective _ _)
  case minu => exact givesX_of_formRRR hwf hguard rfl (min_by_key BitVec.toNat _ _)
  case maxu => exact givesX_of_formRRR hwf hguard rfl (max_by_key BitVec.toNat BitVec.toNat_injective _ _)

/-! ### Bit fields (R79) -/

/-- The place that a field descriptor gives. -/
def fieldPos (y : W64) : Nat := y.toNat % 64

/-- The number of bits that a field descriptor gives. -/
def fieldLen (y : W64) : Nat := if y.toNat / 256 % 64 = 0 then 64 else y.toNat / 256 % 64

/-- The bits of xd that INS writes under a field descriptor; those at 64 or above fall away. -/
def fieldMask (y : W64) : W64 := BitVec.ofNat 64 ((2 ^ fieldLen y - 1) * 2 ^ fieldPos y)

theorem bits_low_six (y : W64) : bits y.toNat 0 6 = fieldPos y := congrArg (· % 64) (Nat.div_one y.toNat)

theorem extract_eq (x y : W64) : extract x y = x.toNat / 2 ^ fieldPos y % 2 ^ fieldLen y := by
  unfold extract
  rw [bits_low_six]
  rfl

theorem extractS_eq (x y : W64) :
    extractS x y = sextN (x.toNat / 2 ^ fieldPos y % 2 ^ fieldLen y) (Nat.min (fieldLen y) (64 - fieldPos y)) := by
  unfold extractS
  rw [bits_low_six, extract_eq]
  rfl

theorem insertField_eq (old x y : W64) :
    insertField old x y = (old &&& ~~~fieldMask y) ||| ((x <<< fieldPos y) &&& fieldMask y) := by
  unfold insertField
  rw [bits_low_six]
  rfl

/-- Settles O4: the counts, the reversal and the selection are the model's functions, and a field descriptor is read as the rule has it. -/
theorem bitFields : Obligations.BitFields := by
  unfold Obligations.BitFields
  intro s d a b n g hwf hguard
  refine ⟨?clz, ?popc, ?brev, ?extr, ?extrS, ?ins, ?sel⟩
  case clz => exact givesX_of_formRR hwf hguard rfl rfl
  case popc => exact givesX_of_formRR hwf hguard rfl rfl
  case brev => exact givesX_of_formRR hwf hguard rfl rfl
  case extr => exact givesX_of_formRRR hwf hguard rfl (congrArg (BitVec.ofNat 64) (extract_eq _ _))
  case extrS => exact givesX_of_formRRR hwf hguard rfl (extractS_eq _ _)
  case ins => exact givesX_of_guarded hwf hguard rfl (insertField_eq _ _ _)
  case sel => exact givesX_of_guarded hwf hguard (f := fun u => if getP u n.toNat then rX u a else rX u b) rfl rfl

end Sys2Proof.Proofs
end
